-- ==== Sys2Proof/Word.lean ====
section
/-! DEFINITION. The plain types everything else is written in: bytes, sparse tables keyed by a number, and the shape
of a register and of a field of one.  The operations on them stand in `Machine/Ops.lean`. -/
namespace Sys2Proof

/-- One byte. -/
abbrev Byte := BitVec 8

/-- A sparse table: key and value pairs, keys strictly rising.  A key that is not listed holds the table's own
default, which the operation that reads the table names. -/
abbrev Map (α : Type) := List (Nat × α)

/-- An addressed memory: address and byte pairs in the host's cell form. -/
abbrev Memory := List Host.Cell

namespace Machine

/-- The access types of R18. -/
inductive Access where
  | rw | ro | w1c | wo | rc
  deriving DecidableEq, Repr

/-- Where a field's value comes from: the register file, or a view of state held elsewhere (the reader shows it). -/
inductive View where
  | stored
  -- boards, welt tables and tiles
  | shelvings | weltUsed | weltStaged | weltStuck | weltOutlier | weltDropped | weltWaived | weltFloorValid
  | weltFloorScale | weltFloorResidual | weltEntry
  | insoleActive | insoleFree | descLoading | descActive | descStandby | descFree
  | standinBoards
  -- time and fabric
  | master | tackScopes | d2dPresent | d2dPeer | d2dState
  -- faults
  | tilesOut (low held : Bool) | halvesOut (held : Bool) | dieOut (held : Bool) | boardsIn (held : Bool)
  | queueFill | queueValid | queueClass | queueReplay | queueCause | queueIndex | queueStep
  -- event recorder
  | evrUnflushed | evrFill | evrRetired | evrUsed | evrWarn | evrMax | evrSlotRetired | evrSlotWrites | evrSeverity
  | evrWindow
  -- context store and serving
  | framesFree | framesDirty | ctxState | ctxTenant | ctxPages | ctxCommit
  | sessions | activeRequests | probeState | probePriority | probeTenant | probeGapsOver | probeAdmit | probeFirst
  | probeLast | probeGapWorst | tenEnabled | tenPrivileged | tenPolicy | tenClass | tenActive
  | samValid | samSwitch | samDraft | samNgram | samTurnGen | samCount | samEmitted
  -- loading and truing
  | stuckRecord | wearWarn | wearWorn | maxDie | maxBoard | maxCount | truingDue | truingActive | oldestAge
  | oldestValid | oldestBoard | trueImage | loadActive
  -- power
  | progBoards | hotHalf | hotChannel | hotValue | halfHotChannel | halfHotValue | level | throttled | cycPerBeat
  -- management and security
  | alertsLo | alertsHi | keyPresent | keysData | keysMac
  deriving DecidableEq, Repr

/-- A register field.  `addr` is the register's address in die 0 and in the first window and index; `lo` and `hi`
bound the values a write may leave (others are clamped, R22 and R423); a counter saturates unless `wraps` (R20). -/
structure Fld where
  addr  : Nat
  lsb   : Nat
  width : Nat
  reset : Nat
  acc   : Access
  wraps : Bool := false
  lo    : Nat := 0
  hi    : Nat := 2 ^ width - 1
  view  : View := .stored
  deriving DecidableEq, Repr

/-- A register: `words` consecutive 32-bit words (2 for a wide value, R21); one for each die or one for the package;
`dims` lists how many instances lie how many bytes apart: windows first, then an index. -/
structure Reg where
  addr   : Nat
  words  : Nat
  perDie : Bool
  dims   : List (Nat × Nat)
  fields : List Fld
  deriving DecidableEq, Repr

end Machine
end Sys2Proof
end

