-- ==== Sys2Proof/Wire.lean ====
section
/-! DEFINITION. What travels to and from the part, as plain data: places, batch slots, flits and messages.  Commands and
state are both written over these types. -/
namespace Sys2Proof.Machine

/-- A point on the fabric: package (node ID), die and tile. -/
structure Place where
  node : Nat
  die  : Nat
  tile : Nat
  deriving DecidableEq, Repr

/-- A batch slot (R298). -/
structure BatchSlot where
  request  : Nat
  context  : Nat
  tenant   : Nat
  sample   : Bool
  draft    : Bool
  prefill  : Bool
  valid    : Bool
  position : Nat
  token    : Nat
  deriving DecidableEq, Repr

/-- The execution units of R109. -/
inductive EUnit where
  | board (local_ : Nat)
  | vector | mill | mover | send | receive
  deriving DecidableEq, Repr

/-- What a board's analogue parts do in an operation, given with the command: nothing amiss (`fails = false`, no
deviations); a deviation of a column's converted quantity in 1/64 unit; or a failed reference or row driver (R73). -/
structure Analogue where
  fails : Bool := false
  dev   : List (Nat × Int) := []
  deriving DecidableEq, Repr

/-! ### Trione protocol (chapter 11) -/

/-- Where a message comes from or goes to: front port, IPv6 address, UDP port (R287). -/
structure Peer where
  front : Nat
  addr  : Nat
  port  : Nat
  deriving DecidableEq, Repr

/-- A sampling-parameter block (R318); FP32 fields as words. -/
structure SampParams where
  temp      : Nat
  topP      : Nat
  rep       : Nat
  presence  : Nat
  frequency : Nat
  topK      : Nat
  ignoreEnd : Bool
  resetCounts : Bool
  draftMax  : Nat
  ngramM1   : Nat
  stops     : List (Nat × Bool)
  deriving DecidableEq, Repr

/-! ### Deliveries between packages (R299, R320, R333) -/

/-- An order of a batch broadcast (R299). -/
structure Order where
  op      : Nat
  status  : Nat
  context : Nat
  request : Nat
  page    : Nat
  pfx     : Nat
  handle  : Nat
  tenant  : Nat
  group   : Option Nat
  session : Nat
  peer    : Option Peer
  deriving DecidableEq, Repr

/-- A batch broadcast: line 0, the slots, the orders; `gen` is the pattern generation of line 0 (R298, R366). -/
structure Broadcast where
  step   : Nat
  gen    : Nat
  slots  : List BatchSlot
  orders : List Order
  deriving DecidableEq, Repr

/-- A record of a parameter delivery (R320), with the SEED that R326 draws from. -/
structure SamplerRec where
  context      : Nat
  stopOnSwitch : Bool
  newRequest   : Bool
  turnGen      : Nat
  maxTokens    : Nat
  seed         : Nat
  params       : SampParams
  deriving DecidableEq, Repr

/-- A record of a result delivery (R333), with its token words. -/
structure ResultRec where
  context : Nat
  adv     : Nat
  status  : Nat
  tokens  : List Nat
  deriving DecidableEq, Repr

/-- What the head or the tail delivers to a package controller on VL1. -/
inductive PkgMsg where
  | batch (b : Broadcast)
  | params (step : Nat) (records : List SamplerRec)
  | results (step : Nat) (records : List ResultRec)
  deriving DecidableEq, Repr

/-! ### Ecmon Link (chapter 9) -/

/-- The header of a received wire flit (R227) with the port and group it arrived on, and whether the RS code corrected
one or two of its symbols (R229). -/
structure Hdr where
  port  : Nat
  group : Nat
  dest  : Nat
  job   : Nat
  vl    : Nat
  seq   : Nat
  ack   : Nat
  nak   : Bool
  cvl   : Nat
  cred  : Nat
  corrected : Bool
  deriving DecidableEq, Repr

/-- The copy record that the first flit of a routed copy carries (R230): ORIGIN, BATCH and CHOICE. -/
structure CopyRec where
  origin : Place
  batch  : Nat
  choice : Nat
  deriving DecidableEq, Repr

/-- Where a DATA, COPY or END flit is for (R230). -/
structure Delivery where
  die    : Nat
  tile   : Nat
  slot   : Nat
  tag    : Nat
  replay : Nat
  deriving DecidableEq, Repr

/-- The send a DATA or COPY flit belongs to, which its payload does not carry: the sender, its instruction, its lines. -/
structure Origin where
  src   : Place
  index : Nat
  total : Nat
  deriving DecidableEq, Repr

/-- A record of an ACKD flit (R231): the sending tile, the tag, replay count and step. -/
structure AckdRec where
  die    : Nat
  tile   : Nat
  tag    : Nat
  replay : Nat
  step   : Nat
  deriving DecidableEq, Repr

/-- A PEG payload (R231): DONE or ARRIVE, its flags, what it is for, and the packages whose arrival it carries. -/
structure PegMsg where
  done    : Bool
  slip    : Bool
  late    : Bool
  fault   : Bool
  replay  : Nat
  step    : Nat
  pegId   : Nat
  arrived : Nat
  deriving DecidableEq, Repr

/-- A flip order of a commit (R366): of a pattern generation, or of a tenant's insole version. -/
structure Flip where
  insole  : Bool
  version : Nat
  tenant  : Nat
  gen     : Nat
  deriving DecidableEq, Repr

/-- A commit message, all its segments together (R171, R231). -/
structure CommitMsg where
  step   : Nat
  replay : Nat
  slip   : Bool
  late   : Bool
  gear   : Nat
  next   : Nat
  flips  : List Flip
  deriving DecidableEq, Repr

/-- A FAULT_NOTICE (R424). -/
structure Notice where
  node   : Nat
  cls    : Nat
  cause  : Nat
  replay : Nat
  step   : Nat
  unit   : Nat
  deriving DecidableEq, Repr

/-- A REPLICA_REQ (R424), with the requester's node. -/
structure ReplicaReq where
  node   : Nat
  die    : Nat
  tile   : Nat
  replay : Nat
  step   : Nat
  index  : Nat
  vcount : Nat
  crc    : Nat
  board  : Nat
  deriving DecidableEq, Repr

/-- The CTRL messages of VL0 (R365, R424). -/
inductive Ctrl where
  | ready (kind node obj code : Nat)
  | fail (kind node obj code : Nat)
  | notice (n : Notice)
  | replay (replay step start : Nat)
  | settle (replay step : Nat)
  | hold (cause step node : Nat)
  | probe (step : Nat)
  | probeReply (node step : Nat) (tiles : List Nat)
  | replicaReq (r : ReplicaReq)
  | replicaDone (r : ReplicaReq) (status : Nat)
  deriving DecidableEq, Repr

/-- A fragment of a SHARD message on VL3 (R347). -/
structure ShardFrag where
  index  : Nat
  offset : Nat
  total  : Nat
  bytes  : List Nat
  deriving DecidableEq, Repr

/-- What a wire flit carries (R228 to R231). -/
inductive FlitBody where
  | data (d : Delivery) (o : Origin) (line : Nat) (lines : List (List Nat))
  | copy (d : Delivery) (o : Origin) (idx line : Nat) (rec_ : CopyRec) (lines : List (List Nat))
  | endMark (d : Delivery) (origin : Place) (copies : Nat)
  | ackd (recs : List AckdRec)
  | peg (m : PegMsg)
  | commit (m : CommitMsg) (seg segs : Nat)
  | time (beat refcyc : Nat) (valid : Bool) (theta : Int)
  | ctrl (m : Ctrl)
  | shard (f : ShardFrag)
  | pkg (m : PkgMsg)
  deriving DecidableEq, Repr

/-- A wire flit without the header fields that every hop rebuilds (R227). -/
structure Flit where
  dest : Nat
  job  : Nat
  vl   : Nat
  body : FlitBody
  deriving DecidableEq, Repr

/-- A TRAIN payload (R245), but for its time stamps: who sends, its lanes and flags, its owner. -/
structure TrainMsg where
  node  : Nat
  port  : Nat
  group : Nat
  lanes : Nat
  enc   : Bool
  echo  : Bool
  job   : Nat
  kind  : Nat
  valid : Bool
  deriving DecidableEq, Repr

/-- A SUBMIT body (R290). -/
structure Submit where
  keep       : Bool
  cont       : Bool
  resume     : Bool
  useHandle  : Bool
  pin        : Bool
  stopOnSwitch : Bool
  priority   : Nat
  maxTokens  : Nat
  clientTag  : Nat
  seed       : Nat
  handle     : Nat
  params     : SampParams
  tokens     : List Nat
  deriving DecidableEq, Repr

/-- A TENANT order's body (R314). -/
structure TenantOrder where
  enabled    : Bool
  privileged : Bool
  group      : Option Nat
  cls        : Nat
  policy     : Nat
  maxActive  : Nat
  maxContext : Nat
  ttft       : Nat
  tbt        : Nat
  pinMax     : Nat
  deriving DecidableEq, Repr

/-- An entry of a step packet (R309): tokens with their LATE and STOP bits, and the resume handle. -/
structure StepEntry where
  request : Nat
  gen     : Nat
  status  : Nat
  tokens  : List (Nat × Bool × Bool)
  handle  : Option Nat
  deriving DecidableEq, Repr

/-- What a QUERY answers (R294). -/
structure QueryInfo where
  state    : Nat
  priority : Nat
  commit   : Nat
  emitted  : Nat
  admitAt  : Nat
  first    : Nat
  last     : Nat
  worst    : Nat
  overN     : Nat
  deriving DecidableEq, Repr

/-- A shard stream (R346): its header, and what its CRC says. -/
structure ShardHdr where
  kind   : Nat
  abort  : Bool
  repair : Bool
  dest   : Nat
  object : Nat
  index  : Nat
  count  : Nat
  offset : Nat
  deriving DecidableEq, Repr

/-- A replica-table entry (R411). -/
structure ReplicaRow where
  index   : Nat
  replica : Nat
  crc     : Nat
  deriving DecidableEq, Repr

/-- The place of a frame image (R315). -/
structure ImageId where
  handle : Nat
  node   : Nat
  die    : Nat
  page   : Nat
  deriving DecidableEq, Repr

/-- A record of a REPORT message (R425): a fault record, or a load record of R352 by its EVENT. -/
structure Report where
  event  : Nat
  cls    : Nat
  cause  : Nat
  unit   : Nat
  step   : Nat
  detail : Nat
  deriving DecidableEq, Repr

/-- The bodies of TNP messages (R285). -/
inductive TnpBody where
  | open_ (gateway : Nat)
  | close
  | submit (b : Submit)
  | cancel
  | query
  | unpin (handle : Nat)
  | ack (step : Nat)
  | resend (first count : Nat)
  | opened (session tail : Nat) (addr : List Nat)
  | admitted (clientTag status cached : Nat)
  | step (beat : Nat) (entries : List StepEntry)
  | status (answers status : Nat) (query : Option QueryInfo)
  | start (job gear b0 framesMin : Nat)
  | stop (job last : Nat)
  | gear (job gear : Nat)
  | epoch (hi : Nat)
  | transit (job dim group lanes : Nat) (enc : Bool)
  | release (dim group : Nat)
  | tenant (o : TenantOrder)
  | pageOut (request handle : Nat)
  | pageIn (request : Nat)
  | replica (job : Nat) (rows : List ReplicaRow)
  | report (records : List Report)
  | shard (h : ShardHdr) (crcOk : Bool) (data : List Nat)
  | put (i : ImageId) (image tag : List Nat)
  | putAck (i : ImageId) (status : Nat)
  | get (i : ImageId)
  | data (i : ImageId) (image tag : List Nat)
  | streamAck
  deriving DecidableEq, Repr

/-- A TNP message, all its segments together (R281, R283). -/
structure Tnp where
  session : Nat
  tenant  : Nat
  seq     : Nat
  ack     : Nat
  request : Nat
  body    : TnpBody
  deriving DecidableEq, Repr

/-- How a message arrives: from where, what its header says, and whether its tag verifies under the key that its class
selects (R282). -/
structure TnpIn where
  src     : Peer
  tagOk   : Bool
  session : Nat
  tenant  : Nat
  seq     : Nat
  ack     : Nat
  request : Nat
  deriving DecidableEq, Repr

/-- A lifecycle token (R431) without its COMMAND byte. -/
structure Token where
  magic     : Nat
  version   : Nat
  owner     : Nat
  uid       : Nat
  challenge : Nat
  reserved  : Nat
  pub       : List Nat
  sig       : List Nat
  deriving DecidableEq, Repr

/-- The straps as the lands hold them. -/
structure Straps where
  master   : Bool
  flash    : Nat
  bootCopy : Bool
  testEn   : Bool
  deriving DecidableEq, Repr

/-- How an edge's training ended at start-up. -/
structure EdgeTrained where
  modules : Nat
  slow    : Nat
  us      : Nat
  lanes   : Nat
  deriving DecidableEq, Repr

/-- What is wrong with a request frame: its CRC, its form (R509), or the packet error code of an SMBus write (R505). -/
inductive BadFrame where
  | crc (tag : Nat)
  | format (tag : Nat)
  | pec
  deriving DecidableEq, Repr

/-- An MCTP message as it arrives: destination and source endpoint, message tag, instance, and whether its packet error
code is right. -/
structure McIn where
  eid  : Nat
  from_ : Nat
  tag  : Nat
  inst : Nat
  pecOk : Bool
  deriving DecidableEq, Repr

/-- The rails of R468 that have a comparator of their own action. -/
inductive Rail where
  | vcore | varr | vprog | vsram | vhbm | vopt | vddaMon
  deriving DecidableEq, Repr

/-- A pair that a read-back has found (R381): its place in the board and what it reads, as 8 · positive + negative. -/
structure Finding where
  row   : Nat
  col   : Nat
  reads : Nat
  deriving DecidableEq, Repr

/-- A SecTAG (R279): the receive channel of its SCI, none where no channel has it; the association; the packet number;
whether the frame validates under that association's SAK. -/
structure SecTag where
  channel : Option Nat
  an      : Nat
  pn      : Nat
  valid   : Bool
  deriving DecidableEq, Repr

/-- A TNP segment as it arrives (R281): whether MAGIC, VERSION and LENGTH are right, its header, its bytes, and whether
its tag verifies under the key that its class selects (R282). -/
structure Segment where
  src     : Peer
  formOk  : Bool
  tagOk   : Bool
  typ     : Nat
  session : Nat
  tenant  : Nat
  seq     : Nat
  request : Nat
  index   : Nat
  last    : Bool
  bytes   : Nat
  deriving DecidableEq, Repr

/-- What an Ethernet frame carries (R278, R280): a PAUSE or PFC frame; an EtherType that is not taken; an IPv6 packet
that is not taken (extension headers, another address, another protocol or port); a Neighbor Solicitation or Echo
Request to the port's address; a UDP datagram to the TNP port, with its checksum and its segment. -/
inductive FramePayload where
  | pause
  | otherType
  | otherIp
  | icmp
  | udp (checksumOk : Bool) (seg : Segment)
  deriving DecidableEq, Repr

/-- An Ethernet frame at a front port (R278, R279). -/
structure EthFrame where
  front   : Nat
  bytes   : Nat
  /-- The FEC corrects it and its frame check sequence is right. -/
  intact  : Bool
  vlan    : Option Nat
  sec     : Option SecTag
  payload : FramePayload
  deriving DecidableEq, Repr

/-- What the part sends: a set-point frame to a power module (R469); on a front port a TNP message, or an answer to a
Neighbor Solicitation or Echo Request (R280); on the management port what a read returns, the answer to a common command
code, or an in-band interrupt (R505, R511, R515); on TDO a data register's bits (R550). -/
inductive Out where
  | tnp (dest : Peer) (m : Tnp)
  | setPoint (die half code : Nat)
  | neighbor (front target : Nat)
  | echo (front dest ident seq : Nat) (data : List Nat)
  | mgmt (bytes : List Nat)
  | ccc (code : Nat) (bytes : List Nat)
  | ibi (data : Nat)
  | tdo (bits value : Nat)
  deriving DecidableEq, Repr

end Sys2Proof.Machine
end

