-- ==== Sys2Proof/Syntax.lean ====
section
/-! DEFINITION. The commands of the part, one constructor for each row of spec/opcode_table.json, in the table's
order, those with operands first (a runtime limit on constructors with fields).  A
command is an event at the part: a pin, a clock event, a frame or flit received, a register access, an instruction at an
engine's program counter, or the end of something the part has begun.  Tiles are numbered die · 48 + tile, halves
2 · die + E, boards die · 6144 + array. -/
namespace Sys2Proof

open Machine

/-- The commands. -/
inductive Instr where
  /-- STRAPS: Stage 1 latches the straps, reads the fuses, sets the lifecycle state and advances the power-cycle
  count (R483). -/
  | straps (x : Straps)
  /-- RECORD: Stage 3 resets the flash, reads the setup-record copies and checks them in order (R488). -/
  | record (flash : Bool) (a : Option (List Nat)) (c : Option (List Nat))
  /-- CAL: Stage 6 restores the calibration store into the trims of boards whose images check out (R496). -/
  | cal (bad : List Nat)
  /-- D2D: Stage 7 trains every die-to-die edge (R214). -/
  | d2d (es : List EdgeTrained)
  /-- HBM: Stage 8 trains every HBM4 stack (R251). -/
  | hbm (failed : List Nat)
  /-- WARM_START: Deassertion of WRST_N latches the straps and runs stages 3 to 11 (R502). -/
  | warmStart (x : Straps)
  /-- VAUX_LOW: VAUX below 1.62 V holds the part in reset until VAUX returns (R470). -/
  | vauxLow (cut : List Nat)
  /-- RAIL_COMPARATOR_FIRE: A rail comparator fires after 10 us out of window and the part raises SUPPLY or takes the
  action for that rail (R470). -/
  | railComparatorFire (rail : Rail) (d : Nat) (e : Nat)
  /-- SUPPLY_QUIET: After 1 ms of comparator quiet, a half that left service for SUPPLY starts its half test (R470).
  -/
  | supplyQuiet (h : Nat)
  /-- THERMAL_TRIP: A 115 C comparator fires, and the half stops its clock, requests 0.600 V and raises THERMAL
  (R478). -/
  | thermalTrip (d : Nat) (x : Nat)
  /-- TRIP_RELEASE: After 1 ms of diodes below ALERT_C minus HYST_C, a tripped half requests its set point and
  becomes SHELVED (R478). -/
  | tripRelease (h : Nat)
  /-- STACK_FAILURE: A stack leaves service, making the die's context store unavailable and leading to HOLD (R276).
  -/
  | stackFailure (d : Nat)
  /-- STACK_TEMP_READOUT: A stack temperature readout at or above 95 C throttles and at or above 105 C takes the
  stack out of service (R479). -/
  | stackTempReadout (d : Nat) (temp : Nat)
  /-- EPOCH_WRITE: A write of TIMEBASE_EPOCH places a set-epoch order, ignored while a job runs (R164). -/
  | epochWrite (hi : Nat)
  /-- EPOCH: The EPOCH control message places a set-epoch order (R164). -/
  | epoch (i : TnpIn) (hi : Nat)
  /-- TIME_SAMPLE_SEND: At least every 64 beats each job port sends a timing sample to its peer on VL0 (R166). -/
  | timeSampleSend (port : Nat)
  /-- TIME: A TIME flit is received; the link offset and theta are updated (R166). -/
  | time (h : Hdr) (beat : Nat) (refcyc : Nat) (valid : Bool) (theta : Int)
  /-- START: A START order is checked and, when accepted, starts the job's tasks on every tile (R175). -/
  | start (i : TnpIn) (job : Nat) (gear : Nat) (b0 : Nat) (framesMin : Nat)
  /-- TAGWRAP_DONE: The 512-cycle tag clear ends and the waiting task start takes generation 1 (R146). -/
  | tagwrapDone (t : Nat)
  /-- STOP: A STOP order names the job's last step, after whose commit the tasks end (R175). -/
  | stop (i : TnpIn) (job : Nat) (last : Nat)
  /-- GEAR: A GEAR order is taken into the head's next commit message, naming the gear of the step after next (R177).
  -/
  | gear (i : TnpIn) (job : Nat) (gear : Nat)
  /-- TRUING_OVERDUE: A READY board whose truing interval has run out is shelved with cause OVERDUE at the step start
  (R384). -/
  | truingOverdue (b : Nat)
  /-- VSET_SETTLED: The time T after a set-point frame elapses and the rail counts as settled (R469). -/
  | vsetSettled (h : Nat)
  /-- GEAR_CLOCK_SWITCH: A half that started a step at the old clock switches at the first beat edge after T (R471).
  -/
  | gearClockSwitch (h : Nat)
  /-- BATCH_BROADCAST: A package receives the batch broadcast of a step through its package controller (R299). -/
  | batchBroadcast (hs : List Hdr) (b : Broadcast)
  /-- PARAMETER_DELIVERY: The tail receives the sampler records of requests whose turn starts in the step (R320). -/
  | parameterDelivery (hs : List Hdr) (step : Nat) (recs : List SamplerRec)
  /-- RESULT_DELIVERY: A package receives the tail's result delivery of a committed step (R333). -/
  | resultDelivery (hs : List Hdr) (step : Nat) (recs : List ResultRec)
  /-- COMMIT: A package receives all segments of the commit message and step k commits there (R171). -/
  | commit (w : Option (List Hdr × CommitMsg))
  /-- ARR_MVP: ARR MVP applies vectors to a board run and writes the column values (R117). -/
  | arrMvp (an : Analogue) (t : Nat)
  /-- ARR_MVP_ADD: ARR MVP_ADD applies vectors to a board run and adds the column values to the destination (R117).
  -/
  | arrMvpAdd (an : Analogue) (t : Nat)
  /-- MOV_COPY: MOV COPY copies vectors of lines between scratchpad ranges (R121). -/
  | movCopy (t : Nat)
  /-- MOV_ZERO: MOV ZERO writes zero to vectors of lines (R121). -/
  | movZero (t : Nat)
  /-- MOV_SETX: MOV SETX writes an immediate into an X register (R116). -/
  | movSetx (t : Nat)
  /-- MOV_ADDX: MOV ADDX adds an immediate to an X register modulo 2^32 (R116). -/
  | movAddx (t : Nat)
  /-- VEC_ADD: VEC ADD adds two vectors elementwise (R118). -/
  | vecAdd (t : Nat)
  /-- VEC_MUL: VEC MUL multiplies two vectors elementwise (R118). -/
  | vecMul (t : Nat)
  /-- VEC_SCALE: VEC SCALE multiplies a vector by a scalar (R118). -/
  | vecScale (t : Nat)
  /-- VEC_SUMSQ: VEC SUMSQ reduces the sum of squares in the fixed order (R118). -/
  | vecSumsq (t : Nat)
  /-- VEC_MAX: VEC MAX reduces the maximum element (R118). -/
  | vecMax (t : Nat)
  /-- VEC_SUM: VEC SUM reduces the sum in the fixed order (R118). -/
  | vecSum (t : Nat)
  /-- VEC_EXPSUB: VEC EXPSUB computes exp of each element minus a scalar (R118). -/
  | vecExpsub (t : Nat)
  /-- VEC_DIV: VEC DIV divides each element by a scalar (R118). -/
  | vecDiv (t : Nat)
  /-- VEC_RSQ: VEC RSQ computes rsqrt of the mean plus epsilon (R118). -/
  | vecRsq (t : Nat)
  /-- VEC_ROPE: VEC ROPE applies rotary embedding by slot position (R118). -/
  | vecRope (t : Nat)
  /-- VEC_SILU_GATE: VEC SILU_GATE computes silu of A times B (R118). -/
  | vecSiluGate (t : Nat)
  /-- VEC_GELU_GATE: VEC GELU_GATE computes gelu of A times B (R118). -/
  | vecGeluGate (t : Nat)
  /-- VEC_QUANT: VEC QUANT converts FP32 blocks to a narrow format (R50). -/
  | vecQuant (t : Nat)
  /-- VEC_DEQ: VEC DEQ converts narrow elements to FP32 with their scale (R118). -/
  | vecDeq (t : Nat)
  /-- VEC_TOPK: VEC TOPK writes the indices and values of the k largest elements (R118). -/
  | vecTopk (t : Nat)
  /-- MIL_ATTN: MIL ATTN computes attention over the request's KV pages in chunks (R125). -/
  | milAttn (t : Nat)
  /-- WEL_SCRUB: WEL SCRUB reads back a row group and records stuck corrections (R381). -/
  | welScrub (found : List Finding) (t : Nat)
  /-- RED_ADD8: RED ADD8 waits for a receive and adds FP8 vectors into FP32 accumulators (R563). -/
  | redAdd8 (t : Nat)
  /-- RED_ADD32: RED ADD32 waits for a receive and adds FP32 vectors into accumulators (R563). -/
  | redAdd32 (t : Nat)
  /-- RED_MAX32: RED MAX32 waits for a receive and keeps the elementwise maximum (R563). -/
  | redMax32 (t : Nat)
  /-- SND_SEND: SND SEND sends lines to a tile, or appends KV entries when TILE is 0x3F (R265). -/
  | sndSend (t : Nat)
  /-- SND_ROUTE: SND ROUTE sends copies of vectors to expert tiles and end markers (R123). -/
  | sndRoute (t : Nat)
  /-- SND_RETURN: SND RETURN sends each copy's result back to its origin tile (R123). -/
  | sndReturn (t : Nat)
  /-- RCV_POST: RCV POST posts a receive of lines under a tag (R152). -/
  | rcvPost (t : Nat)
  /-- RCV_WAIT: RCV WAIT holds issue until a receive completes (R152). -/
  | rcvWait (t : Nat)
  /-- RCV_GATHER: RCV GATHER posts a gather of routed copies up to CAP (R123). -/
  | rcvGather (t : Nat)
  /-- RECEIVE_COMPLETE: Every line of a receive, or every end marker of a gather, has arrived and the receive
  completes (R152). -/
  | receiveComplete (t : Nat) (tag : Nat)
  /-- PEG_TILE: PEG TILE drains the tile's accesses and completes alone (R155). -/
  | pegTile (t : Nat)
  /-- PEG_HALF: PEG HALF drains and posts an arrival for the half scope (R155). -/
  | pegHalf (t : Nat)
  /-- PEG_DIE: PEG DIE drains and posts an arrival for the die scope (R155). -/
  | pegDie (t : Nat)
  /-- PEG_PACKAGE: PEG PACKAGE drains and posts an arrival for the package scope (R155). -/
  | pegPackage (t : Nat)
  /-- PEG_JOB: PEG JOB drains and posts an arrival for the job scope (R155). -/
  | pegJob (t : Nat)
  /-- PEG_ARRIVAL: A tree node receives an up-tree arrival word and forwards it once all its children hold one check
  (R209). -/
  | pegArrival (k : Nat)
  /-- WAIT_BEAT: WAIT BEAT holds issue until the named beat offset, or finds it already passed (R122). -/
  | waitBeat (t : Nat)
  /-- WAIT_BEAT_RELEASE: The named beat offset begins and issue resumes (R122). -/
  | waitBeatRelease (t : Nat)
  /-- WAIT_CYCLES: WAIT CYCLES holds issue for COUNT cycles (R122). -/
  | waitCycles (t : Nat)
  /-- CHK_SAMPLE: CHK SAMPLE drives a sampled row group three times and compares with the mill (R133). -/
  | chkSample (an : Analogue) (t : Nat)
  /-- CHK_RETAIN: CHK RETAIN retains a range of lines as step input until commit (R135). -/
  | chkRetain (t : Nat)
  /-- CHK_DONE: CHK DONE ends the tile's program for the step (R112). -/
  | chkDone (t : Nat)
  /-- TILE_DONE: Every instruction before CHK DONE has completed and the tile becomes DONE (R112). -/
  | tileDone (t : Nat)
  /-- SAMPLER_DRAW: The sampler draws a token for each sampled slot once its logits arrive (R325). -/
  | samplerDraw (slot : Nat) (logits : List Nat)
  /-- SPAD_SCRUB_READ: The patrol scrub reads one line of each bank and corrects or rewrites it (R140). -/
  | spadScrubRead (t : Nat) (upsets : List (Nat × Nat)) (tagUpsets : List Nat)
  /-- MESH_PACKET: A router receives a mesh packet, checks its header and routes it (R200). -/
  | meshPacket (k : Nat) (headerOk : Bool) (half : Nat)
  /-- DELIVERY: A delivered line is written into a tile's scratchpad if its generation still matches (R147). -/
  | delivery (t : Nat) (k : Nat)
  /-- APPEND: A CTX station writes an append's elements and scale bytes into the page (R266). -/
  | append (k : Nat)
  /-- ACK: An ACK tack message reports a send's delivery to the sending tile or holder (R207). -/
  | ack (die : Nat)
  /-- CREDIT: A CREDIT tack message returns delivery-buffer lines to an off-die holder (R207). -/
  | credit (die : Nat)
  /-- LATE: A LATE tack message tells the die controller of a late WAIT BEAT (R207). -/
  | late (die : Nat)
  /-- FAULT: A FAULT tack message reaches the die controller, which shelves the unit and queues the fault (R403). -/
  | fault (die : Nat)
  /-- ORDER: An ORDER tack message from the die controller reaches a tile (R207). -/
  | order (die : Nat)
  /-- D2D_EDGE_DOWN: A die-to-die edge leaves UP or DEGRADED, loses its retry buffer and retrains (R214). -/
  | d2dEdgeDown (e : Nat) (lost : List Nat)
  /-- D2D_TRAINING_DONE: A die-to-die training attempt ends with the edge UP, DEGRADED or failed (R214). -/
  | d2dTrainingDone (e : Nat) (x : EdgeTrained)
  /-- D2D_RETRAIN: A write of D2D_CTRL.RETRAIN retrains the edge while no job runs (R215). -/
  | d2dRetrain (d : Nat) (side : Nat)
  /-- TORUS_GROUP_DOWN: A lane group leaves UP, raises LINK if its job runs, and retrains (R246). -/
  | torusGroupDown (port : Nat) (group : Nat)
  /-- TORUS_TRAINING_DONE: A lane-group training attempt ends UP or fails (R245). -/
  | torusTrainingDone (port : Nat) (group : Nat) (deskewed : Bool)
  /-- TRAIN: A TRAIN flit is received and echoed for latency measurement (R245). -/
  | train (port : Nat) (group : Nat) (m : TrainMsg) (received : Nat) (stamp : Nat) (hold : Nat)
  /-- GROUP_RETRAIN: A write of TORUS_GRP_CTRL.RETRAIN trains a group again when it carries no running job (R244). -/
  | groupRetrain (port : Nat) (group : Nat)
  /-- FLIT_TIME: At each flit boundary a group chooses the next flit to send (R232). -/
  | flitTime (port : Nat) (group : Nat) (wait : Nat)
  /-- ACK_REPORT: The receiver reports ACK at least every 64 flit times (R246). -/
  | ackReport (port : Nat) (group : Nat)
  /-- IDLE: An IDLE flit carrying ACK, NAK and credits is received (R246). -/
  | idle (h : Hdr)
  /-- DATA: A DATA flit is received, checked for job and turned into a DLV packet (R230). -/
  | data (h : Hdr) (d : Delivery) (o : Origin) (line : Nat) (lines : List (List Nat))
  /-- COPY: A COPY flit carrying a routed expert copy is received (R230). -/
  | copy (h : Hdr) (d : Delivery) (o : Origin) (idx : Nat) (line : Nat) (r : CopyRec) (lines : List (List Nat))
  /-- END: An END flit carrying a ROUTE end marker is received (R230). -/
  | endMark (h : Hdr) (d : Delivery) (origin : Place) (copies : Nat)
  /-- ACKD: An ACKD flit is received and each record becomes an ACK to its tile (R231). -/
  | ackd (h : Hdr) (recs : List AckdRec)
  /-- PEG: A JOB-scope PEG flit carrying arrivals or DONE is received (R231). -/
  | peg (h : Hdr) (m : PegMsg)
  /-- SHARD_FLIT: A SHARD flit fragment is received on VL3 (R347). -/
  | shardFlit (h : Hdr) (f : ShardFrag)
  /-- TRANSIT: A TRANSIT order joins two FREE groups as transit partners (R240). -/
  | transit (i : TnpIn) (job : Nat) (dim : Nat) (group : Nat) (lanes : Nat) (enc : Bool)
  /-- RELEASE: A RELEASE order returns both transit groups to FREE (R240). -/
  | release (i : TnpIn) (dim : Nat) (group : Nat)
  /-- ETHERNET_FRAME: A front port receives a frame and applies MACsec, IPv6 and UDP checks (R278). -/
  | ethernetFrame (x : EthFrame)
  /-- NEIGHBOR_SOLICITATION: An ICMPv6 Neighbor Solicitation to the port address is answered (R280). -/
  | neighborSolicitation (f : Nat) (target : Nat)
  /-- ECHO_REQUEST: An ICMPv6 Echo Request to the port address is answered (R280). -/
  | echoRequest (f : Nat) (source : Nat) (target : Nat) (ident : Nat) (seq : Nat) (data : List Nat)
  /-- REASSEMBLY_TIMEOUT: A partial message incomplete after 1 ms is discarded (R283). -/
  | reassemblyTimeout (k : Nat)
  /-- STREAM_RETRANSMIT: An unacknowledged stream message is retransmitted every RETX_US, closing the session after
  RETRIES (R284). -/
  | streamRetransmit (session : Nat) (seq : Nat)
  /-- STREAM_ACK: An ACK message is sent within 50 us of an arrival when no message is due (R284). -/
  | streamAck (session : Nat)
  /-- OPEN: The head opens a gateway session and answers OPENED (R287). -/
  | openSession (i : TnpIn) (gateway : Nat)
  /-- CLOSE: A CLOSE ends a session and cancels its requests (R288). -/
  | closeSession (i : TnpIn)
  /-- SESSION_IDLE_TIMEOUT: A session without a valid message for IDLE_MS closes (R288). -/
  | sessionIdleTimeout (session : Nat)
  /-- SUBMIT: The head checks a SUBMIT and admits or refuses the request (R291). -/
  | submit (i : TnpIn) (b : Submit)
  /-- RESUME: A SUBMIT with RESUME clears the mark and requeues the request (R421). -/
  | resume (i : TnpIn) (b : Submit)
  /-- CANCEL: A CANCEL ends the request at the next admission close (R293). -/
  | cancel (i : TnpIn)
  /-- QUERY: A QUERY is answered with the request's state and latency record (R294). -/
  | query (i : TnpIn)
  /-- UNPIN: UNPIN clears PINNED from the handle's prefix entries (R304). -/
  | unpin (i : TnpIn) (handle : Nat)
  /-- STEP_ACK: A gateway ACK names the last step packet received whole (R311). -/
  | stepAck (i : TnpIn) (step : Nat)
  /-- RESEND: The tail resends kept step packets or answers GONE (R311). -/
  | resend (i : TnpIn) (first : Nat) (count : Nat)
  /-- TENANT: A TENANT order sets a tenant's flags and limits at the next admission close (R314). -/
  | tenant (i : TnpIn) (o : TenantOrder)
  /-- PAGE_OUT: The head accepts a PAGE_OUT for an IDLE request and places the order in the broadcast (R313). -/
  | pageOut (i : TnpIn) (request : Nat) (handle : Nat)
  /-- PAGE_IN: The head accepts a PAGE_IN for a REMOTE request and places the order in the broadcast (R313). -/
  | pageIn (i : TnpIn) (request : Nat)
  /-- PUT_ACK: The remote tier acknowledges a stored frame image (R315). -/
  | putAck (i : TnpIn) (image : ImageId) (status : Nat)
  /-- PAGING_DATA: A frame image arrives for page-in and its tag is checked (R272). -/
  | pagingData (i : TnpIn) (image : ImageId) (bytes : List Nat) (tag : List Nat)
  /-- PAGING_TIMEOUT: An image not acknowledged or received in time is fetched again or the request becomes LOST
  (R272). -/
  | pagingTimeout (d : Nat) (x : Nat) (page : Nat)
  /-- FRAME_ZEROED: A released frame has been zeroed and returns to the free list (R267). -/
  | frameZeroed (d : Nat)
  /-- CTX_SCRUB_READ: The context-store scrub reads one access unit, correcting or acting on errors (R275). -/
  | ctxScrubRead (d : Nat) (upsets : List (Nat × Nat))
  /-- REPLICA: The REPLICA control message delivers the replica table (R411). -/
  | replica (i : TnpIn) (job : Nat) (rows : List ReplicaRow)
  /-- SHARD: A SHARD message delivers a shard stream to the loader (R346). -/
  | shard (i : TnpIn) (h : ShardHdr) (crcOk : Bool) (data : List Nat)
  /-- LOAD_TIMEOUT: An object with no arrival for TIMEOUT beats becomes INCOMPLETE and reports MISSING (R350). -/
  | loadTimeout (kind : Nat) (object : Nat)
  /-- PROGRAM_WINDOW_START: A board enters PROGRAM at the start of a loader window (R80). -/
  | programWindowStart (b : Nat) (deferred : Bool)
  /-- PROGRAM_WINDOW_END: A PROGRAM window ends and the board returns to READY or EMPTY (R80). -/
  | programWindowEnd (b : Nat)
  /-- PROGRAM_ROW: The loader starts pulse-verify programming of one row (R355). -/
  | programRow (b : Nat)
  /-- ROW_COMPLETE: A programmed row ends and its stuck pairs are entered and ranked (R356). -/
  | rowComplete (b : Nat) (left : List (Nat × Nat))
  /-- INSOLE_SLOTS_WRITTEN: All slots of a LOADING descriptor are written and it becomes STANDBY (R105). -/
  | insoleSlotsWritten (t : Nat) (d : Nat)
  /-- READY: The head receives a READY flit for an object (R365). -/
  | ready (h : Hdr) (kind : Nat) (node : Nat) (object : Nat) (code : Nat)
  /-- FAIL: The head receives a FAIL flit and clears the object's READY set (R365). -/
  | fail (h : Hdr) (kind : Nat) (node : Nat) (object : Nat) (code : Nat)
  /-- TRUING_WINDOW_START: A TRUING window begins and the board starts a TRACK truing (R377). -/
  | truingWindowStart (b : Nat) (deferred : Bool)
  /-- TRUING_COMPLETE: A truing completes its verification and passes or fails (R375). -/
  | truingComplete (b : Nat) (search : Bool) (verify : Bool) (taps : List Nat) (found : List Finding)
  /-- TRUING_WINDOW_END: A TRUING window ends, putting the truing result in force (R380). -/
  | truingWindowEnd (b : Nat) (rows : Nat) (found : List Finding)
  /-- FREE_TRUING_START: With no job running, the truing unit takes the next board in priority order (R385). -/
  | freeTruingStart (t : Nat)
  /-- MON_CONVERSION: The monitor converter converts the next scanned channel (R390). -/
  | monConversion (d : Nat) (scaled : Int)
  /-- THERMAL_LEVEL_FALL: After each full 1 ms below THROTTLE minus HYST the thermal level falls by 1 (R473). -/
  | thermalLevelFall (h : Nat)
  /-- ALERT_CLEAR: After 1 ms below ALERT_C minus HYST_C, ALERT clears (R477). -/
  | alertClear (h : Nat)
  /-- REF_SETTLE: The selected reference settles and the voltage channels resume (R391). -/
  | refSettle (d : Nat)
  /-- FAULT_NOTICE: The head takes a FAULT_NOTICE and orders a replay or settles the step (R407). -/
  | faultNotice (h : Hdr) (n : Notice)
  /-- REPLAY: A package receives REPLAY and abandons the current run (R408). -/
  | replay (h : Hdr) (count : Nat) (step : Nat) (start : Nat)
  /-- SETTLE: SETTLE makes the package discard the step's results and give RESUBMIT (R409). -/
  | settle (h : Hdr) (count : Nat) (step : Nat)
  /-- HOLD: A HOLD message is received and relayed to every package (R419). -/
  | hold (h : Hdr) (cause : Nat) (step : Nat) (node : Nat)
  /-- PROBE: A package answers PROBE with the tiles that have not arrived (R418). -/
  | probe (h : Hdr) (step : Nat)
  /-- PROBE_REPLY: The head shelves each named tile with cause TACK_TIMEOUT (R418). -/
  | probeReply (h : Hdr) (node : Nat) (step : Nat) (tiles : List Nat)
  /-- REPLICA_REQ: The serving tile checks and computes replica service for an ARR (R412). -/
  | replicaReq (h : Hdr) (r : ReplicaReq)
  /-- REPLICA_RETURN: The serving tile returns the column values and REPLICA_DONE once its mill completes (R412). -/
  | replicaReturn (k : Nat)
  /-- REPLICA_DONE: The requester receives REPLICA_DONE and completes or uncovers the ARR (R412). -/
  | replicaDone (h : Hdr) (r : ReplicaReq) (status : Nat)
  /-- REPLICA_TIMEOUT: A REPLICA_DONE not received within PROBE_BEATS counts as a refusal (R413). -/
  | replicaTimeout (k : Nat)
  /-- UNIT_TEST_DONE: A tile, half or die test ends and re-admits or keeps the unit shelved (R416). -/
  | unitTestDone (cls : Nat) (n : Nat) (pass : Bool)
  /-- SHELVE: FAULT_ORDER SHELVE shelves a unit with cause MGMT (R426). -/
  | shelve (cls : Nat) (die : Nat) (idx : Nat)
  /-- READMIT: FAULT_ORDER READMIT starts the test or truing of a shelved unit (R426). -/
  | readmit (cls : Nat) (die : Nat) (idx : Nat)
  /-- RESUME_EXPIRY: A marked request not resumed within the window ends (R420). -/
  | resumeExpiry (x : Nat)
  /-- OPERATE: A signed OPERATE token moves PROVISIONED to OPERATIONAL (R429). -/
  | operate (t : Token)
  /-- DEBUG: A signed DEBUG token starts zeroisation and entry to DEBUG (R444). -/
  | debug (t : Token)
  /-- REVOKE: A signed REVOKE token revokes the other owner slot (R432). -/
  | revoke (t : Token)
  /-- TOKEN_DECOMMISSION: A signed DECOMMISSION token moves the part to DECOMMISSIONED (R429). -/
  | tokenDecommission (t : Token)
  /-- ZEROISATION_COMPLETE: Zeroisation completes and the part enters DEBUG with DEBUG_READY set (R444). -/
  | zeroisationComplete (us : Nat)
  /-- INSTALL: SEC_KEY_CMD INSTALL unwraps a key into the selected slot (R437). -/
  | install (kind : Nat) (slot : Nat) (wrapped : List Nat)
  /-- ERASE: SEC_KEY_CMD ERASE erases the selected slot when allowed (R437). -/
  | erase (kind : Nat) (slot : Nat)
  /-- RECORD_ENTRY: A staged snapshot enters the recorder buffer 16 reference cycles after the previous one (R452).
  -/
  | recordEntry (d : Nat)
  /-- FLUSH_STORE: One record is stored in a logbook slot in seqlock order and verified (R458). -/
  | flushStore (d : Nat) (fails : Nat) (us : Nat)
  /-- FLUSH: EVR_CTRL.FLUSH starts a flush of unflushed records (R459). -/
  | flush (d : Nat)
  /-- TRIGGER: EVR_CTRL.TRIGGER takes a MANUAL record (R450). -/
  | trigger (d : Nat) (severity : Nat)
  /-- SEEK: A write of EVR_SEEK searches the logbook for a sequence number (R465). -/
  | seek (d : Nat) (n : Nat)
  /-- SEEK_DONE: The seek completes and sets the cursor and FOUND (R465). -/
  | seekDone (d : Nat)
  /-- EVR_WINDOW_READ: A read of EVR_WINDOW_63 with AUTO set advances the cursor slot (R463). -/
  | evrWindowRead (d : Nat) (uncorrectable : Bool)
  /-- TRUE_IMAGE_LATCH: A read of TRUE_IMAGE_0 latches the board's calibration image (R387). -/
  | trueImageLatch (b : Nat)
  /-- TRUE_IMAGE_WRITE: A write of image words 4 to 127 sets the board's taps and RESTORED when allowed (R387). -/
  | trueImageWrite (b : Nat) (word : Nat) (v : Nat)
  /-- REF_SEL_WRITE: A write of MON_CTRL.REF_SEL changes the reference and clears REF_SETTLED (R391). -/
  | refSelWrite (d : Nat) (sel : Nat)
  /-- FILTER_WRITE: A write of MON_FILTn restarts the channel's filter (R393). -/
  | filterWrite (d : Nat) (n : Nat) (v : Nat)
  /-- MON_SCAN_WRITE: A write of MON_SCAN sets the scanned channels, keeping the fixed ones (R392). -/
  | monScanWrite (d : Nat) (v : Nat)
  /-- SAVE_DONE: The calibration save writes its header and ends (R495). -/
  | saveDone (ok : Bool)
  /-- PKG_NODE_WRITE: A write of PKG_NODE sets the node ID only while no group is defined and no job runs (R519). -/
  | pkgNodeWrite (v : Nat)
  /-- STATIC_ADDR_WRITE: A write of MGMT_CFG.STATIC_ADDR takes effect at the STOP of its transaction (R520). -/
  | staticAddrWrite (v : Nat)
  /-- WIDE_VALUE_READ: A read of the lowest word of a wide value loads the shadow of its upper words (R21). -/
  | wideValueRead (a : Nat)
  /-- REGISTER_WRITE: A write to a register with no row of its own sets fields, clamping illegal values (R17). -/
  | registerWrite (a : Nat) (v : Nat)
  /-- READ: A READ request frame reads a run of register words (R510). -/
  | read (tag : Nat) (addr : Nat) (count : Nat) (overrun : Bool)
  /-- WRITE: A WRITE request frame writes a run of register words (R510). -/
  | write (tag : Nat) (addr : Nat) (words : List Nat) (overrun : Bool)
  /-- RESPONSE_READ: A Block Read or private read returns the current response frame (R511). -/
  | responseRead (early : Bool)
  /-- ENTDAA: ENTDAA assigns a dynamic address and enters I3C mode (R504). -/
  | entdaa (a : Nat)
  /-- SETDASA: SETDASA assigns a dynamic address from the static one and enters I3C mode (R504). -/
  | setdasa (target : Nat) (a : Nat)
  /-- SETNEWDA: SETNEWDA changes the dynamic address (R505). -/
  | setnewda (a : Nat)
  /-- SETMWL: SETMWL sets the maximum write length, clamped to at least 137 (R505). -/
  | setmwl (n : Nat)
  /-- SETMRL: SETMRL sets the maximum read length, clamped to at least 133 (R505). -/
  | setmrl (n : Nat)
  /-- SET_ENDPOINT_ID: MCTP Set Endpoint ID assigns the endpoint ID (R512). -/
  | setEndpointId (x : McIn) (eid : Nat)
  /-- GET_ENDPOINT_ID: MCTP Get Endpoint ID returns the endpoint ID (R512). -/
  | getEndpointId (x : McIn)
  /-- GET_MCTP_VERSION_SUPPORT: MCTP Get MCTP Version Support returns the supported versions (R512). -/
  | getMctpVersionSupport (x : McIn)
  /-- GET_MESSAGE_TYPE_SUPPORT: MCTP Get Message Type Support returns types 0x00 and 0x01 (R512). -/
  | getMessageTypeSupport (x : McIn)
  /-- GET_TID: PLDM GetTID returns the terminus ID (R513). -/
  | getTid (x : McIn)
  /-- SET_TID: PLDM SetTID sets the terminus ID (R513). -/
  | setTid (x : McIn) (tid : Nat)
  /-- GET_PLDM_VERSION: PLDM GetPLDMVersion returns the supported version (R513). -/
  | getPldmVersion (x : McIn)
  /-- GET_PLDM_TYPES: PLDM GetPLDMTypes returns types 0 and 2 (R513). -/
  | getPldmTypes (x : McIn)
  /-- GET_PLDM_COMMANDS: PLDM GetPLDMCommands returns the supported commands (R513). -/
  | getPldmCommands (x : McIn) (typ : Nat)
  /-- GET_SENSOR_READING: PLDM GetSensorReading returns the latest value of a sensor (R513). -/
  | getSensorReading (x : McIn) (sensor : Nat)
  /-- GET_PDR_REPOSITORY_INFO: PLDM GetPDRRepositoryInfo describes the PDR repository (R513). -/
  | getPdrRepositoryInfo (x : McIn)
  /-- GET_PDR: PLDM GetPDR returns one PDR (R513). -/
  | getPdr (x : McIn) (handle : Nat)
  /-- EXTEST: EXTEST drives lands from the boundary register, refused while a job runs (R552). -/
  | extest (lands : Nat) (shift : Nat)
  /-- SAMPLE_PRELOAD: SAMPLE/PRELOAD samples or preloads the boundary register (R550). -/
  | samplePreload (lands : Nat) (shift : Nat)
  /-- TMUX_SELECT: A write of TEST_TMUX selects a digital signal group onto TMUX (R555). -/
  | tmuxSelect (v : Nat)
  /-- TANA_SELECT: A write of TEST_TANA selects an analogue node onto TANA (R556). -/
  | tanaSelect (v : Nat)
  /-- STAGE_RUN: A TEST_STAGE RUN bit orders a start-up stage under test halt (R559). -/
  | stageRun (v : Nat)
  /-- FRONT_LINK_UP: A front port's PCS aligns and its FEC locks, setting FRONT_STATUS.LINK_UP (R316). -/
  | frontLinkUp (f : Nat)
  /-- FRONT_LINK_DOWN: A front port loses PCS alignment or FEC lock and LINK_UP clears (R316). -/
  | frontLinkDown (f : Nat)
  /-- INSTRUCTION_COMPLETION: An execution unit completes an issued instruction, releasing its queue entry and the
  R114 interlocks on its lines (R121). -/
  | instructionCompletion (t : Nat) (u : Option EUnit)
  /-- BAD_FRAME: A management request frame with a bad CRC, an unknown OP, a bad COUNT or a wrong length is discarded
  and answered BAD_CRC or BAD_FRAME (R509). -/
  | badFrame (b : BadFrame) (overrun : Bool)
  /-- CORRUPT_FLIT: A received wire flit fails RS decoding, CRC or its GCM tag; it is not delivered, is counted and a
  NAK is sent (R229). -/
  | corruptFlit (port : Nat) (group : Nat) (auth : Bool)
  /-- TACK_PARITY_ERROR: A tack word with bad parity is dropped, counted in TACK_PARITY and raises a detected error
  of the die with cause TACK (R206). -/
  | tackParityError (die : Nat) (k : Nat)
  /-- POWER_ON_RESET: Assertion then deassertion of PORST_N resets the part and starts the start-up sequence at stage
  1 (R497). -/
  | powerOnReset
  /-- SCAN: Stage 2 scans each die's logbook, finds the latest sequence number and takes the START record (R462). -/
  | scan
  /-- APPLY: Stage 4 applies the items of the accepted setup record in record order (R490). -/
  | apply
  /-- LOCK: Stage 5 locks the timebase to RREF and requests the gear-0 set point of every half (R160). -/
  | lock
  /-- CLEAR: Stage 9 lays out the context store and zeroes every stack line and scratchpad line and tag (R497). -/
  | clear
  /-- OPTICS: Stage 10 biases the optical engines, checks the laser inputs and starts the front-port PCS (R497). -/
  | optics
  /-- ANNOUNCE: Stage 11 sends the ANNOUNCE report on the control stream once a front port is up (R500). -/
  | announce
  /-- WARM_RESET: Assertion of WRST_N stops every step, load, truing, save and transfer and starts a flush on every
  die (R502). -/
  | warmReset
  /-- PFAIL_ASSERT: Assertion of PFAIL_N stops new program rows, takes PFAIL records and starts a flush (R480). -/
  | pfailAssert
  /-- PFAIL_DEASSERT: Deassertion of PFAIL_N lets the loader resume and clears PFAIL_MODE once the flush has ended
  (R480). -/
  | pfailDeassert
  /-- RREF_LOST: RREF stops or leaves lock range and the timebase enters holdover (R163). -/
  | rrefLost
  /-- RREF_RETURN: RREF returns within 1 ms and the loop relocks, clearing HOLDOVER (R163). -/
  | rrefReturn
  /-- HOLDOVER_END: Holdover runs out after 1 ms without RREF and the package enters HOLD at the next step boundary
  (R163). -/
  | holdoverEnd
  /-- SYNC_EDGE: A BEAT_SYNC edge is compared with its expected position, counted and, without a job, realigns the
  counter (R161). -/
  | syncEdge
  /-- SYNC_MISS: No sync edge arrives in the tolerance window and the miss is counted, with SYNC_LOST after four
  (R162). -/
  | syncMiss
  /-- STEP_START_POST: The sequencer posts STEP_START with gear, replay count, step and start beat on every tack
  network (R210). -/
  | stepStartPost
  /-- STEP_START: At the start beat each engine clears its X registers, selects its gear bank and issues from the
  first instruction (R112). -/
  | stepStart
  /-- ADMISSION_CLOSE: At offset ADMIT_CLOSE the head builds the next step's batch and sends the broadcast and
  parameter delivery (R296). -/
  | admissionClose
  /-- BATCH_LATE: A broadcast, parameter or result delivery not held one beat before the step start raises BATCH_LATE
  (R300). -/
  | batchLate
  /-- TACK_TIMEOUT: The head has not completed the commit peg by the timeout and sends PROBE (R173). -/
  | tackTimeout
  /-- PEG_DONE: A DONE down-tree word completes the outstanding pegs of its scopes (R208). -/
  | pegDone
  /-- POWER_EVALUATION: Every 1 ms the package power is computed and compared with the cap (R474). -/
  | powerEvaluation
  /-- POWER_LEVEL_RELEASE: After 10 ms below the cap minus hysteresis the power level falls by 1 (R474). -/
  | powerLevelRelease
  /-- REPLAY_START: At START the package posts STEP_START of the new run and its tiles restart (R407). -/
  | replayStart
  /-- HOLD_ENTRY: The package enters HOLD at the next step boundary (R419). -/
  | holdEntry
  /-- NO_REPLY: A package not answering within PROBE_BEATS is shelved with cause NO_REPLY (R418). -/
  | noReply
  /-- PROVISION: SEC_LC_CMD PROVISION blows package key and owner hashes in MANUFACTURE (R429). -/
  | provision
  /-- DECOMMISSION: SEC_LC_CMD DECOMMISSION moves MANUFACTURE to DECOMMISSIONED (R429). -/
  | decommission
  /-- KEY_COMMAND_DONE: BUSY clears and the install or erase takes effect (R438). -/
  | keyCommandDone
  /-- SAVE: PKG_CAL_SAVE.SAVE starts saving the calibration store to flash (R495). -/
  | save
  /-- SMBUS_TIMEOUT: The SMBus interface resets after SCL is held low for 25 to 35 ms (R505). -/
  | smbusTimeout
  /-- RSTDAA: RSTDAA drops the dynamic address and returns to SMBus mode (R504). -/
  | rstdaa
  /-- GETPID: GETPID returns the provisioned ID (R505). -/
  | getpid
  /-- GETBCR: GETBCR returns BCR 0x06 (R505). -/
  | getbcr
  /-- GETDCR: GETDCR returns DCR 0x00 (R505). -/
  | getdcr
  /-- GETSTATUS: GETSTATUS returns the target status (R505). -/
  | getstatus
  /-- GETMWL: GETMWL returns the maximum write length (R505). -/
  | getmwl
  /-- GETMRL: GETMRL returns the maximum read length (R505). -/
  | getmrl
  /-- ENEC: ENEC enables in-band interrupts (R505). -/
  | enec
  /-- DISEC: DISEC disables in-band interrupts (R505). -/
  | disec
  /-- OPSEC_TICK: Each operating second advances the count and every 1,024 writes a record (R518). -/
  | opsecTick
  /-- TEST_LOGIC_RESET: TRST_N or PORST_N puts the TAP in Test-Logic-Reset with IDCODE loaded (R550). -/
  | testLogicReset
  /-- IDCODE: IDCODE selects the 32-bit identification register (R550). -/
  | idcode
  /-- CLAMP: CLAMP drives lands from the boundary register with bypass selected (R552). -/
  | clamp
  /-- HIGHZ: HIGHZ releases every scanned output (R552). -/
  | highz
  /-- INTSCAN: INTSCAN selects the internal scan chains where the grade allows (R553). -/
  | intscan
  /-- INTSCAN_CAPTURE: The first Capture-DR in INTSCAN, after flushes end, stops all activity until PORST_N (R553).
  -/
  | intscanCapture
  /-- BYPASS: BYPASS selects the 1-bit bypass register (R550). -/
  | bypass
  /-- RAW_READ: TEST_RAW_CMD.READ starts a raw read in DEBUG (R558). -/
  | rawRead
  /-- RAW_READ_DONE: The raw read completes and the data registers hold the stored bytes (R558). -/
  | rawReadDone
  /-- VAUX_RETURN: VAUX comes back within its operating range after being below 1.62 V, releasing the held reset so
  the part restarts at stage 1 (R470). -/
  | vauxReturn
  deriving DecidableEq, Repr

end Sys2Proof
end

