-- ==== Sys2Proof/Decode.lean ====
section
/-! DEFINITION. The commands that a word spells.  The rows of spec/opcode_table.json give no bits: a command reaches the
part as an event at a pin, a port or a clock, so no word spells one.  The 64-bit instructions of the tiles, which are state
and no commands, are decoded in Machine/EngineWords.lean. -/
namespace Sys2Proof

/-- The command that a word spells by the table's bits: none, the table giving no row any bits. -/
def decodeTableWord (nbits w : Nat) : Option Instr :=
  match nbits, w with
  | _, _ => none

end Sys2Proof
end

