-- ==== Sys2Proof/Machine/Tables.lean ====
section
/-! DEFINITION. Sparse tables: the one way state that is addressed by a number is read and written.  A table lists its
keys in rising order and never lists its default, so that equal tables are equal data. -/
namespace Sys2Proof.Machine

namespace Tbl

/-- The listed value of a key. -/
def find? {α : Type} : Map α → Nat → Option α
  | [], _ => none
  | (k, v) :: t, x => if k = x then some v else find? t x

/-- The value of a key, `d` where the table does not list it. -/
def get {α : Type} (d : α) (m : Map α) (x : Nat) : α :=
  match find? m x with
  | some v => v
  | none => d

/-- `m` with key `x` listed as `v`. -/
def insert {α : Type} (x : Nat) (v : α) : Map α → Map α
  | [] => [(x, v)]
  | (k, w) :: t =>
    if x < k then (x, v) :: (k, w) :: t
    else if x = k then (x, v) :: t
    else (k, w) :: insert x v t

/-- `m` without key `x`. -/
def erase {α : Type} (x : Nat) : Map α → Map α
  | [] => []
  | (k, w) :: t => if k = x then erase x t else (k, w) :: erase x t

/-- Write `v` at key `x`; writing the default removes the entry. -/
def put {α : Type} [DecidableEq α] (d : α) (m : Map α) (x : Nat) (v : α) : Map α :=
  if v = d then erase x m else insert x v m

/-- Change the value at key `x`. -/
def modify {α : Type} [DecidableEq α] (d : α) (m : Map α) (x : Nat) (f : α → α) : Map α :=
  put d m x (f (get d m x))

/-- Every listed value changed. -/
def mapVals {α β : Type} (f : Nat → α → β) : Map α → Map β
  | [] => []
  | (k, v) :: t => (k, f k v) :: mapVals f t

/-- The listed keys. -/
def keys {α : Type} (m : Map α) : List Nat := m.map Prod.fst

/-- Only the entries whose key `p` keeps. -/
def keep {α : Type} (p : Nat → Bool) (m : Map α) : Map α := m.filter (fun e => p e.1)

/-- Keys strictly rising, the first above `lo` where one is given. -/
def sortedFrom {α : Type} : Option Nat → Map α → Bool
  | _, [] => true
  | lo, (k, _) :: t => (match lo with
      | none => true
      | some l => decide (l < k)) && sortedFrom (some k) t

/-- Keys strictly rising. -/
def sorted {α : Type} (m : Map α) : Bool := sortedFrom none m

/-- The canonical form: keys strictly rising, the default never listed. -/
def wf {α : Type} [DecidableEq α] (d : α) (m : Map α) : Bool :=
  sorted m && m.all (fun e => !decide (e.2 = d))

end Tbl

/-! Lists as queues and byte strings. -/

/-- The numbers `a, a+1, …, a+n-1`. -/
def upFrom : Nat → Nat → List Nat
  | _, 0 => []
  | a, n + 1 => a :: upFrom (a + 1) n

/-- The `i`-th element, `d` beyond the end. -/
def nth {α : Type} (d : α) : List α → Nat → α
  | [], _ => d
  | a :: _, 0 => a
  | _ :: t, i + 1 => nth d t i

/-- The list with its `i`-th element replaced (unchanged beyond the end). -/
def setNth {α : Type} (v : α) : List α → Nat → List α
  | [], _ => []
  | _ :: t, 0 => v :: t
  | a :: t, i + 1 => a :: setNth v t i

/-- The index of the first element that satisfies `p`. -/
def indexOf {α : Type} (p : α → Bool) : List α → Option Nat
  | [] => none
  | a :: t => if p a then some 0 else (indexOf p t).map (· + 1)

/-- The list without its first element that satisfies `p`. -/
def dropFirst {α : Type} (p : α → Bool) : List α → List α
  | [] => []
  | a :: t => if p a then t else a :: dropFirst p t

/-- The list with each element once, where it first stands. -/
def unique {α : Type} [DecidableEq α] : List α → List α
  | [] => []
  | a :: t => a :: (unique t).filter (fun b => !decide (b = a))

/-- The list with the elements that satisfy `p` changed by `f`. -/
def amend {α : Type} (p : α → Bool) (f : α → α) (l : List α) : List α :=
  l.map (fun a => if p a then f a else a)

/-- Bits `hi` down to `lo` of a number. -/
def bits (n hi lo : Nat) : Nat := n / 2 ^ lo % 2 ^ (hi + 1 - lo)

/-- One bit of a number. -/
def bit (n i : Nat) : Bool := decide (n / 2 ^ i % 2 = 1)

/-- A flag as a number. -/
def b2n (b : Bool) : Nat := if b then 1 else 0

/-- Flags as the bits of a number, the first lowest. -/
def mask : List Bool → Nat
  | [] => 0
  | b :: t => b2n b + 2 * mask t

/-- The number whose bytes, least significant first, are given. -/
def leNat : List Nat → Nat
  | [] => 0
  | b :: t => b % 256 + 256 * leNat t

/-- `n` little-endian bytes of a number. -/
def leBytes : Nat → Nat → List Nat
  | 0, _ => []
  | n + 1, v => v % 256 :: leBytes n (v / 256)

/-- `n` bytes of a byte string from an offset, little-endian (bytes beyond the end read as 0). -/
def le (b : List Nat) (off n : Nat) : Nat := leNat ((b.drop off).take n)

/-- Two's-complement value of the low `w` bits of `n`. -/
def sext (w n : Nat) : Int :=
  if n % 2 ^ w < 2 ^ (w - 1) then (n % 2 ^ w : Nat) else (n % 2 ^ w : Nat) - (2 ^ w : Nat)

/-- The low `w` bits of an integer. -/
def trunc (w : Nat) (z : Int) : Nat := (z % ((2 ^ w : Nat) : Int)).toNat

/-- Insert into a list kept in order of `le`. -/
def insertBy {α : Type} (le : α → α → Bool) (a : α) : List α → List α
  | [] => [a]
  | b :: t => if le a b then a :: b :: t else b :: insertBy le a t

/-- A list in order of `le` (stable). -/
def sortBy {α : Type} (le : α → α → Bool) : List α → List α
  | [] => []
  | a :: t => insertBy le a (sortBy le t)

/-- `n / d` rounded to the nearest integer, ties to even. -/
def divRne (n d : Nat) : Nat :=
  let q := n / d
  let r := n % d
  if 2 * r > d ∨ (2 * r = d ∧ q % 2 = 1) then q + 1 else q

/-- `n / d` rounded to the nearest integer, ties to even, for a signed numerator. -/
def divRneInt (n : Int) (d : Nat) : Int :=
  if n < 0 then -(divRne n.natAbs d : Nat) else (divRne n.natAbs d : Nat)

/-- `⌈a / b⌉`. -/
def cdiv (a b : Nat) : Nat := (a + b - 1) / b

end Sys2Proof.Machine
end

