-- ==== Sys2Proof/Machine/Crypto.lean ====
section
/-! DEFINITION. The ciphers and digests that the spec names by their standards, over byte strings: AES-256 (FIPS 197),
its XTS mode (R269), CMAC (R273, R282) and key wrap (R436); SHA-384 and ECDSA on P-384 (R430); SipHash-2-4 (R301).
The standards themselves are not in the spec: the log says so. -/
namespace Sys2Proof.Machine

def xorBytes (a b : List Nat) : List Nat := List.zipWith (· ^^^ ·) a b

/-! ## AES-256 -/

def xtime (b : Nat) : Nat := if 128 ≤ b then (2 * b % 256) ^^^ 0x1B else 2 * b

/-- Product in GF(2⁸), over the low bits of `b`. -/
def gmul : Nat → Nat → Nat → Nat
  | 0, _, _ => 0
  | n + 1, a, b => (if b % 2 = 1 then a else 0) ^^^ gmul n (xtime a) (b / 2)

/-- The product of the squares `a²·a⁴·…`, `n` of them. -/
def gsquares : Nat → Nat → Nat
  | 0, _ => 1
  | n + 1, a => let s := gmul 8 a a; gmul 8 s (gsquares n s)

/-- The inverse in GF(2⁸), 0 for 0. -/
def ginv (a : Nat) : Nat := gsquares 7 a

def rotByte (n b : Nat) : Nat := (b * 2 ^ n % 256) ||| (b / 2 ^ (8 - n))

def sbox (b : Nat) : Nat :=
  let i := ginv b
  i ^^^ rotByte 1 i ^^^ rotByte 2 i ^^^ rotByte 3 i ^^^ rotByte 4 i ^^^ 0x63

def invSbox (s : Nat) : Nat := ginv (rotByte 1 s ^^^ rotByte 3 s ^^^ rotByte 6 s ^^^ 0x05)

/-- The words of the key schedule from word `i` on; `rev` lists the words so far, the last first. -/
def aesExpand : Nat → Nat → Nat → List (List Nat) → List (List Nat)
  | 0, _, _, rev => rev
  | n + 1, i, rcon, rev =>
    let last := nth [] rev 0
    let t := if i % 8 = 0 then xorBytes ((last.drop 1 ++ last.take 1).map sbox) [rcon, 0, 0, 0]
      else if i % 8 = 4 then last.map sbox else last
    aesExpand n (i + 1) (if i % 8 = 0 then xtime rcon else rcon) (xorBytes (nth [] rev 7) t :: rev)

/-- The 15 round keys of a 32-byte key. -/
def aesKeys (key : List Nat) : List (List Nat) :=
  let w := (aesExpand 52 8 1 (((upFrom 0 8).map fun i => (key.drop (4 * i)).take 4).reverse)).reverse
  (upFrom 0 15).map fun r => ((w.drop (4 * r)).take 4).flatten

def shiftRows (s : List Nat) : List Nat := (upFrom 0 16).map fun i => nth 0 s ((i + 4 * (i % 4)) % 16)
def unshiftRows (s : List Nat) : List Nat := (upFrom 0 16).map fun i => nth 0 s ((i + 16 - 4 * (i % 4)) % 16)

/-- Each column multiplied by a circulant row. -/
def mixWith (m : List Nat) (s : List Nat) : List Nat := (upFrom 0 16).map fun i =>
  ((upFrom 0 4).map fun k => gmul 8 (nth 0 s (i / 4 * 4 + k)) (nth 0 m ((k + 4 - i % 4) % 4))).foldl (· ^^^ ·) 0

def aesRounds : List (List Nat) → List Nat → List Nat
  | [], s => s
  | [k], s => xorBytes (shiftRows (s.map sbox)) k
  | k :: t, s => aesRounds t (xorBytes (mixWith [2, 3, 1, 1] (shiftRows (s.map sbox))) k)

/-- AES-256 of one 16-byte block. -/
def aesEnc (key blk : List Nat) : List Nat :=
  match aesKeys key with
  | [] => blk
  | k :: t => aesRounds t (xorBytes blk k)

def aesUnrounds : List (List Nat) → List Nat → List Nat
  | [], s => s
  | [k], s => xorBytes ((unshiftRows s).map invSbox) k
  | k :: t, s => aesUnrounds t (mixWith [14, 11, 13, 9] (xorBytes ((unshiftRows s).map invSbox) k))

/-- The inverse cipher on one block. -/
def aesDec (key blk : List Nat) : List Nat :=
  match (aesKeys key).reverse with
  | [] => blk
  | k :: t => aesUnrounds t (xorBytes blk k)

/-- Multiply a little-endian 128-bit value by α (IEEE 1619). -/
def xtsAlpha (t : List Nat) : List Nat :=
  let v := 2 * leNat t
  leBytes 16 (if v < 2 ^ 128 then v else (v - 2 ^ 128) ^^^ 0x87)

/-- AES-256-XTS of a 32-byte data unit: `key` is the data key and the tweak key (R269). -/
def xts (dec : Bool) (key : List Nat) (tweak : Nat) (data : List Nat) : List Nat :=
  let k := key.take 32
  let t0 := aesEnc (key.drop 32) (leBytes 16 tweak)
  let t1 := xtsAlpha t0
  let one (t b : List Nat) := xorBytes (if dec then aesDec k (xorBytes b t) else aesEnc k (xorBytes b t)) t
  one t0 (data.take 16) ++ one t1 (data.drop 16)

/-- Double in GF(2¹²⁸), big-endian (SP 800-38B). -/
def cmacDouble (b : List Nat) : List Nat :=
  let v := 2 * leNat b.reverse
  (leBytes 16 (if v < 2 ^ 128 then v else (v - 2 ^ 128) ^^^ 0x87)).reverse

def cmacChain (key : List Nat) (k1 k2 : List Nat) : Nat → List Nat → List Nat → List Nat
  | 0, s, _ => s
  | n + 1, s, m =>
    if 16 < m.length then cmacChain key k1 k2 n (aesEnc key (xorBytes s (m.take 16))) (m.drop 16)
    else if m.length = 16 then aesEnc key (xorBytes s (xorBytes m k1))
    else aesEnc key (xorBytes s (xorBytes ((m ++ 0x80 :: List.replicate 16 0).take 16) k2))

/-- AES-256-CMAC. -/
def cmac (key msg : List Nat) : List Nat :=
  let k1 := cmacDouble (aesEnc key (List.replicate 16 0))
  cmacChain key k1 (cmacDouble k1) (msg.length + 1) (List.replicate 16 0) msg

/-- The unwrap steps of RFC 3394 with step counts `t` down to 1; `a` is the register, `r` the 8-byte words. -/
def unwrapSteps (key : List Nat) (n : Nat) : Nat → List Nat → List (List Nat) → List Nat × List (List Nat)
  | 0, a, r => (a, r)
  | t + 1, a, r =>
    let i := t % n
    let b := aesDec key (xorBytes a (leBytes 8 (t + 1)).reverse ++ nth [] r i)
    unwrapSteps key n t (b.take 8) (setNth (b.drop 8) r i)

/-- AES key unwrap (RFC 3394): the key where the initial value comes out as expected. -/
def keyUnwrap (kek iv wrapped : List Nat) : Option (List Nat) :=
  let n := wrapped.length / 8 - 1
  let r := (upFrom 1 n).map fun i => (wrapped.drop (8 * i)).take 8
  let x := unwrapSteps kek n (6 * n) (wrapped.take 8) r
  if x.1 = iv then some x.2.flatten else none

/-! ## SHA-384 -/

/-- The round constants of SHA-384 (FIPS 180-4, 4.2.3), in tens of eight. -/
def shaConst : List Nat :=
  [0x428a2f98d728ae22, 0x7137449123ef65cd, 0xb5c0fbcfec4d3b2f, 0xe9b5dba58189dbbc,
   0x3956c25bf348b538, 0x59f111f1b605d019, 0x923f82a4af194f9b, 0xab1c5ed5da6d8118] ++
  [0xd807aa98a3030242, 0x12835b0145706fbe, 0x243185be4ee4b28c, 0x550c7dc3d5ffb4e2,
   0x72be5d74f27b896f, 0x80deb1fe3b1696b1, 0x9bdc06a725c71235, 0xc19bf174cf692694] ++
  [0xe49b69c19ef14ad2, 0xefbe4786384f25e3, 0x0fc19dc68b8cd5b5, 0x240ca1cc77ac9c65,
   0x2de92c6f592b0275, 0x4a7484aa6ea6e483, 0x5cb0a9dcbd41fbd4, 0x76f988da831153b5] ++
  [0x983e5152ee66dfab, 0xa831c66d2db43210, 0xb00327c898fb213f, 0xbf597fc7beef0ee4,
   0xc6e00bf33da88fc2, 0xd5a79147930aa725, 0x06ca6351e003826f, 0x142929670a0e6e70] ++
  [0x27b70a8546d22ffc, 0x2e1b21385c26c926, 0x4d2c6dfc5ac42aed, 0x53380d139d95b3df,
   0x650a73548baf63de, 0x766a0abb3c77b2a8, 0x81c2c92e47edaee6, 0x92722c851482353b] ++
  [0xa2bfe8a14cf10364, 0xa81a664bbc423001, 0xc24b8b70d0f89791, 0xc76c51a30654be30,
   0xd192e819d6ef5218, 0xd69906245565a910, 0xf40e35855771202a, 0x106aa07032bbd1b8] ++
  [0x19a4c116b8d2d0c8, 0x1e376c085141ab53, 0x2748774cdf8eeb99, 0x34b0bcb5e19b48a8,
   0x391c0cb3c5c95a63, 0x4ed8aa4ae3418acb, 0x5b9cca4f7763e373, 0x682e6ff3d6b2b8a3] ++
  [0x748f82ee5defb2fc, 0x78a5636f43172f60, 0x84c87814a1f0ab72, 0x8cc702081a6439ec,
   0x90befffa23631e28, 0xa4506cebde82bde9, 0xbef9a3f7b2c67915, 0xc67178f2e372532b] ++
  [0xca273eceea26619c, 0xd186b8c721c0c207, 0xeada7dd6cde0eb1e, 0xf57d4f7fee6ed178,
   0x06f067aa72176fba, 0x0a637dc5a2c898a6, 0x113f9804bef90dae, 0x1b710b35131c471b] ++
  [0x28db77f523047d84, 0x32caab7b40c72493, 0x3c9ebe0a15c9bebc, 0x431d67c49c100d4c,
   0x4cc5d4becb3e42b6, 0x597f299cfc657e2a, 0x5fcb6fab3ad6faec, 0x6c44198c4a475817]

/-- The initial hash value of SHA-384 (FIPS 180-4, 5.3.4). -/
def shaInit : List Nat :=
  [0xcbbb9d5dc1059ed8, 0x629a292a367cd507, 0x9159015a3070dd17, 0x152fecd8f70e5939,
   0x67332667ffc00b31, 0x8eb44a8768581511, 0xdb0c2e0d64f98fa7, 0x47b5481dbefa4fa4]

def rotr64 (n x : Nat) : Nat := (x / 2 ^ n) ||| (x * 2 ^ (64 - n) % 2 ^ 64)
def not64 (x : Nat) : Nat := 2 ^ 64 - 1 - x % 2 ^ 64

/-- The message schedule; `rev` lists the words so far, the last first. -/
def shaSchedule : Nat → List Nat → List Nat
  | 0, rev => rev
  | n + 1, rev =>
    let w2 := nth 0 rev 1
    let w15 := nth 0 rev 14
    let s1 := rotr64 19 w2 ^^^ rotr64 61 w2 ^^^ (w2 / 2 ^ 6)
    let s0 := rotr64 1 w15 ^^^ rotr64 8 w15 ^^^ (w15 / 2 ^ 7)
    shaSchedule n ((s1 + nth 0 rev 6 + s0 + nth 0 rev 15) % 2 ^ 64 :: rev)

def shaRound (h : List Nat) (kw : Nat) : List Nat :=
  let a := nth 0 h 0; let b := nth 0 h 1; let c := nth 0 h 2; let d := nth 0 h 3
  let e := nth 0 h 4; let f := nth 0 h 5; let g := nth 0 h 6; let z := nth 0 h 7
  let t1 := z + (rotr64 14 e ^^^ rotr64 18 e ^^^ rotr64 41 e) + ((e &&& f) ^^^ (not64 e &&& g)) + kw
  let t2 := (rotr64 28 a ^^^ rotr64 34 a ^^^ rotr64 39 a) + ((a &&& b) ^^^ (a &&& c) ^^^ (b &&& c))
  [(t1 + t2) % 2 ^ 64, a, b, c, (d + t1) % 2 ^ 64, e, f, g]

def shaBlock (ks h blk : List Nat) : List Nat :=
  let w0 := (upFrom 0 16).map fun i => leNat (((blk.drop (8 * i)).take 8).reverse)
  let ws := (shaSchedule 64 w0.reverse).reverse
  let h' := (List.zipWith (· + ·) ks ws).foldl shaRound h
  List.zipWith (fun a b => (a + b) % 2 ^ 64) h h'

def shaBlocks (ks : List Nat) : Nat → List Nat → List Nat → List Nat
  | 0, h, _ => h
  | n + 1, h, m => if m.length < 128 then h else shaBlocks ks n (shaBlock ks h (m.take 128)) (m.drop 128)

/-- SHA-384 (FIPS 180-4). -/
def sha384 (msg : List Nat) : List Nat :=
  let pad := msg ++ 0x80 :: List.replicate ((111 + 256 - msg.length % 128) % 128) 0 ++ (leBytes 16 (8 * msg.length)).reverse
  (((shaBlocks shaConst (pad.length / 128 + 1) shaInit pad).take 6).map fun x => (leBytes 8 x).reverse).flatten

/-! ## ECDSA on P-384 -/

def p384 : Nat := 2 ^ 384 - 2 ^ 128 - 2 ^ 96 + 2 ^ 32 - 1
def p384n : Nat := 0xffffffffffffffffffffffffffffffffffffffffffffffffc7634d81f4372ddf581a0db248b0a77aecec196accc52973
def p384b : Nat := 0xb3312fa7e23ee7e4988e056be3f82d19181d9c6efe8141120314088f5013875ac656398d8a2ed19d2a85c8edd3ec2aef
def p384gx : Nat := 0xaa87ca22be8b05378eb1c71ef320ad746e1d3b628ba79b9859f741e082542a385502f25dbf55296c3a545e3872760ab7
def p384gy : Nat := 0x3617de4a96262c6f5d9e98bf9292dc29f8f41dbd289a147ce9da3113b5f0b8c00a60b1ce1d7e819d7a431d7c90ea0e5f

/-- `a ^ e mod m`, over the low `fuel` bits of `e`. -/
def powMod (m : Nat) : Nat → Nat → Nat → Nat
  | 0, _, _ => 1 % m
  | n + 1, a, e => (if e % 2 = 1 then a else 1) * powMod m n (a * a % m) (e / 2) % m

def invMod (m a : Nat) : Nat := powMod m 384 (a % m) (m - 2)

/-- A point of the curve in homogeneous coordinates: (x / z, y / z), at infinity where `z` is 0. -/
structure EcPoint where
  x : Nat
  y : Nat
  z : Nat
  deriving DecidableEq, Repr

/-- The sum of two points of the curve y² = x³ − 3x + b, by the addition law that holds for every pair (doubling and
infinity among them) on a curve of odd order. -/
def ecAdd (p q : EcPoint) : EcPoint :=
  let m := p384
  let xx := p.x * q.x % m
  let yy := p.y * q.y % m
  let zz := p.z * q.z % m
  let xy := (p.x * q.y + q.x * p.y) % m
  let xz := (p.x * q.z + q.x * p.z) % m
  let yz := (p.y * q.z + q.y * p.z) % m
  let t := (3 * p384b * zz + (m - 3) * xz) % m
  let u := (3 * p384b * xz + (m - 3) * xx + (m - 9) * zz) % m
  let v := (3 * xx + (m - 3) * zz) % m
  ⟨(xy * (yy + m - t) + yz * (m - u)) % m, ((yy + t) * (yy + m - t) + v * u) % m, (yz * (yy + t) + xy * v) % m⟩

/-- `k` times a point, over the low `fuel` bits of `k`. -/
def ecMul : Nat → Nat → EcPoint → EcPoint
  | 0, _, _ => ⟨0, 1, 0⟩
  | n + 1, k, p =>
    let rest := ecMul n (k / 2) (ecAdd p p)
    if k % 2 = 1 then ecAdd p rest else rest

def beNat (b : List Nat) : Nat := leNat b.reverse

/-- ECDSA verification (FIPS 186-5) of a signature `r ‖ s` by the key `X ‖ Y` over a message, with SHA-384. -/
def ecdsaVerify (pub sig msg : List Nat) : Bool :=
  let x := beNat (pub.take 48)
  let y := beNat (pub.drop 48)
  let r := beNat (sig.take 48)
  let s := beNat (sig.drop 48)
  decide (x < p384 ∧ y < p384 ∧ y * y % p384 = (x * x * x + (p384 - 3) * x + p384b) % p384
    ∧ 1 ≤ r ∧ r < p384n ∧ 1 ≤ s ∧ s < p384n)
  && (let w := invMod p384n s
      let e := beNat (sha384 msg)
      let q := ecAdd (ecMul 384 (e * w % p384n) ⟨p384gx, p384gy, 1⟩) (ecMul 384 (r * w % p384n) ⟨x, y, 1⟩)
      decide (q.z ≠ 0 ∧ q.x * invMod p384 q.z % p384 % p384n = r))

/-! ## SipHash-2-4 -/

def rotl64 (n x : Nat) : Nat := rotr64 (64 - n) x

def sipRound (v : Nat × Nat × Nat × Nat) : Nat × Nat × Nat × Nat :=
  let (v0, v1, v2, v3) := v
  let v0 := (v0 + v1) % 2 ^ 64
  let v1 := rotl64 13 v1 ^^^ v0
  let v0 := rotl64 32 v0
  let v2 := (v2 + v3) % 2 ^ 64
  let v3 := rotl64 16 v3 ^^^ v2
  let v0 := (v0 + v3) % 2 ^ 64
  let v3 := rotl64 21 v3 ^^^ v0
  let v2 := (v2 + v1) % 2 ^ 64
  let v1 := rotl64 17 v1 ^^^ v2
  let v2 := rotl64 32 v2
  (v0, v1, v2, v3)

def sipWord (v : Nat × Nat × Nat × Nat) (m : Nat) : Nat × Nat × Nat × Nat :=
  let (v0, v1, v2, v3) := v
  let (v0, v1, v2, v3) := sipRound (sipRound (v0, v1, v2, v3 ^^^ m))
  (v0 ^^^ m, v1, v2, v3)

/-- SipHash-2-4 of a message under a 16-byte key. -/
def sipHash (key msg : List Nat) : Nat :=
  let k0 := le key 0 8
  let k1 := le key 8 8
  let v := (k0 ^^^ 0x736f6d6570736575, k1 ^^^ 0x646f72616e646f6d, k0 ^^^ 0x6c7967656e657261, k1 ^^^ 0x7465646279746573)
  let whole := (upFrom 0 (msg.length / 8)).map fun i => le msg (8 * i) 8
  let last := le (msg.drop (msg.length / 8 * 8)) 0 7 + msg.length % 256 * 2 ^ 56
  let (v0, v1, v2, v3) := (whole ++ [last]).foldl sipWord v
  let (v0, v1, v2, v3) := sipRound (sipRound (sipRound (sipRound (v0, v1, v2 ^^^ 0xFF, v3))))
  v0 ^^^ v1 ^^^ v2 ^^^ v3

end Sys2Proof.Machine
end

