-- ==== Sys2Proof/Machine/EngineWords.lean ====
section
/-! DEFINITION. The 64-bit instruction words of a tile's program (R115, R116): their fields, the decoder that the
engine issues through, and the encoder that places the fields back. -/
namespace Sys2Proof.Machine

/-- A tile instruction, its fields as R116 names them. -/
inductive EInstr where
  | arr (add : Bool) (board span spansM1 : Nat) (afmt ins : Bool) (vcountM1 src dst seq : Nat) (gslot : Bool)
  | copy (src dst linesM1 vcountM1 : Nat)
  | zero (dst linesM1 vcountM1 : Nat)
  | setx (xd imm : Nat)
  | addx (xd imm : Nat)
  | vec (op a b d lenM1 fmt vcountM1 aux : Nat)
  | attn (a d seq hd groupM1 kvh layer vcountM1 : Nat)
  | scrub (board group : Nat) (copyU : Bool)
  | red (op a d tag lenM1 vcountM1 : Nat)
  | send (a linesM1 vcountM1 node die tile vl seq : Nat)
  | route (a b linesM1 vcountM1 map vl seq : Nat)
  | ret (a linesM1 tag : Nat)
  | post (d linesM1 tag : Nat) (retain : Bool)
  | wait (tag : Nat)
  | gather (d linesM1 tag : Nat) (retain : Bool) (capM1 sourcesM1 : Nat)
  | peg (scope pegId : Nat)
  | waitBeat (count : Nat)
  | waitCycles (count : Nat)
  | sample
  | retain (a linesM1 : Nat)
  | done
  deriving DecidableEq, Repr

/-- The instruction a word stands for; none for an unassigned class or OP (R115). -/
def decodeWord (w : Nat) : Option EInstr :=
  let op := bits w 59 56
  match bits w 63 60 with
  | 0x0 => if op < 2 then
      some (.arr (bit w 56) (bits w 55 49) (bits w 48 44) (bits w 43 39) (bit w 38) (bit w 37) (bits w 36 29)
        (bits w 28 25) (bits w 24 21) (bits w 20 17) (bit w 16))
    else none
  | 0x1 => match op with
    | 0 => some (.copy (bits w 55 52) (bits w 51 48) (bits w 47 36) (bits w 35 28))
    | 1 => some (.zero (bits w 51 48) (bits w 47 36) (bits w 35 28))
    | 2 => some (.setx (bits w 55 52) (bits w 31 0))
    | 3 => some (.addx (bits w 55 52) (bits w 31 0))
    | _ => none
  | 0x2 => if op < 15 then
      some (.vec op (bits w 55 52) (bits w 51 48) (bits w 47 44) (bits w 43 28) (bits w 27 26) (bits w 25 18)
        (bits w 15 0))
    else none
  | 0x3 => if op = 0 then
      some (.attn (bits w 55 52) (bits w 51 48) (bits w 47 44) (bits w 43 42) (bits w 41 34) (bits w 33 28)
        (bits w 27 20) (bits w 19 12))
    else none
  | 0x4 => if op = 0 then some (.scrub (bits w 55 49) (bits w 48 43) (bit w 42)) else none
  | 0x5 => if op < 3 then
      some (.red op (bits w 55 52) (bits w 51 48) (bits w 47 36) (bits w 35 20) (bits w 19 12))
    else none
  | 0x6 => match op with
    | 0 => some (.send (bits w 55 52) (bits w 47 36) (bits w 35 28) (bits w 27 16) (bits w 15 13) (bits w 12 7)
        (bits w 6 5) (bits w 4 1))
    | 1 => some (.route (bits w 55 52) (bits w 51 48) (bits w 47 36) (bits w 35 28) (bits w 27 16) (bits w 6 5)
        (bits w 4 1))
    | 2 => some (.ret (bits w 55 52) (bits w 47 36) (bits w 35 24))
    | _ => none
  | 0x7 => match op with
    | 0 => some (.post (bits w 55 52) (bits w 51 40) (bits w 39 28) (bit w 27))
    | 1 => some (.wait (bits w 39 28))
    | 2 => some (.gather (bits w 55 52) (bits w 51 40) (bits w 39 28) (bit w 27) (bits w 26 19) (bits w 18 9))
    | _ => none
  | 0x8 => if op < 5 then some (.peg op (bits w 55 40)) else none
  | 0x9 => match op with
    | 0 => some (.waitBeat (bits w 19 0))
    | 1 => some (.waitCycles (bits w 19 0))
    | _ => none
  | 0xA => match op with
    | 0 => some .sample
    | 1 => some (.retain (bits w 55 52) (bits w 51 40))
    | 2 => some .done
    | _ => none
  | _ => none

/-- The CLASS and OP codes of a word (R115). -/
def classOp (cls op : Nat) : Nat := cls * 2 ^ 60 + op * 2 ^ 56

/-- The word of an instruction, reserved bits 0 (R115, R116). -/
def encodeWord (i : EInstr) : Nat :=
  match i with
  | .arr add board span spansM1 afmt ins vcountM1 src dst seq gslot =>
    classOp 0 (b2n add) + board * 2 ^ 49 + span * 2 ^ 44 + spansM1 * 2 ^ 39 + b2n afmt * 2 ^ 38 + b2n ins * 2 ^ 37
      + vcountM1 * 2 ^ 29 + src * 2 ^ 25 + dst * 2 ^ 21 + seq * 2 ^ 17 + b2n gslot * 2 ^ 16
  | .copy src dst linesM1 vcountM1 => classOp 1 0 + src * 2 ^ 52 + dst * 2 ^ 48 + linesM1 * 2 ^ 36 + vcountM1 * 2 ^ 28
  | .zero dst linesM1 vcountM1 => classOp 1 1 + dst * 2 ^ 48 + linesM1 * 2 ^ 36 + vcountM1 * 2 ^ 28
  | .setx xd imm => classOp 1 2 + xd * 2 ^ 52 + imm
  | .addx xd imm => classOp 1 3 + xd * 2 ^ 52 + imm
  | .vec op a b d lenM1 fmt vcountM1 aux =>
    classOp 2 op + a * 2 ^ 52 + b * 2 ^ 48 + d * 2 ^ 44 + lenM1 * 2 ^ 28 + fmt * 2 ^ 26 + vcountM1 * 2 ^ 18 + aux
  | .attn a d seq hd groupM1 kvh layer vcountM1 =>
    classOp 3 0 + a * 2 ^ 52 + d * 2 ^ 48 + seq * 2 ^ 44 + hd * 2 ^ 42 + groupM1 * 2 ^ 34 + kvh * 2 ^ 28
      + layer * 2 ^ 20 + vcountM1 * 2 ^ 12
  | .scrub board group copyU => classOp 4 0 + board * 2 ^ 49 + group * 2 ^ 43 + b2n copyU * 2 ^ 42
  | .red op a d tag lenM1 vcountM1 =>
    classOp 5 op + a * 2 ^ 52 + d * 2 ^ 48 + tag * 2 ^ 36 + lenM1 * 2 ^ 20 + vcountM1 * 2 ^ 12
  | .send a linesM1 vcountM1 node die tile vl seq =>
    classOp 6 0 + a * 2 ^ 52 + linesM1 * 2 ^ 36 + vcountM1 * 2 ^ 28 + node * 2 ^ 16 + die * 2 ^ 13 + tile * 2 ^ 7
      + vl * 2 ^ 5 + seq * 2
  | .route a b linesM1 vcountM1 map vl seq =>
    classOp 6 1 + a * 2 ^ 52 + b * 2 ^ 48 + linesM1 * 2 ^ 36 + vcountM1 * 2 ^ 28 + map * 2 ^ 16 + vl * 2 ^ 5 + seq * 2
  | .ret a linesM1 tag => classOp 6 2 + a * 2 ^ 52 + linesM1 * 2 ^ 36 + tag * 2 ^ 24
  | .post d linesM1 tag retain => classOp 7 0 + d * 2 ^ 52 + linesM1 * 2 ^ 40 + tag * 2 ^ 28 + b2n retain * 2 ^ 27
  | .wait tag => classOp 7 1 + tag * 2 ^ 28
  | .gather d linesM1 tag retain capM1 sourcesM1 =>
    classOp 7 2 + d * 2 ^ 52 + linesM1 * 2 ^ 40 + tag * 2 ^ 28 + b2n retain * 2 ^ 27 + capM1 * 2 ^ 19 + sourcesM1 * 2 ^ 9
  | .peg scope pegId => classOp 8 scope + pegId * 2 ^ 40
  | .waitBeat count => classOp 9 0 + count
  | .waitCycles count => classOp 9 1 + count
  | .sample => classOp 0xA 0
  | .retain a linesM1 => classOp 0xA 1 + a * 2 ^ 52 + linesM1 * 2 ^ 40
  | .done => classOp 0xA 2

/-- Every field of an instruction fits its bits (R116). -/
def EInstr.wf (i : EInstr) : Bool :=
  match i with
  | .arr _ board span spansM1 _ _ vcountM1 src dst seq _ =>
    decide (board < 128 ∧ span < 32 ∧ spansM1 < 32 ∧ vcountM1 < 256 ∧ src < 16 ∧ dst < 16 ∧ seq < 16)
  | .copy src dst linesM1 vcountM1 => decide (src < 16 ∧ dst < 16 ∧ linesM1 < 4096 ∧ vcountM1 < 256)
  | .zero dst linesM1 vcountM1 => decide (dst < 16 ∧ linesM1 < 4096 ∧ vcountM1 < 256)
  | .setx xd imm => decide (xd < 16 ∧ imm < 2 ^ 32)
  | .addx xd imm => decide (xd < 16 ∧ imm < 2 ^ 32)
  | .vec op a b d lenM1 fmt vcountM1 aux =>
    decide (op < 15 ∧ a < 16 ∧ b < 16 ∧ d < 16 ∧ lenM1 < 65536 ∧ fmt < 4 ∧ vcountM1 < 256 ∧ aux < 65536)
  | .attn a d seq hd groupM1 kvh layer vcountM1 =>
    decide (a < 16 ∧ d < 16 ∧ seq < 16 ∧ hd < 4 ∧ groupM1 < 256 ∧ kvh < 64 ∧ layer < 256 ∧ vcountM1 < 256)
  | .scrub board group _ => decide (board < 128 ∧ group < 64)
  | .red op a d tag lenM1 vcountM1 =>
    decide (op < 3 ∧ a < 16 ∧ d < 16 ∧ tag < 4096 ∧ lenM1 < 65536 ∧ vcountM1 < 256)
  | .send a linesM1 vcountM1 node die tile vl seq =>
    decide (a < 16 ∧ linesM1 < 4096 ∧ vcountM1 < 256 ∧ node < 4096 ∧ die < 8 ∧ tile < 64 ∧ vl < 4 ∧ seq < 16)
  | .route a b linesM1 vcountM1 map vl seq =>
    decide (a < 16 ∧ b < 16 ∧ linesM1 < 4096 ∧ vcountM1 < 256 ∧ map < 4096 ∧ vl < 4 ∧ seq < 16)
  | .ret a linesM1 tag => decide (a < 16 ∧ linesM1 < 4096 ∧ tag < 4096)
  | .post d linesM1 tag _ => decide (d < 16 ∧ linesM1 < 4096 ∧ tag < 4096)
  | .wait tag => decide (tag < 4096)
  | .gather d linesM1 tag _ capM1 sourcesM1 =>
    decide (d < 16 ∧ linesM1 < 4096 ∧ tag < 4096 ∧ capM1 < 256 ∧ sourcesM1 < 1024)
  | .peg scope pegId => decide (scope < 5 ∧ pegId < 65536)
  | .waitBeat count => decide (count < 2 ^ 20)
  | .waitCycles count => decide (count < 2 ^ 20)
  | .sample => true
  | .retain a linesM1 => decide (a < 16 ∧ linesM1 < 4096)
  | .done => true

end Sys2Proof.Machine
end

