-- ==== Sys2Proof/Config.lean ====
section
/-! DEFINITION. What an implementation fixes and what the spec leaves open: constants without a body, of which nothing
can be proved but that they are there.  Each is named in the assumption log. -/
namespace Sys2Proof

/-- A value the spec leaves open, one for each count of the model's free-value counter. -/
opaque Config.free : Nat → Nat

/-- The readings of a board whose reference or row driver has failed (R73), by free-value count and conversion:
any code, the over-range bit set or clear. -/
opaque Config.badReading : Nat → Nat → Nat

end Sys2Proof
end

