-- ==== Sys2Proof/Machine/Regs.lean ====
section
/-! DEFINITION. The register table of the part: one constant per field of every register block of the spec
(R83, R107, R108, R137, R159, R196, R219, R220, R249, R277, R316, R317, R338, R371, R388, R398, R426, R447, R467, R482,
R519, R520, R561), transcribed from the register tables of those chapters, and the table of the registers themselves,
in the order of the chapters.  Addresses are those of die 0 and of the first instance of a window (R17, R516). -/
namespace Sys2Proof.Machine

namespace R

def ARRAY_STATE_SHELVINGS : Fld := { addr := 0x4000000, lsb := 8, width := 2, reset := 0x0, acc := .ro, view := .shelvings }
def ARRAY_STATE_STATE : Fld := { addr := 0x4000000, lsb := 0, width := 3, reset := 0x0, acc := .ro }
def ARRAY_CFG_VALID_U : Fld := { addr := 0x4000004, lsb := 13, width := 1, reset := 0x0, acc := .ro }
def ARRAY_CFG_VALID_L : Fld := { addr := 0x4000004, lsb := 12, width := 1, reset := 0x0, acc := .ro }
def ARRAY_CFG_FMT_U : Fld := { addr := 0x4000004, lsb := 9, width := 1, reset := 0x0, acc := .ro }
def ARRAY_CFG_FMT_L : Fld := { addr := 0x4000004, lsb := 8, width := 1, reset := 0x0, acc := .ro }
def ARRAY_CFG_ACTIVE : Fld := { addr := 0x4000004, lsb := 5, width := 1, reset := 0x0, acc := .ro }
def ARRAY_CFG_DUAL : Fld := { addr := 0x4000004, lsb := 4, width := 1, reset := 0x0, acc := .ro }
def ARRAY_CFG_ROWGROUP : Fld := { addr := 0x4000004, lsb := 0, width := 2, reset := 0x0, acc := .ro }
def ARRAY_GEN_GEN_U : Fld := { addr := 0x4000008, lsb := 16, width := 16, reset := 0x0, acc := .ro }
def ARRAY_GEN_GEN_L : Fld := { addr := 0x4000008, lsb := 0, width := 16, reset := 0x0, acc := .ro }
def ARRAY_ALLHOT_MIN : Fld := { addr := 0x400000c, lsb := 0, width := 8, reset := 0x80, acc := .rw, lo := 16, hi := 128 }
def ARRAY_LADDER_T3_T7 : Fld := { addr := 0x4000010, lsb := 24, width := 8, reset := 0x0, acc := .ro }
def ARRAY_LADDER_T2_T6 : Fld := { addr := 0x4000010, lsb := 16, width := 8, reset := 0x0, acc := .ro }
def ARRAY_LADDER_T1_T5 : Fld := { addr := 0x4000010, lsb := 8, width := 8, reset := 0x0, acc := .ro }
def ARRAY_LADDER_T0_T4 : Fld := { addr := 0x4000010, lsb := 0, width := 8, reset := 0x0, acc := .ro }
def ARRAY_SAT_CONV_COUNT : Fld := { addr := 0x4000020, lsb := 0, width := 32, reset := 0x0, acc := .rc }
def ARRAY_SAT_SPANS_COUNT : Fld := { addr := 0x4000024, lsb := 0, width := 32, reset := 0x0, acc := .rc }
def ARRAY_UNRESOLVED_COUNT : Fld := { addr := 0x4000028, lsb := 0, width := 32, reset := 0x0, acc := .rc }
def ARRAY_HOT_PASSES_COUNT : Fld := { addr := 0x400002c, lsb := 0, width := 32, reset := 0x0, acc := .rc }
def ARRAY_PASSES_COUNT : Fld := { addr := 0x4000030, lsb := 0, width := 64, reset := 0x0, acc := .ro, wraps := true }
def ARRAY_LAST_SAT_VALID : Fld := { addr := 0x4000038, lsb := 31, width := 1, reset := 0x0, acc := .ro }
def ARRAY_LAST_SAT_NEG : Fld := { addr := 0x4000038, lsb := 24, width := 1, reset := 0x0, acc := .ro }
def ARRAY_LAST_SAT_PLANE : Fld := { addr := 0x4000038, lsb := 20, width := 2, reset := 0x0, acc := .ro }
def ARRAY_LAST_SAT_GROUP : Fld := { addr := 0x4000038, lsb := 10, width := 6, reset := 0x0, acc := .ro }
def ARRAY_LAST_SAT_COLUMN : Fld := { addr := 0x4000038, lsb := 0, width := 9, reset := 0x0, acc := .ro }
def ARRAY_HOT_HOT : Fld := { addr := 0x4000040, lsb := 0, width := 32, reset := 0x0, acc := .w1c }
def ARRAY_CAL_COUNT_COUNT : Fld := { addr := 0x4000050, lsb := 0, width := 16, reset := 0x0, acc := .ro }
def ARRAY_CAL_BEAT_BEAT : Fld := { addr := 0x4000054, lsb := 0, width := 48, reset := 0x0, acc := .ro }
def ARRAY_CAL_SECONDS_SECONDS : Fld := { addr := 0x400005c, lsb := 0, width := 32, reset := 0x0, acc := .ro }
def ARRAY_REWRITES_WORN : Fld := { addr := 0x4000060, lsb := 17, width := 1, reset := 0x0, acc := .ro }
def ARRAY_REWRITES_WEAR_WARN : Fld := { addr := 0x4000060, lsb := 16, width := 1, reset := 0x0, acc := .ro }
def ARRAY_REWRITES_COUNT : Fld := { addr := 0x4000060, lsb := 0, width := 16, reset := 0x0, acc := .ro }
def ARRAY_STUCK_STUCK_U : Fld := { addr := 0x4000064, lsb := 16, width := 16, reset := 0x0, acc := .ro }
def ARRAY_STUCK_STUCK_L : Fld := { addr := 0x4000064, lsb := 0, width := 16, reset := 0x0, acc := .ro }
def WELT_STATUS_STAGED : Fld := { addr := 0x5000000, lsb := 29, width := 1, reset := 0x0, acc := .ro, view := .weltStaged }
def WELT_STATUS_DEGRADED : Fld := { addr := 0x5000000, lsb := 28, width := 1, reset := 0x0, acc := .ro }
def WELT_STATUS_USED : Fld := { addr := 0x5000000, lsb := 0, width := 13, reset := 0x0, acc := .ro, view := .weltUsed }
def WELT_KINDS_STUCK : Fld := { addr := 0x5000004, lsb := 16, width := 13, reset := 0x0, acc := .ro, view := .weltStuck }
def WELT_KINDS_OUTLIER : Fld := { addr := 0x5000004, lsb := 0, width := 13, reset := 0x0, acc := .ro, view := .weltOutlier }
def WELT_SHORTFALL_COUNT : Fld := { addr := 0x5000008, lsb := 0, width := 32, reset := 0x0, acc := .rc }
def WELT_WAIVED_DROPPED_OUTLIERS : Fld := { addr := 0x500000c, lsb := 16, width := 16, reset := 0x0, acc := .ro, view := .weltDropped }
def WELT_WAIVED_WAIVED_STUCK : Fld := { addr := 0x500000c, lsb := 0, width := 16, reset := 0x0, acc := .ro, view := .weltWaived }
def WELT_FLOOR_VALID : Fld := { addr := 0x5000010, lsb := 31, width := 1, reset := 0x0, acc := .ro, view := .weltFloorValid }
def WELT_FLOOR_SCALE : Fld := { addr := 0x5000010, lsb := 8, width := 8, reset := 0x0, acc := .ro, view := .weltFloorScale }
def WELT_FLOOR_RESIDUAL_ABS : Fld := { addr := 0x5000010, lsb := 0, width := 7, reset := 0x0, acc := .ro, view := .weltFloorResidual }
def WELT_GROUP_FULL_COUNT : Fld := { addr := 0x5000014, lsb := 0, width := 32, reset := 0x0, acc := .rc }
def WELT_APPLIED_COUNT : Fld := { addr := 0x5000018, lsb := 0, width := 64, reset := 0x0, acc := .ro, wraps := true }
def WELT_CORR_PASSES_COUNT : Fld := { addr := 0x5000020, lsb := 0, width := 32, reset := 0x0, acc := .rc }
def WELT_ENTRY_ENTRY : Fld := { addr := 0x5008000, lsb := 0, width := 64, reset := 0x0, acc := .ro, view := .weltEntry }
def INSOLE_MODE_UP : Fld := { addr := 0x6000000, lsb := 0, width := 8, reset := 0x0, acc := .ro }
def INSOLE_SLOTS_ACTIVE : Fld := { addr := 0x6000004, lsb := 16, width := 9, reset := 0x0, acc := .ro, view := .insoleActive }
def INSOLE_SLOTS_FREE : Fld := { addr := 0x6000004, lsb := 0, width := 9, reset := 0x100, acc := .ro, view := .insoleFree }
def INSOLE_DESCS_LOADING : Fld := { addr := 0x6000008, lsb := 24, width := 7, reset := 0x0, acc := .ro, view := .descLoading }
def INSOLE_DESCS_ACTIVE : Fld := { addr := 0x6000008, lsb := 16, width := 7, reset := 0x0, acc := .ro, view := .descActive }
def INSOLE_DESCS_STANDBY : Fld := { addr := 0x6000008, lsb := 8, width := 7, reset := 0x0, acc := .ro, view := .descStandby }
def INSOLE_DESCS_FREE : Fld := { addr := 0x6000008, lsb := 0, width := 7, reset := 0x40, acc := .ro, view := .descFree }
def INSOLE_VECTORS_COUNT : Fld := { addr := 0x6000010, lsb := 0, width := 64, reset := 0x0, acc := .ro, wraps := true }
def INSOLE_MISSES_COUNT : Fld := { addr := 0x6000018, lsb := 0, width := 32, reset := 0x0, acc := .rc }
def INSOLE_FLIPS_COUNT : Fld := { addr := 0x600001c, lsb := 0, width := 32, reset := 0x0, acc := .rc }
def INSOLE_REFUSED_COUNT : Fld := { addr := 0x6000020, lsb := 0, width := 32, reset := 0x0, acc := .rc }
def INSOLE_DESC_DESC : Fld := { addr := 0x6000400, lsb := 0, width := 64, reset := 0x0, acc := .ro }
def TILE_STATE_PC : Fld := { addr := 0x3000000, lsb := 8, width := 14, reset := 0x0, acc := .ro }
def TILE_STATE_BANK : Fld := { addr := 0x3000000, lsb := 4, width := 2, reset := 0x0, acc := .ro }
def TILE_STATE_STATE : Fld := { addr := 0x3000000, lsb := 0, width := 3, reset := 0x0, acc := .ro }
def TILE_PROG_LEN_LEN : Fld := { addr := 0x3000004, lsb := 0, width := 15, reset := 0x0, acc := .ro }
def TILE_STEP_STEP : Fld := { addr := 0x3000010, lsb := 0, width := 32, reset := 0x0, acc := .ro }
def TILE_LATE_COUNT : Fld := { addr := 0x3000014, lsb := 0, width := 32, reset := 0x0, acc := .rc }
def TILE_DEADLINE_COUNT : Fld := { addr := 0x3000018, lsb := 0, width := 32, reset := 0x0, acc := .rc }
def TILE_STALLS_COUNT : Fld := { addr := 0x300001c, lsb := 0, width := 32, reset := 0x0, acc := .rc }
def TILE_STANDIN_CFG_RESERVE : Fld := { addr := 0x3000020, lsb := 0, width := 20, reset := 0x0, acc := .ro }
def TILE_STANDIN_USE_BOARDS : Fld := { addr := 0x3000024, lsb := 20, width := 3, reset := 0x0, acc := .ro, view := .standinBoards }
def TILE_STANDIN_USE_USED : Fld := { addr := 0x3000024, lsb := 0, width := 20, reset := 0x0, acc := .ro }
def TILE_STANDIN_SET_MEMBER3 : Fld := { addr := 0x3000028, lsb := 24, width := 8, reset := 0x0, acc := .ro }
def TILE_STANDIN_SET_MEMBER2 : Fld := { addr := 0x3000028, lsb := 16, width := 8, reset := 0x0, acc := .ro }
def TILE_STANDIN_SET_MEMBER1 : Fld := { addr := 0x3000028, lsb := 8, width := 8, reset := 0x0, acc := .ro }
def TILE_STANDIN_SET_MEMBER0 : Fld := { addr := 0x3000028, lsb := 0, width := 8, reset := 0x0, acc := .ro }
def TILE_UNCOVERED_COUNT : Fld := { addr := 0x300002c, lsb := 0, width := 32, reset := 0x0, acc := .rc }
def TILE_RESOLVED_COUNT : Fld := { addr := 0x3000030, lsb := 0, width := 32, reset := 0x0, acc := .rc }
def TILE_CHK_CFG_MARGIN : Fld := { addr := 0x3000034, lsb := 16, width := 8, reset := 0xa, acc := .rw, lo := 4, hi := 32 }
def TILE_CHK_CFG_FAULT_MIN : Fld := { addr := 0x3000034, lsb := 8, width := 8, reset := 0x40, acc := .rw, lo := 2, hi := 255 }
def TILE_CHK_CFG_DRIFT_MIN : Fld := { addr := 0x3000034, lsb := 0, width := 8, reset := 0x1, acc := .rw }
def TILE_CHK_LAST_VALID : Fld := { addr := 0x3000038, lsb := 31, width := 1, reset := 0x0, acc := .ro }
def TILE_CHK_LAST_RESULT : Fld := { addr := 0x3000038, lsb := 29, width := 2, reset := 0x0, acc := .ro }
def TILE_CHK_LAST_BOARD : Fld := { addr := 0x3000038, lsb := 22, width := 7, reset := 0x0, acc := .ro }
def TILE_CHK_LAST_GROUP : Fld := { addr := 0x3000038, lsb := 16, width := 6, reset := 0x0, acc := .ro }
def TILE_CHK_LAST_VECTOR : Fld := { addr := 0x3000038, lsb := 8, width := 8, reset := 0x0, acc := .ro }
def TILE_CHK_MISMATCH_NOMINAL : Fld := { addr := 0x300003c, lsb := 16, width := 16, reset := 0x0, acc := .ro }
def TILE_CHK_MISMATCH_MARGIN : Fld := { addr := 0x300003c, lsb := 0, width := 16, reset := 0x0, acc := .ro }
def TILE_CHK_CNT_COUNT : Fld := { addr := 0x3000040, lsb := 0, width := 32, reset := 0x0, acc := .rc }
def TILE_RETAINED_LINES : Fld := { addr := 0x3000050, lsb := 0, width := 18, reset := 0x0, acc := .ro }
def TILE_DUP_DISCARD_COUNT : Fld := { addr := 0x3000054, lsb := 0, width := 32, reset := 0x0, acc := .rc }
def TILE_REPLAYS_COUNT : Fld := { addr := 0x3000058, lsb := 0, width := 32, reset := 0x0, acc := .rc }
def TILE_FMT_COUNT : Fld := { addr := 0x300005c, lsb := 0, width := 32, reset := 0x0, acc := .rc }
def TILE_MILL_STROKES_COUNT : Fld := { addr := 0x3000074, lsb := 0, width := 32, reset := 0x0, acc := .rc }
def TILE_MILL_CFG_ROUTE_DROPS : Fld := { addr := 0x3000078, lsb := 16, width := 16, reset := 0x0, acc := .rc }
def TILE_MILL_CFG_KV_ALLOC : Fld := { addr := 0x3000078, lsb := 0, width := 10, reset := 0x0, acc := .ro }
def SPAD_STATUS_DELIV_FILL : Fld := { addr := 0x7000000, lsb := 16, width := 10, reset := 0x0, acc := .ro }
def SPAD_STATUS_TAGWRAP : Fld := { addr := 0x7000000, lsb := 0, width := 1, reset := 0x0, acc := .ro }
def SPAD_GEN_COUNTER_GEN : Fld := { addr := 0x7000004, lsb := 0, width := 24, reset := 0x0, acc := .ro }
def SPAD_SLOT_BASE_BASE : Fld := { addr := 0x7000010, lsb := 0, width := 17, reset := 0x0, acc := .ro }
def SPAD_SLOT_BOUND_LINES : Fld := { addr := 0x7000014, lsb := 0, width := 18, reset := 0x0, acc := .ro }
def SPAD_SLOT_GEN_GEN : Fld := { addr := 0x7000018, lsb := 0, width := 24, reset := 0x0, acc := .ro }
def SPAD_SLOT_OWNER_ACTIVE : Fld := { addr := 0x700001c, lsb := 31, width := 1, reset := 0x0, acc := .ro }
def SPAD_SLOT_OWNER_JOB : Fld := { addr := 0x700001c, lsb := 16, width := 12, reset := 0x0, acc := .ro }
def SPAD_SLOT_OWNER_KIND : Fld := { addr := 0x700001c, lsb := 0, width := 3, reset := 0x0, acc := .ro }
def SPAD_CORRECTED_COUNT : Fld := { addr := 0x7000090, lsb := 0, width := 32, reset := 0x0, acc := .rc }
def SPAD_UNCORR_COUNT : Fld := { addr := 0x7000094, lsb := 0, width := 32, reset := 0x0, acc := .rc }
def SPAD_STALE_READS_COUNT : Fld := { addr := 0x7000098, lsb := 0, width := 32, reset := 0x0, acc := .rc }
def SPAD_BOUND_VIOL_COUNT : Fld := { addr := 0x700009c, lsb := 0, width := 32, reset := 0x0, acc := .rc }
def SPAD_LATE_DELIV_COUNT : Fld := { addr := 0x70000a0, lsb := 0, width := 32, reset := 0x0, acc := .rc }
def SPAD_CONFLICTS_COUNT : Fld := { addr := 0x70000a4, lsb := 0, width := 32, reset := 0x0, acc := .rc }
def SPAD_EXT_WAIT_COUNT : Fld := { addr := 0x70000a8, lsb := 0, width := 32, reset := 0x0, acc := .rc }
def SPAD_SCRUB_PASSES : Fld := { addr := 0x70000ac, lsb := 16, width := 16, reset := 0x0, acc := .ro, wraps := true }
def SPAD_SCRUB_INTERVAL : Fld := { addr := 0x70000ac, lsb := 0, width := 16, reset := 0x1000, acc := .rw, lo := 256, hi := 65535 }
def SPAD_PEG_WAIT_COUNT : Fld := { addr := 0x70000b0, lsb := 0, width := 32, reset := 0x0, acc := .rc }
def SPAD_TAG_ERR_COUNT : Fld := { addr := 0x70000c4, lsb := 0, width := 32, reset := 0x0, acc := .rc }
def SPAD_PEG_LAST_VALID : Fld := { addr := 0x70000c8, lsb := 31, width := 1, reset := 0x0, acc := .ro }
def SPAD_PEG_LAST_SCOPE : Fld := { addr := 0x70000c8, lsb := 16, width := 3, reset := 0x0, acc := .ro }
def SPAD_PEG_LAST_PEG_ID : Fld := { addr := 0x70000c8, lsb := 0, width := 16, reset := 0x0, acc := .ro }
def SPAD_BANK_CONFLICT_COUNT : Fld := { addr := 0x7000100, lsb := 0, width := 32, reset := 0x0, acc := .rc }
def TIMEBASE_STATUS_RACK_MISMATCH : Fld := { addr := 0x1000000, lsb := 7, width := 1, reset := 0x0, acc := .w1c }
def TIMEBASE_STATUS_RREF_LOST : Fld := { addr := 0x1000000, lsb := 6, width := 1, reset := 0x0, acc := .w1c }
def TIMEBASE_STATUS_HOLDOVER : Fld := { addr := 0x1000000, lsb := 5, width := 1, reset := 0x0, acc := .ro }
def TIMEBASE_STATUS_EPOCH_VALID : Fld := { addr := 0x1000000, lsb := 4, width := 1, reset := 0x0, acc := .ro }
def TIMEBASE_STATUS_EPOCH_PENDING : Fld := { addr := 0x1000000, lsb := 3, width := 1, reset := 0x0, acc := .ro }
def TIMEBASE_STATUS_SYNC_LOST : Fld := { addr := 0x1000000, lsb := 2, width := 1, reset := 0x0, acc := .ro }
def TIMEBASE_STATUS_SYNC_SEEN : Fld := { addr := 0x1000000, lsb := 1, width := 1, reset := 0x0, acc := .ro }
def TIMEBASE_STATUS_LOCKED : Fld := { addr := 0x1000000, lsb := 0, width := 1, reset := 0x0, acc := .ro }
def TIMEBASE_BEAT_BEAT : Fld := { addr := 0x1000004, lsb := 0, width := 48, reset := 0x0, acc := .ro }
def TIMEBASE_REFCYC_REFCYC : Fld := { addr := 0x100000c, lsb := 0, width := 6, reset := 0x0, acc := .ro }
def TIMEBASE_EPOCH_EPOCH_HI : Fld := { addr := 0x1000010, lsb := 0, width := 32, reset := 0x0, acc := .rw }
def TIMEBASE_SYNC_GOOD_COUNT : Fld := { addr := 0x1000014, lsb := 0, width := 32, reset := 0x0, acc := .ro, wraps := true }
def TIMEBASE_SYNC_ERR_COUNT : Fld := { addr := 0x1000018, lsb := 0, width := 32, reset := 0x0, acc := .rc }
def TIMEBASE_SYNC_MISS_COUNT : Fld := { addr := 0x100001c, lsb := 0, width := 32, reset := 0x0, acc := .rc }
def TIMEBASE_CFG_SYNC_TOL : Fld := { addr := 0x1000020, lsb := 0, width := 4, reset := 0x2, acc := .rw, lo := 1, hi := 8 }
def TIMEBASE_THETA_VALID : Fld := { addr := 0x1000024, lsb := 31, width := 1, reset := 0x0, acc := .ro }
def TIMEBASE_THETA_THETA : Fld := { addr := 0x1000024, lsb := 0, width := 24, reset := 0x0, acc := .ro }
def TIMEBASE_THETA_APPLIED_BEATS : Fld := { addr := 0x1000028, lsb := 0, width := 16, reset := 0x0, acc := .ro }
def TIMEBASE_SLIPS_COUNT : Fld := { addr := 0x100002c, lsb := 0, width := 32, reset := 0x0, acc := .rc }
def TIMEBASE_EXCEED_COUNT : Fld := { addr := 0x1000030, lsb := 0, width := 32, reset := 0x0, acc := .rc }
def TIMEBASE_EPOCH_REJECT_COUNT : Fld := { addr := 0x1000034, lsb := 0, width := 32, reset := 0x0, acc := .rc }
def TIMEBASE_LINK_OFFSET_VALID : Fld := { addr := 0x1000040, lsb := 31, width := 1, reset := 0x0, acc := .ro }
def TIMEBASE_LINK_OFFSET_CROSS : Fld := { addr := 0x1000040, lsb := 30, width := 1, reset := 0x0, acc := .ro }
def TIMEBASE_LINK_OFFSET_OFFSET : Fld := { addr := 0x1000040, lsb := 0, width := 24, reset := 0x0, acc := .ro }
def TIMEBASE_HALF_CLK_SLOWED : Fld := { addr := 0x1000080, lsb := 31, width := 1, reset := 0x0, acc := .ro }
def TIMEBASE_HALF_CLK_THROTTLED : Fld := { addr := 0x1000080, lsb := 30, width := 1, reset := 0x0, acc := .ro, view := .throttled }
def TIMEBASE_HALF_CLK_GEAR : Fld := { addr := 0x1000080, lsb := 28, width := 2, reset := 0x0, acc := .ro }
def TIMEBASE_HALF_CLK_CYC_PER_BEAT : Fld := { addr := 0x1000080, lsb := 16, width := 10, reset := 0x0, acc := .ro, view := .cycPerBeat }
def TIMEBASE_HALF_CLK_LATE_STEPS : Fld := { addr := 0x1000080, lsb := 0, width := 16, reset := 0x0, acc := .ro }
def SEQ_STATE_ADVISE : Fld := { addr := 0x2000000, lsb := 11, width := 1, reset := 0x0, acc := .ro }
def SEQ_STATE_TAIL : Fld := { addr := 0x2000000, lsb := 10, width := 1, reset := 0x0, acc := .ro }
def SEQ_STATE_HEAD : Fld := { addr := 0x2000000, lsb := 9, width := 1, reset := 0x0, acc := .ro }
def SEQ_STATE_GEAR_PENDING : Fld := { addr := 0x2000000, lsb := 8, width := 1, reset := 0x0, acc := .ro }
def SEQ_STATE_GEAR_NEXT : Fld := { addr := 0x2000000, lsb := 6, width := 2, reset := 0x0, acc := .ro }
def SEQ_STATE_GEAR : Fld := { addr := 0x2000000, lsb := 4, width := 2, reset := 0x0, acc := .ro }
def SEQ_STATE_STATE : Fld := { addr := 0x2000000, lsb := 0, width := 3, reset := 0x0, acc := .ro }
def SEQ_JOB_PACKAGES : Fld := { addr := 0x2000004, lsb := 16, width := 16, reset := 0x0, acc := .ro }
def SEQ_JOB_JOB : Fld := { addr := 0x2000004, lsb := 0, width := 12, reset := 0x0, acc := .ro }
def SEQ_LAYOUT_LAYOUT_ID : Fld := { addr := 0x2000008, lsb := 0, width := 32, reset := 0x0, acc := .ro }
def SEQ_STEP_STEP : Fld := { addr := 0x200000c, lsb := 0, width := 32, reset := 0x0, acc := .ro, wraps := true }
def SEQ_START_BEAT : Fld := { addr := 0x2000010, lsb := 0, width := 48, reset := 0x0, acc := .ro }
def SEQ_B0_BEAT : Fld := { addr := 0x2000018, lsb := 0, width := 48, reset := 0x0, acc := .ro }
def SEQ_LEN_L : Fld := { addr := 0x2000020, lsb := 0, width := 20, reset := 0x0, acc := .ro }
def SEQ_GAP_RESUME_GAP : Fld := { addr := 0x200002c, lsb := 0, width := 11, reset := 0x0, acc := .ro }
def SEQ_TIMEOUT_STEP_TIMEOUT : Fld := { addr := 0x2000030, lsb := 0, width := 20, reset := 0x0, acc := .ro }
def SEQ_ROTATION_PHASE : Fld := { addr := 0x2000034, lsb := 16, width := 16, reset := 0x0, acc := .ro }
def SEQ_ROTATION_ROTATION_M1 : Fld := { addr := 0x2000034, lsb := 0, width := 16, reset := 0x0, acc := .ro }
def SEQ_LAG_BEATS : Fld := { addr := 0x2000038, lsb := 0, width := 32, reset := 0x0, acc := .ro }
def SEQ_LATE_STEPS_COUNT : Fld := { addr := 0x200003c, lsb := 0, width := 32, reset := 0x0, acc := .rc }
def SEQ_LAST_VALID : Fld := { addr := 0x2000040, lsb := 31, width := 1, reset := 0x0, acc := .ro }
def SEQ_LAST_LATE : Fld := { addr := 0x2000040, lsb := 30, width := 1, reset := 0x0, acc := .ro }
def SEQ_LAST_SLIP : Fld := { addr := 0x2000040, lsb := 29, width := 1, reset := 0x0, acc := .ro }
def SEQ_LAST_COMMIT_OFFSET : Fld := { addr := 0x2000040, lsb := 0, width := 20, reset := 0x0, acc := .ro }
def SEQ_GEAR_CHANGES_COUNT : Fld := { addr := 0x2000044, lsb := 0, width := 32, reset := 0x0, acc := .rc }
def SEQ_COMMIT_LATE_COUNT : Fld := { addr := 0x2000048, lsb := 0, width := 32, reset := 0x0, acc := .rc }
def SEQ_DEFER_COUNT : Fld := { addr := 0x200004c, lsb := 0, width := 32, reset := 0x0, acc := .rc }
def SEQ_LOAD_STATUS_VALID : Fld := { addr := 0x2000050, lsb := 31, width := 1, reset := 0x0, acc := .ro }
def SEQ_LOAD_STATUS_GEAR : Fld := { addr := 0x2000050, lsb := 26, width := 2, reset := 0x0, acc := .ro }
def SEQ_LOAD_STATUS_DIE : Fld := { addr := 0x2000050, lsb := 23, width := 3, reset := 0x0, acc := .ro }
def SEQ_LOAD_STATUS_TILE : Fld := { addr := 0x2000050, lsb := 17, width := 6, reset := 0x0, acc := .ro }
def SEQ_LOAD_STATUS_CODE : Fld := { addr := 0x2000050, lsb := 0, width := 8, reset := 0x0, acc := .ro }
def SEQ_LOAD_DETAIL_SECTION : Fld := { addr := 0x2000054, lsb := 16, width := 16, reset := 0x0, acc := .ro }
def SEQ_LOAD_DETAIL_INDEX : Fld := { addr := 0x2000054, lsb := 0, width := 16, reset := 0x0, acc := .ro }
def SEQ_LIST_CRC_CRC : Fld := { addr := 0x2000058, lsb := 0, width := 32, reset := 0x0, acc := .ro }
def MESH_STATUS_LOST_EDGES : Fld := { addr := 0x8000000, lsb := 16, width := 10, reset := 0x0, acc := .ro }
def MESH_STATUS_LOST_DIES : Fld := { addr := 0x8000000, lsb := 8, width := 8, reset := 0x0, acc := .ro }
def MESH_STATUS_DETOUR : Fld := { addr := 0x8000000, lsb := 0, width := 1, reset := 0x0, acc := .ro }
def MESH_ROOTS_ROOT_E : Fld := { addr := 0x8000004, lsb := 16, width := 6, reset := 0x20, acc := .ro }
def MESH_ROOTS_ROOT_W : Fld := { addr := 0x8000004, lsb := 8, width := 6, reset := 0x9, acc := .ro }
def MESH_ROOTS_MASTER : Fld := { addr := 0x8000004, lsb := 0, width := 3, reset := 0x0, acc := .ro, view := .master }
def MESH_HDR_ERR_COUNT : Fld := { addr := 0x8000008, lsb := 0, width := 32, reset := 0x0, acc := .rc }
def MESH_SHELVED_DISCARD_COUNT : Fld := { addr := 0x800000c, lsb := 0, width := 32, reset := 0x0, acc := .rc }
def MESH_UNREACHABLE_COUNT : Fld := { addr := 0x8000010, lsb := 0, width := 32, reset := 0x0, acc := .rc }
def MESH_CREDIT_WAIT_COUNT : Fld := { addr := 0x8000014, lsb := 0, width := 32, reset := 0x0, acc := .rc }
def MESH_DETOURED_COUNT : Fld := { addr := 0x8000018, lsb := 0, width := 32, reset := 0x0, acc := .rc }
def MESH_SEAM_CFG_ENTRIES : Fld := { addr := 0x800001c, lsb := 8, width := 8, reset := 0x80, acc := .ro }
def MESH_SEAM_CFG_SEAM_LAT : Fld := { addr := 0x800001c, lsb := 0, width := 4, reset := 0x4, acc := .ro }
def MESH_SEAM_HOLD_COUNT : Fld := { addr := 0x8000020, lsb := 0, width := 32, reset := 0x0, acc := .rc }
def TACK_MISMATCH_COUNT : Fld := { addr := 0x8000040, lsb := 0, width := 32, reset := 0x0, acc := .rc }
def TACK_PARITY_COUNT : Fld := { addr := 0x8000044, lsb := 0, width := 32, reset := 0x0, acc := .rc }
def TACK_OUTSTANDING_SCOPES : Fld := { addr := 0x8000048, lsb := 0, width := 5, reset := 0x0, acc := .ro, view := .tackScopes }
def TACK_FAULTS_COUNT : Fld := { addr := 0x800004c, lsb := 0, width := 32, reset := 0x0, acc := .rc }
def TACK_WORDS_COUNT : Fld := { addr := 0x8000050, lsb := 0, width := 32, reset := 0x0, acc := .ro, wraps := true }
def TACK_LATE_MSGS_COUNT : Fld := { addr := 0x8000054, lsb := 0, width := 32, reset := 0x0, acc := .rc }
def TACK_ACKS_COUNT : Fld := { addr := 0x8000058, lsb := 0, width := 32, reset := 0x0, acc := .ro, wraps := true }
def TACK_CREDITS_COUNT : Fld := { addr := 0x800005c, lsb := 0, width := 32, reset := 0x0, acc := .ro, wraps := true }
def D2D_STATUS_PRESENT : Fld := { addr := 0x9000000, lsb := 31, width := 1, reset := 0x0, acc := .ro, view := .d2dPresent }
def D2D_STATUS_PEER : Fld := { addr := 0x9000000, lsb := 28, width := 3, reset := 0x0, acc := .ro, view := .d2dPeer }
def D2D_STATUS_MODULES : Fld := { addr := 0x9000000, lsb := 24, width := 4, reset := 0x0, acc := .ro }
def D2D_STATUS_TACK_MODULE : Fld := { addr := 0x9000000, lsb := 20, width := 2, reset := 0x0, acc := .ro }
def D2D_STATUS_SLOW : Fld := { addr := 0x9000000, lsb := 16, width := 4, reset := 0x0, acc := .ro }
def D2D_STATUS_STATE : Fld := { addr := 0x9000000, lsb := 0, width := 3, reset := 0x1, acc := .ro, view := .d2dState }
def D2D_CTRL_RETRAIN : Fld := { addr := 0x9000004, lsb := 0, width := 1, reset := 0x0, acc := .wo }
def D2D_CRC_ERR_COUNT : Fld := { addr := 0x9000008, lsb := 0, width := 32, reset := 0x0, acc := .rc }
def D2D_RETRIES_COUNT : Fld := { addr := 0x900000c, lsb := 0, width := 32, reset := 0x0, acc := .rc }
def D2D_REPAIRS_LANES : Fld := { addr := 0x9000010, lsb := 0, width := 16, reset := 0x0, acc := .ro }
def D2D_DOWNS_COUNT : Fld := { addr := 0x9000014, lsb := 0, width := 32, reset := 0x0, acc := .rc }
def D2D_TACK_LATE_COUNT : Fld := { addr := 0x9000018, lsb := 0, width := 32, reset := 0x0, acc := .rc }
def D2D_FLITS_TX_COUNT : Fld := { addr := 0x900001c, lsb := 0, width := 32, reset := 0x0, acc := .ro, wraps := true }
def D2D_FLITS_RX_COUNT : Fld := { addr := 0x9000020, lsb := 0, width := 32, reset := 0x0, acc := .ro, wraps := true }
def D2D_STALL_COUNT : Fld := { addr := 0x9000024, lsb := 0, width := 32, reset := 0x0, acc := .rc }
def D2D_TRAIN_TRAINS : Fld := { addr := 0x9000028, lsb := 16, width := 16, reset := 0x0, acc := .ro }
def D2D_TRAIN_LAST_US : Fld := { addr := 0x9000028, lsb := 0, width := 16, reset := 0x0, acc := .ro }
def TORUS_PORT_STATUS_LASER_LOW : Fld := { addr := 0xa000000, lsb := 16, width := 2, reset := 0x0, acc := .ro }
def TORUS_PORT_STATUS_DEFINED : Fld := { addr := 0xa000000, lsb := 8, width := 4, reset := 0x0, acc := .ro }
def TORUS_PORT_STATUS_WIDE : Fld := { addr := 0xa000000, lsb := 4, width := 2, reset := 0x0, acc := .ro }
def TORUS_PORT_STATUS_UP : Fld := { addr := 0xa000000, lsb := 0, width := 4, reset := 0x0, acc := .ro }
def TORUS_GRP_STATE_JOB : Fld := { addr := 0xa000100, lsb := 16, width := 12, reset := 0x0, acc := .ro }
def TORUS_GRP_STATE_ENC_WARN : Fld := { addr := 0xa000100, lsb := 10, width := 1, reset := 0x0, acc := .ro }
def TORUS_GRP_STATE_ENC : Fld := { addr := 0xa000100, lsb := 9, width := 1, reset := 0x0, acc := .ro }
def TORUS_GRP_STATE_LANES8 : Fld := { addr := 0xa000100, lsb := 8, width := 1, reset := 0x0, acc := .ro }
def TORUS_GRP_STATE_OWNER : Fld := { addr := 0xa000100, lsb := 4, width := 2, reset := 0x0, acc := .ro }
def TORUS_GRP_STATE_STATE : Fld := { addr := 0xa000100, lsb := 0, width := 3, reset := 0x0, acc := .ro }
def TORUS_GRP_PEER_VALID : Fld := { addr := 0xa000104, lsb := 31, width := 1, reset := 0x0, acc := .ro }
def TORUS_GRP_PEER_PEER_GROUP : Fld := { addr := 0xa000104, lsb := 20, width := 2, reset := 0x0, acc := .ro }
def TORUS_GRP_PEER_PEER_PORT : Fld := { addr := 0xa000104, lsb := 16, width := 3, reset := 0x0, acc := .ro }
def TORUS_GRP_PEER_PEER_NODE : Fld := { addr := 0xa000104, lsb := 0, width := 12, reset := 0x0, acc := .ro }
def TORUS_GRP_LAT_LAT_MAX : Fld := { addr := 0xa000108, lsb := 16, width := 16, reset := 0x0, acc := .ro }
def TORUS_GRP_LAT_LAT : Fld := { addr := 0xa000108, lsb := 0, width := 16, reset := 0x0, acc := .ro }
def TORUS_GRP_CTRL_RETRAIN : Fld := { addr := 0xa00010c, lsb := 0, width := 1, reset := 0x0, acc := .wo }
def TORUS_GRP_CORRECTED_COUNT : Fld := { addr := 0xa000110, lsb := 0, width := 32, reset := 0x0, acc := .rc }
def TORUS_GRP_NAKS_COUNT : Fld := { addr := 0xa000114, lsb := 0, width := 32, reset := 0x0, acc := .rc }
def TORUS_GRP_RETRIES_COUNT : Fld := { addr := 0xa000118, lsb := 0, width := 32, reset := 0x0, acc := .rc }
def TORUS_GRP_DOWNS_COUNT : Fld := { addr := 0xa00011c, lsb := 0, width := 32, reset := 0x0, acc := .rc }
def TORUS_GRP_DROPS_COUNT : Fld := { addr := 0xa000120, lsb := 0, width := 32, reset := 0x0, acc := .rc }
def TORUS_GRP_AUTH_FAIL_COUNT : Fld := { addr := 0xa000124, lsb := 0, width := 32, reset := 0x0, acc := .rc }
def TORUS_GRP_VL0_WAIT_RETRIED : Fld := { addr := 0xa000128, lsb := 16, width := 16, reset := 0x0, acc := .rc }
def TORUS_GRP_VL0_WAIT_MAX : Fld := { addr := 0xa000128, lsb := 0, width := 16, reset := 0x0, acc := .rc }
def TORUS_GRP_TRANSIT_VALID : Fld := { addr := 0xa00012c, lsb := 31, width := 1, reset := 0x0, acc := .ro }
def TORUS_GRP_TRANSIT_GROUP_OUT : Fld := { addr := 0xa00012c, lsb := 6, width := 2, reset := 0x0, acc := .ro }
def TORUS_GRP_TRANSIT_PORT_OUT : Fld := { addr := 0xa00012c, lsb := 0, width := 3, reset := 0x0, acc := .ro }
def TORUS_GRP_FLITS_TX_COUNT : Fld := { addr := 0xa000130, lsb := 0, width := 32, reset := 0x0, acc := .ro, wraps := true }
def TORUS_GRP_FLITS_RX_COUNT : Fld := { addr := 0xa000134, lsb := 0, width := 32, reset := 0x0, acc := .ro, wraps := true }
def TORUS_GRP_WEIGHTS_W3 : Fld := { addr := 0xa000138, lsb := 16, width := 8, reset := 0x0, acc := .ro }
def TORUS_GRP_WEIGHTS_W2 : Fld := { addr := 0xa000138, lsb := 8, width := 8, reset := 0x0, acc := .ro }
def TORUS_GRP_WEIGHTS_W1 : Fld := { addr := 0xa000138, lsb := 0, width := 8, reset := 0x0, acc := .ro }
def TORUS_GRP_ENC_CTR_COUNT_HI : Fld := { addr := 0xa00013c, lsb := 0, width := 32, reset := 0x0, acc := .ro }
def TORUS_PATH_VALID : Fld := { addr := 0xa010000, lsb := 31, width := 1, reset := 0x0, acc := .ro }
def TORUS_PATH_PORT : Fld := { addr := 0xa010000, lsb := 16, width := 3, reset := 0x0, acc := .ro }
def TORUS_PATH_GROUP : Fld := { addr := 0xa010000, lsb := 8, width := 2, reset := 0x0, acc := .ro }
def CTX_STATUS_SCRUB_ON : Fld := { addr := 0xe000000, lsb := 3, width := 1, reset := 0x0, acc := .ro }
def CTX_STATUS_STACK : Fld := { addr := 0xe000000, lsb := 0, width := 3, reset := 0x0, acc := .ro }
def CTX_STACK_RATE : Fld := { addr := 0xe000004, lsb := 16, width := 16, reset := 0x1e84, acc := .ro }
def CTX_STACK_CHANNELS : Fld := { addr := 0xe000004, lsb := 8, width := 8, reset := 0x20, acc := .ro }
def CTX_STACK_GB : Fld := { addr := 0xe000004, lsb := 0, width := 8, reset := 0x24, acc := .ro }
def CTX_STACK_TEMP_TEMP : Fld := { addr := 0xe000008, lsb := 0, width := 8, reset := 0x0, acc := .ro }
def CTX_FRAME_CFG_HD : Fld := { addr := 0xe00000c, lsb := 30, width := 2, reset := 0x0, acc := .ro }
def CTX_FRAME_CFG_FRAME_LINES : Fld := { addr := 0xe00000c, lsb := 0, width := 20, reset := 0x0, acc := .ro }
def CTX_FRAMES_TOTAL : Fld := { addr := 0xe000010, lsb := 0, width := 32, reset := 0x0, acc := .ro }
def CTX_FRAMES_FREE_COUNT : Fld := { addr := 0xe000014, lsb := 0, width := 32, reset := 0x0, acc := .ro, view := .framesFree }
def CTX_FRAMES_DIRTY_COUNT : Fld := { addr := 0xe000018, lsb := 0, width := 32, reset := 0x0, acc := .ro, view := .framesDirty }
def CTX_GUARANTEE_BYTES : Fld := { addr := 0xe00001c, lsb := 0, width := 11, reset := 0x378, acc := .ro }
def CTX_RGN0_BASE_BASE : Fld := { addr := 0xe000020, lsb := 0, width := 30, reset := 0x0, acc := .ro }
def CTX_RGN0_LINES_LINES : Fld := { addr := 0xe000024, lsb := 0, width := 30, reset := 0x3400000, acc := .ro }
def CTX_RGN1_BASE_BASE : Fld := { addr := 0xe000028, lsb := 0, width := 30, reset := 0x0, acc := .ro }
def CTX_RGN1_LINES_LINES : Fld := { addr := 0xe00002c, lsb := 0, width := 30, reset := 0x1000000, acc := .rw }
def CTX_RGN2_BASE_BASE : Fld := { addr := 0xe000030, lsb := 0, width := 30, reset := 0x0, acc := .ro }
def CTX_RGN2_LINES_LINES : Fld := { addr := 0xe000034, lsb := 0, width := 30, reset := 0x0, acc := .ro }
def CTX_RGN3_BASE_BASE : Fld := { addr := 0xe000038, lsb := 0, width := 30, reset := 0x0, acc := .ro }
def CTX_RGN3_LINES_LINES : Fld := { addr := 0xe00003c, lsb := 0, width := 30, reset := 0x1100000, acc := .rw }
def CTX_RGN4_BASE_BASE : Fld := { addr := 0xe000040, lsb := 0, width := 30, reset := 0x0, acc := .ro }
def CTX_RGN4_LINES_LINES : Fld := { addr := 0xe000044, lsb := 0, width := 30, reset := 0x800000, acc := .rw }
def CTX_RGN5_BASE_BASE : Fld := { addr := 0xe000048, lsb := 0, width := 30, reset := 0x0, acc := .ro }
def CTX_RGN5_LINES_LINES : Fld := { addr := 0xe00004c, lsb := 0, width := 30, reset := 0x100000, acc := .rw }
def CTX_RGN6_BASE_BASE : Fld := { addr := 0xe000050, lsb := 0, width := 30, reset := 0x0, acc := .ro }
def CTX_RGN6_LINES_LINES : Fld := { addr := 0xe000054, lsb := 0, width := 30, reset := 0x800000, acc := .rw }
def CTX_CORRECTED_COUNT : Fld := { addr := 0xe000060, lsb := 0, width := 32, reset := 0x0, acc := .rc }
def CTX_UNCORR_COUNT : Fld := { addr := 0xe000064, lsb := 0, width := 32, reset := 0x0, acc := .rc }
def CTX_SCRUB_PASSES : Fld := { addr := 0xe000068, lsb := 16, width := 16, reset := 0x0, acc := .ro, wraps := true }
def CTX_SCRUB_INTERVAL : Fld := { addr := 0xe000068, lsb := 0, width := 16, reset := 0x40, acc := .rw, lo := 16, hi := 65535 }
def CTX_APPENDS_COUNT : Fld := { addr := 0xe00006c, lsb := 0, width := 32, reset := 0x0, acc := .ro, wraps := true }
def CTX_APPEND_REFUSED_COUNT : Fld := { addr := 0xe000070, lsb := 0, width := 32, reset := 0x0, acc := .rc }
def CTX_NOFRAME_COUNT : Fld := { addr := 0xe000074, lsb := 0, width := 32, reset := 0x0, acc := .rc }
def CTX_KEY_MISS_COUNT : Fld := { addr := 0xe000078, lsb := 0, width := 32, reset := 0x0, acc := .rc }
def CTX_RMW_WAIT_COUNT : Fld := { addr := 0xe00007c, lsb := 0, width := 32, reset := 0x0, acc := .rc }
def CTX_PAGE_OUT_COUNT : Fld := { addr := 0xe000080, lsb := 0, width := 32, reset := 0x0, acc := .rc }
def CTX_PAGE_IN_COUNT : Fld := { addr := 0xe000084, lsb := 0, width := 32, reset := 0x0, acc := .rc }
def CTX_PAGE_FAIL_LOST : Fld := { addr := 0xe000088, lsb := 16, width := 16, reset := 0x0, acc := .rc }
def CTX_PAGE_FAIL_REFETCH : Fld := { addr := 0xe000088, lsb := 0, width := 16, reset := 0x0, acc := .rc }
def CTX_PAGE_CFG_PAGE_RETRIES : Fld := { addr := 0xe00008c, lsb := 28, width := 4, reset := 0x3, acc := .rw, lo := 0, hi := 8 }
def CTX_PAGE_CFG_TIMEOUT : Fld := { addr := 0xe00008c, lsb := 8, width := 16, reset := 0x100, acc := .rw, lo := 16, hi := 65535 }
def CTX_PAGE_CFG_RATE : Fld := { addr := 0xe00008c, lsb := 0, width := 8, reset := 0x32, acc := .rw, lo := 1, hi := 200 }
def CTX_PROBE_SEL_INDEX : Fld := { addr := 0xe000090, lsb := 0, width := 16, reset := 0x0, acc := .rw }
def CTX_PROBE_STATE_STATE : Fld := { addr := 0xe000094, lsb := 29, width := 3, reset := 0x0, acc := .ro, view := .ctxState }
def CTX_PROBE_STATE_TENANT : Fld := { addr := 0xe000094, lsb := 16, width := 10, reset := 0x0, acc := .ro, view := .ctxTenant }
def CTX_PROBE_STATE_PAGES : Fld := { addr := 0xe000094, lsb := 0, width := 15, reset := 0x0, acc := .ro, view := .ctxPages }
def CTX_PROBE_COMMIT_COMMIT : Fld := { addr := 0xe000098, lsb := 0, width := 32, reset := 0x0, acc := .ro, view := .ctxCommit }
def CTX_LAST_UNCORR_VALID : Fld := { addr := 0xe0000a0, lsb := 63, width := 1, reset := 0x0, acc := .ro }
def CTX_LAST_UNCORR_REGION : Fld := { addr := 0xe0000a0, lsb := 32, width := 3, reset := 0x0, acc := .ro }
def CTX_LAST_UNCORR_LINE : Fld := { addr := 0xe0000a0, lsb := 0, width := 30, reset := 0x0, acc := .ro }
def FRONT_STATUS_PN_END : Fld := { addr := 0xb000000, lsb := 3, width := 1, reset := 0x0, acc := .ro }
def FRONT_STATUS_PN_WARN : Fld := { addr := 0xb000000, lsb := 2, width := 1, reset := 0x0, acc := .w1c }
def FRONT_STATUS_SAK : Fld := { addr := 0xb000000, lsb := 1, width := 1, reset := 0x0, acc := .ro }
def FRONT_STATUS_LINK_UP : Fld := { addr := 0xb000000, lsb := 0, width := 1, reset := 0x0, acc := .ro }
def FRONT_CFG_VLAN : Fld := { addr := 0xb000004, lsb := 16, width := 12, reset := 0x0, acc := .rw }
def FRONT_CFG_TCLASS : Fld := { addr := 0xb000004, lsb := 8, width := 8, reset := 0x0, acc := .rw }
def FRONT_CFG_WINDOW : Fld := { addr := 0xb000004, lsb := 4, width := 4, reset := 0x6, acc := .rw }
def FRONT_CFG_XPN : Fld := { addr := 0xb000004, lsb := 1, width := 1, reset := 0x1, acc := .rw }
def FRONT_CFG_MACSEC_REQ : Fld := { addr := 0xb000004, lsb := 0, width := 1, reset := 0x1, acc := .rw }
def FRONT_ADDR_ADDR : Fld := { addr := 0xb000008, lsb := 0, width := 32, reset := 0x0, acc := .rw }
def FRONT_MAC_MAC : Fld := { addr := 0xb000018, lsb := 0, width := 48, reset := 0x0, acc := .ro }
def FRONT_NEXTHOP_MAC : Fld := { addr := 0xb000020, lsb := 0, width := 48, reset := 0x0, acc := .rw }
def FRONT_ERRS_MACSEC : Fld := { addr := 0xb000028, lsb := 16, width := 16, reset := 0x0, acc := .rc }
def FRONT_ERRS_FCS : Fld := { addr := 0xb000028, lsb := 0, width := 16, reset := 0x0, acc := .rc }
def FRONT_DROPS_PAUSE : Fld := { addr := 0xb00002c, lsb := 16, width := 16, reset := 0x0, acc := .rc }
def FRONT_DROPS_OTHER : Fld := { addr := 0xb00002c, lsb := 0, width := 16, reset := 0x0, acc := .rc }
def FRONT_FRAMES_TX : Fld := { addr := 0xb000030, lsb := 16, width := 16, reset := 0x0, acc := .ro, wraps := true }
def FRONT_FRAMES_RX : Fld := { addr := 0xb000030, lsb := 0, width := 16, reset := 0x0, acc := .ro, wraps := true }
def FRONT_UDP_REMOTE_PORT : Fld := { addr := 0xb000200, lsb := 16, width := 16, reset := 0xb9f0, acc := .rw }
def FRONT_UDP_PORT : Fld := { addr := 0xb000200, lsb := 0, width := 16, reset := 0xb9f0, acc := .rw }
def FRONT_REMOTE_ADDR : Fld := { addr := 0xb000204, lsb := 0, width := 32, reset := 0x0, acc := .rw }
def FRONT_REMOTE_IF_PORT : Fld := { addr := 0xb000214, lsb := 0, width := 1, reset := 0x0, acc := .rw }
def FRONT_MALFORMED_IP_COUNT : Fld := { addr := 0xb000218, lsb := 0, width := 32, reset := 0x0, acc := .rc }
def SERVE_STATUS_SESSIONS : Fld := { addr := 0xc000000, lsb := 16, width := 13, reset := 0x0, acc := .ro, view := .sessions }
def SERVE_STATUS_ADMITTING : Fld := { addr := 0xc000000, lsb := 2, width := 1, reset := 0x0, acc := .ro }
def SERVE_STATUS_TAIL : Fld := { addr := 0xc000000, lsb := 1, width := 1, reset := 0x0, acc := .ro }
def SERVE_STATUS_HEAD : Fld := { addr := 0xc000000, lsb := 0, width := 1, reset := 0x0, acc := .ro }
def SERVE_ACTIVE_REQUESTS : Fld := { addr := 0xc000004, lsb := 0, width := 17, reset := 0x0, acc := .ro, view := .activeRequests }
def SERVE_CFG_RETRIES : Fld := { addr := 0xc000008, lsb := 28, width := 4, reset := 0x8, acc := .rw, lo := 1, hi := 15 }
def SERVE_CFG_RETX_US : Fld := { addr := 0xc000008, lsb := 16, width := 12, reset := 0xc8, acc := .rw, lo := 20, hi := 4095 }
def SERVE_CFG_IDLE_MS : Fld := { addr := 0xc000008, lsb := 0, width := 16, reset := 0x2710, acc := .rw, lo := 100, hi := 65535 }
def SERVE_ADMITTED_COUNT : Fld := { addr := 0xc00000c, lsb := 0, width := 32, reset := 0x0, acc := .ro, wraps := true }
def SERVE_REFUSED_COUNT : Fld := { addr := 0xc000010, lsb := 0, width := 32, reset := 0x0, acc := .rc }
def SERVE_DEFERRED_COUNT : Fld := { addr := 0xc000014, lsb := 0, width := 32, reset := 0x0, acc := .rc }
def SERVE_AUTH_FAIL_COUNT : Fld := { addr := 0xc000018, lsb := 0, width := 32, reset := 0x0, acc := .rc }
def SERVE_MALFORMED_COUNT : Fld := { addr := 0xc00001c, lsb := 0, width := 32, reset := 0x0, acc := .rc }
def SERVE_PREFIX_MISSES : Fld := { addr := 0xc000020, lsb := 16, width := 16, reset := 0x0, acc := .rc }
def SERVE_PREFIX_HITS : Fld := { addr := 0xc000020, lsb := 0, width := 16, reset := 0x0, acc := .rc }
def SERVE_LATE_COUNT : Fld := { addr := 0xc000024, lsb := 0, width := 32, reset := 0x0, acc := .rc }
def SERVE_POLICY_EVICTED : Fld := { addr := 0xc000028, lsb := 16, width := 16, reset := 0x0, acc := .rc }
def SERVE_POLICY_DEMOTED : Fld := { addr := 0xc000028, lsb := 0, width := 16, reset := 0x0, acc := .rc }
def SERVE_STEP_PKTS_COUNT : Fld := { addr := 0xc00002c, lsb := 0, width := 32, reset := 0x0, acc := .ro, wraps := true }
def SERVE_RESENDS_GONE : Fld := { addr := 0xc000030, lsb := 16, width := 16, reset := 0x0, acc := .rc }
def SERVE_RESENDS_RESENT : Fld := { addr := 0xc000030, lsb := 0, width := 16, reset := 0x0, acc := .rc }
def SERVE_OUTPUT_LOST_COUNT : Fld := { addr := 0xc000034, lsb := 0, width := 32, reset := 0x0, acc := .rc }
def SERVE_PROBE_SEL_INDEX : Fld := { addr := 0xc000038, lsb := 0, width := 16, reset := 0x0, acc := .rw }
def SERVE_PROBE_STATE_STATE : Fld := { addr := 0xc00003c, lsb := 30, width := 2, reset := 0x0, acc := .ro, view := .probeState }
def SERVE_PROBE_STATE_PRIORITY : Fld := { addr := 0xc00003c, lsb := 28, width := 2, reset := 0x0, acc := .ro, view := .probePriority }
def SERVE_PROBE_STATE_TENANT : Fld := { addr := 0xc00003c, lsb := 16, width := 10, reset := 0x0, acc := .ro, view := .probeTenant }
def SERVE_PROBE_STATE_GAPS_OVER : Fld := { addr := 0xc00003c, lsb := 0, width := 16, reset := 0x0, acc := .ro, view := .probeGapsOver }
def SERVE_PROBE_ADMIT_BEAT : Fld := { addr := 0xc000040, lsb := 0, width := 48, reset := 0x0, acc := .ro, view := .probeAdmit }
def SERVE_PROBE_FIRST_BEAT : Fld := { addr := 0xc000048, lsb := 0, width := 48, reset := 0x0, acc := .ro, view := .probeFirst }
def SERVE_PROBE_LAST_BEAT : Fld := { addr := 0xc000050, lsb := 0, width := 48, reset := 0x0, acc := .ro, view := .probeLast }
def SERVE_PROBE_GAP_WORST : Fld := { addr := 0xc000058, lsb := 0, width := 32, reset := 0x0, acc := .ro, view := .probeGapWorst }
def SERVE_TENANT_SEL_TENANT : Fld := { addr := 0xc00005c, lsb := 0, width := 10, reset := 0x0, acc := .rw }
def SERVE_TENANT_STATE_ENABLED : Fld := { addr := 0xc000060, lsb := 31, width := 1, reset := 0x0, acc := .ro, view := .tenEnabled }
def SERVE_TENANT_STATE_PRIVILEGED : Fld := { addr := 0xc000060, lsb := 30, width := 1, reset := 0x0, acc := .ro, view := .tenPrivileged }
def SERVE_TENANT_STATE_POLICY : Fld := { addr := 0xc000060, lsb := 28, width := 2, reset := 0x0, acc := .ro, view := .tenPolicy }
def SERVE_TENANT_STATE_CLASS : Fld := { addr := 0xc000060, lsb := 26, width := 2, reset := 0x0, acc := .ro, view := .tenClass }
def SERVE_TENANT_STATE_ACTIVE : Fld := { addr := 0xc000060, lsb := 0, width := 17, reset := 0x0, acc := .ro, view := .tenActive }
def SAMPLER_STATUS_LANES : Fld := { addr := 0xd000000, lsb := 8, width := 8, reset := 0x20, acc := .ro }
def SAMPLER_STATUS_HEAD : Fld := { addr := 0xd000000, lsb := 1, width := 1, reset := 0x0, acc := .ro }
def SAMPLER_STATUS_TAIL : Fld := { addr := 0xd000000, lsb := 0, width := 1, reset := 0x0, acc := .ro }
def SAMPLER_TIMING_SLOT_CYCLES : Fld := { addr := 0xd000004, lsb := 0, width := 20, reset := 0x0, acc := .ro }
def SAMPLER_DRAWS_COUNT : Fld := { addr := 0xd000008, lsb := 0, width := 32, reset := 0x0, acc := .ro, wraps := true }
def SAMPLER_GREEDY_COUNT : Fld := { addr := 0xd00000c, lsb := 0, width := 32, reset := 0x0, acc := .rc }
def SAMPLER_DRAFTED_COUNT : Fld := { addr := 0xd000010, lsb := 0, width := 32, reset := 0x0, acc := .ro, wraps := true }
def SAMPLER_ACCEPTED_COUNT : Fld := { addr := 0xd000014, lsb := 0, width := 32, reset := 0x0, acc := .ro, wraps := true }
def SAMPLER_NO_MATCH_COUNT : Fld := { addr := 0xd000018, lsb := 0, width := 32, reset := 0x0, acc := .rc }
def SAMPLER_ENDS_LENGTH : Fld := { addr := 0xd00001c, lsb := 16, width := 16, reset := 0x0, acc := .rc }
def SAMPLER_ENDS_STOP : Fld := { addr := 0xd00001c, lsb := 0, width := 16, reset := 0x0, acc := .rc }
def SAMPLER_SWITCH_ENDS_COUNT : Fld := { addr := 0xd000020, lsb := 0, width := 32, reset := 0x0, acc := .rc }
def SAMPLER_COUNT_SAT_COUNT : Fld := { addr := 0xd000024, lsb := 0, width := 32, reset := 0x0, acc := .rc }
def SAMPLER_RESULT_LATE_COUNT : Fld := { addr := 0xd000028, lsb := 0, width := 32, reset := 0x0, acc := .rc }
def SAMPLER_CLAMPS_COUNT : Fld := { addr := 0xd00002c, lsb := 0, width := 32, reset := 0x0, acc := .rc }
def SAMPLER_PROBE_SEL_BUCKET : Fld := { addr := 0xd000030, lsb := 16, width := 12, reset := 0x0, acc := .rw }
def SAMPLER_PROBE_SEL_CONTEXT : Fld := { addr := 0xd000030, lsb := 0, width := 16, reset := 0x0, acc := .rw }
def SAMPLER_PROBE_STATE_VALID : Fld := { addr := 0xd000034, lsb := 31, width := 1, reset := 0x0, acc := .ro, view := .samValid }
def SAMPLER_PROBE_STATE_STOP_ON_SWITCH : Fld := { addr := 0xd000034, lsb := 30, width := 1, reset := 0x0, acc := .ro, view := .samSwitch }
def SAMPLER_PROBE_STATE_DRAFT_MAX : Fld := { addr := 0xd000034, lsb := 27, width := 3, reset := 0x0, acc := .ro, view := .samDraft }
def SAMPLER_PROBE_STATE_NGRAM_M1 : Fld := { addr := 0xd000034, lsb := 25, width := 2, reset := 0x0, acc := .ro, view := .samNgram }
def SAMPLER_PROBE_STATE_TURN_GEN : Fld := { addr := 0xd000034, lsb := 0, width := 16, reset := 0x0, acc := .ro, view := .samTurnGen }
def SAMPLER_PROBE_COUNT_COUNT : Fld := { addr := 0xd000038, lsb := 0, width := 16, reset := 0x0, acc := .ro, view := .samCount }
def SAMPLER_PROBE_EMITTED_EMITTED : Fld := { addr := 0xd00003c, lsb := 0, width := 32, reset := 0x0, acc := .ro, view := .samEmitted }
def LOAD_STATE_DEGRADED : Fld := { addr := 0xf000000, lsb := 19, width := 1, reset := 0x0, acc := .ro }
def LOAD_STATE_DUAL_LAYOUT : Fld := { addr := 0xf000000, lsb := 16, width := 1, reset := 0x0, acc := .ro }
def LOAD_STATE_MODE : Fld := { addr := 0xf000000, lsb := 8, width := 2, reset := 0x0, acc := .ro }
def LOAD_STATE_STATE : Fld := { addr := 0xf000000, lsb := 0, width := 3, reset := 0x0, acc := .ro }
def LOAD_OBJECT_GEN : Fld := { addr := 0xf000004, lsb := 0, width := 16, reset := 0x0, acc := .ro }
def LOAD_SHARDS_EXPECTED_COUNT : Fld := { addr := 0xf000008, lsb := 0, width := 32, reset := 0x0, acc := .ro }
def LOAD_SHARDS_RECEIVED_COUNT : Fld := { addr := 0xf00000c, lsb := 0, width := 32, reset := 0x0, acc := .ro }
def LOAD_MISSING_INDEX : Fld := { addr := 0xf000010, lsb := 0, width := 32, reset := 0x0, acc := .ro }
def LOAD_PROGRESS_ACTIVE : Fld := { addr := 0xf000014, lsb := 16, width := 16, reset := 0x0, acc := .ro, view := .loadActive }
def LOAD_PROGRESS_DONE : Fld := { addr := 0xf000014, lsb := 0, width := 16, reset := 0x0, acc := .ro }
def LOAD_STATUS_VALID : Fld := { addr := 0xf000018, lsb := 31, width := 1, reset := 0x0, acc := .ro }
def LOAD_STATUS_KIND : Fld := { addr := 0xf000018, lsb := 29, width := 2, reset := 0x0, acc := .ro }
def LOAD_STATUS_DIE : Fld := { addr := 0xf000018, lsb := 26, width := 3, reset := 0x0, acc := .ro }
def LOAD_STATUS_TILE : Fld := { addr := 0xf000018, lsb := 20, width := 6, reset := 0x0, acc := .ro }
def LOAD_STATUS_CODE : Fld := { addr := 0xf000018, lsb := 0, width := 8, reset := 0x0, acc := .ro }
def LOAD_DETAIL_SECTION : Fld := { addr := 0xf00001c, lsb := 16, width := 16, reset := 0x0, acc := .ro }
def LOAD_DETAIL_ENTRY : Fld := { addr := 0xf00001c, lsb := 0, width := 16, reset := 0x0, acc := .ro }
def LOAD_CFG_TIMEOUT : Fld := { addr := 0xf000020, lsb := 0, width := 24, reset := 0x17d784, acc := .rw, lo := 1000, hi := 16777215 }
def LOAD_NAKS_COUNT : Fld := { addr := 0xf000024, lsb := 0, width := 32, reset := 0x0, acc := .rc }
def LOAD_FOREIGN_COUNT : Fld := { addr := 0xf000028, lsb := 0, width := 32, reset := 0x0, acc := .rc }
def LOAD_GEN_IDLE_GEN : Fld := { addr := 0xf00002c, lsb := 16, width := 16, reset := 0x0, acc := .ro }
def LOAD_GEN_ACTIVE_GEN : Fld := { addr := 0xf00002c, lsb := 0, width := 16, reset := 0x0, acc := .ro }
def LOAD_SKIPPED_ROWS_COUNT : Fld := { addr := 0xf000030, lsb := 0, width := 32, reset := 0x0, acc := .ro, wraps := true }
def LOAD_STUCK_TOTAL_COUNT : Fld := { addr := 0xf000034, lsb := 0, width := 32, reset := 0x0, acc := .ro }
def LOAD_WEAR_WORN : Fld := { addr := 0xf000038, lsb := 16, width := 16, reset := 0x0, acc := .ro, view := .wearWorn }
def LOAD_WEAR_WARN : Fld := { addr := 0xf000038, lsb := 0, width := 16, reset := 0x0, acc := .ro, view := .wearWarn }
def LOAD_WEAR_MAX_DIE : Fld := { addr := 0xf00003c, lsb := 29, width := 3, reset := 0x0, acc := .ro, view := .maxDie }
def LOAD_WEAR_MAX_BOARD : Fld := { addr := 0xf00003c, lsb := 16, width := 13, reset := 0x0, acc := .ro, view := .maxBoard }
def LOAD_WEAR_MAX_COUNT : Fld := { addr := 0xf00003c, lsb := 0, width := 16, reset := 0x0, acc := .ro, view := .maxCount }
def LOAD_FLIPS_INSOLE : Fld := { addr := 0xf000040, lsb := 16, width := 16, reset := 0x0, acc := .rc }
def LOAD_FLIPS_PATTERN : Fld := { addr := 0xf000040, lsb := 0, width := 16, reset := 0x0, acc := .rc }
def LOAD_INSOLE_READY : Fld := { addr := 0xf000044, lsb := 8, width := 5, reset := 0x0, acc := .ro }
def LOAD_INSOLE_LOADING : Fld := { addr := 0xf000044, lsb := 0, width := 5, reset := 0x0, acc := .ro }
def LOAD_CONST_SKIP_COUNT : Fld := { addr := 0xf000048, lsb := 0, width := 32, reset := 0x0, acc := .rc }
def LOAD_STUCK_SEL_TILE : Fld := { addr := 0xf00004c, lsb := 20, width := 6, reset := 0x0, acc := .rw, lo := 0, hi := 47 }
def LOAD_STUCK_SEL_INDEX : Fld := { addr := 0xf00004c, lsb := 0, width := 16, reset := 0x0, acc := .rw }
def LOAD_STUCK_RECORD : Fld := { addr := 0xf000050, lsb := 0, width := 64, reset := 0x0, acc := .ro, view := .stuckRecord }
def TRUE_IMAGE_BYTES : Fld := { addr := 0x10000000, lsb := 0, width := 32, reset := 0x0, acc := .rw, view := .trueImage }
def TRUE_BOARD_STATE_LAST_KIND : Fld := { addr := 0x10000200, lsb := 28, width := 2, reset := 0x0, acc := .ro }
def TRUE_BOARD_STATE_LAST_RESULT : Fld := { addr := 0x10000200, lsb := 24, width := 2, reset := 0x0, acc := .ro }
def TRUE_BOARD_STATE_FAIL_CAUSE : Fld := { addr := 0x10000200, lsb := 16, width := 2, reset := 0x0, acc := .ro }
def TRUE_BOARD_STATE_OVERDUE : Fld := { addr := 0x10000200, lsb := 3, width := 1, reset := 0x0, acc := .ro }
def TRUE_BOARD_STATE_DRIFT_SAT : Fld := { addr := 0x10000200, lsb := 2, width := 1, reset := 0x0, acc := .ro }
def TRUE_BOARD_STATE_RESTORED : Fld := { addr := 0x10000200, lsb := 1, width := 1, reset := 0x0, acc := .ro }
def TRUE_BOARD_STATE_DUE : Fld := { addr := 0x10000200, lsb := 0, width := 1, reset := 0x0, acc := .ro }
def TRUE_BOARD_DRIFTS_COUNT : Fld := { addr := 0x10000204, lsb := 0, width := 32, reset := 0x0, acc := .rc }
def TRUE_SCRUB_FOUND_COUNT : Fld := { addr := 0x10000208, lsb := 0, width := 32, reset := 0x0, acc := .rc }
def TRUE_READBACK_ACTIVE : Fld := { addr := 0x1000020c, lsb := 31, width := 1, reset := 0x0, acc := .ro }
def TRUE_READBACK_ROW : Fld := { addr := 0x1000020c, lsb := 0, width := 10, reset := 0x0, acc := .ro }
def TRUE_DRIFT_TAPS : Fld := { addr := 0x10000300, lsb := 0, width := 32, reset := 0x0, acc := .ro }
def TRUE_CFG_TEMP_DUE : Fld := { addr := 0x10f00000, lsb := 8, width := 8, reset := 0xa, acc := .rw, lo := 2, hi := 40 }
def TRUE_CFG_PASS_MARGIN : Fld := { addr := 0x10f00000, lsb := 0, width := 8, reset := 0x13, acc := .rw, lo := 8, hi := 32 }
def TRUE_STATUS_ACTIVE : Fld := { addr := 0x10f00004, lsb := 16, width := 13, reset := 0x0, acc := .ro, view := .truingActive }
def TRUE_STATUS_DUE : Fld := { addr := 0x10f00004, lsb := 0, width := 13, reset := 0x0, acc := .ro, view := .truingDue }
def TRUE_RUNS_COUNT : Fld := { addr := 0x10f00008, lsb := 0, width := 32, reset := 0x0, acc := .ro }
def TRUE_FAILS_COUNT : Fld := { addr := 0x10f0000c, lsb := 0, width := 32, reset := 0x0, acc := .rc }
def TRUE_CUT_COUNT : Fld := { addr := 0x10f00010, lsb := 0, width := 32, reset := 0x0, acc := .rc }
def TRUE_OVERDUE_COUNT : Fld := { addr := 0x10f00014, lsb := 0, width := 32, reset := 0x0, acc := .rc }
def TRUE_DRIFT_SAT_COUNT : Fld := { addr := 0x10f00018, lsb := 0, width := 32, reset := 0x0, acc := .rc }
def TRUE_RESTORE_FAIL_COUNT : Fld := { addr := 0x10f0001c, lsb := 0, width := 32, reset := 0x0, acc := .rc }
def TRUE_OLDEST_AGE_BEATS : Fld := { addr := 0x10f00020, lsb := 0, width := 32, reset := 0x0, acc := .ro, view := .oldestAge }
def TRUE_OLDEST_BOARD_VALID : Fld := { addr := 0x10f00024, lsb := 31, width := 1, reset := 0x0, acc := .ro, view := .oldestValid }
def TRUE_OLDEST_BOARD_BOARD : Fld := { addr := 0x10f00024, lsb := 0, width := 13, reset := 0x0, acc := .ro, view := .oldestBoard }
def MON_CTRL_REF_SEL : Fld := { addr := 0x11000000, lsb := 2, width := 2, reset := 0x0, acc := .rw, lo := 0, hi := 2 }
def MON_CTRL_MODE : Fld := { addr := 0x11000000, lsb := 0, width := 1, reset := 0x0, acc := .rw }
def MON_STATUS_REF_FALLBACK : Fld := { addr := 0x11000004, lsb := 7, width := 1, reset := 0x0, acc := .ro }
def MON_STATUS_REF_SETTLED : Fld := { addr := 0x11000004, lsb := 6, width := 1, reset := 0x0, acc := .ro }
def MON_STATUS_OVERRUN : Fld := { addr := 0x11000004, lsb := 5, width := 1, reset := 0x0, acc := .w1c }
def MON_STATUS_SCAN_POS : Fld := { addr := 0x11000004, lsb := 0, width := 5, reset := 0x0, acc := .ro }
def MON_SCAN_MASK : Fld := { addr := 0x11000008, lsb := 0, width := 32, reset := 0xffffffff, acc := .rw }
def MON_DATA_VALID : Fld := { addr := 0x1100000c, lsb := 31, width := 1, reset := 0x0, acc := .rc }
def MON_DATA_SETTLED : Fld := { addr := 0x1100000c, lsb := 30, width := 1, reset := 0x0, acc := .rc }
def MON_DATA_OVR : Fld := { addr := 0x1100000c, lsb := 29, width := 1, reset := 0x0, acc := .rc }
def MON_DATA_CHANNEL : Fld := { addr := 0x1100000c, lsb := 16, width := 5, reset := 0x0, acc := .rc }
def MON_DATA_VALUE : Fld := { addr := 0x1100000c, lsb := 0, width := 16, reset := 0x0, acc := .rc }
def MON_OVR_OVR : Fld := { addr := 0x11000010, lsb := 0, width := 32, reset := 0x0, acc := .w1c }
def MON_UNDR_UNDR : Fld := { addr := 0x11000014, lsb := 0, width := 32, reset := 0x0, acc := .w1c }
def MON_SUSPECT_COUNT : Fld := { addr := 0x11000018, lsb := 0, width := 32, reset := 0x0, acc := .rc }
def MON_RING_WR_INDEX : Fld := { addr := 0x1100001c, lsb := 0, width := 14, reset := 0x0, acc := .ro }
def MON_RING_RD_INDEX : Fld := { addr := 0x11000020, lsb := 0, width := 14, reset := 0x0, acc := .rw }
def MON_RING_LOST_COUNT : Fld := { addr := 0x11000024, lsb := 0, width := 32, reset := 0x0, acc := .rc }
def MON_LASER_MAX : Fld := { addr := 0x11000028, lsb := 16, width := 12, reset := 0x640, acc := .rw }
def MON_LASER_MIN : Fld := { addr := 0x11000028, lsb := 0, width := 12, reset := 0x190, acc := .rw, lo := 64, hi := 3840 }
def MON_LASER_STATUS_HIGH_SEEN : Fld := { addr := 0x1100002c, lsb := 2, width := 1, reset := 0x0, acc := .w1c }
def MON_LASER_STATUS_HIGH : Fld := { addr := 0x1100002c, lsb := 1, width := 1, reset := 0x0, acc := .ro }
def MON_LASER_STATUS_LOW : Fld := { addr := 0x1100002c, lsb := 0, width := 1, reset := 0x0, acc := .ro }
def MON_RESULTS_COUNT : Fld := { addr := 0x11000030, lsb := 0, width := 32, reset := 0x0, acc := .ro, wraps := true }
def MON_FILT_ORDER_M1 : Fld := { addr := 0x11000040, lsb := 16, width := 2, reset := 0x1, acc := .rw }
def MON_FILT_DECIM_M1 : Fld := { addr := 0x11000040, lsb := 0, width := 10, reset := 0x1f, acc := .rw }
def MON_LAST_VALID : Fld := { addr := 0x110000c0, lsb := 31, width := 1, reset := 0x0, acc := .ro }
def MON_LAST_SETTLED : Fld := { addr := 0x110000c0, lsb := 17, width := 1, reset := 0x0, acc := .ro }
def MON_LAST_OVR : Fld := { addr := 0x110000c0, lsb := 16, width := 1, reset := 0x0, acc := .ro }
def MON_LAST_VALUE : Fld := { addr := 0x110000c0, lsb := 0, width := 16, reset := 0x0, acc := .ro }
def MON_RING_ENTRY : Fld := { addr := 0x11010000, lsb := 0, width := 32, reset := 0x0, acc := .ro }
def FAULT_STATUS_HOLD_CAUSE : Fld := { addr := 0x12000000, lsb := 16, width := 8, reset := 0x0, acc := .ro }
def FAULT_STATUS_REPLAY : Fld := { addr := 0x12000000, lsb := 4, width := 4, reset := 0x0, acc := .ro }
def FAULT_STATUS_SETTLING : Fld := { addr := 0x12000000, lsb := 2, width := 1, reset := 0x0, acc := .ro }
def FAULT_STATUS_REPLAYING : Fld := { addr := 0x12000000, lsb := 1, width := 1, reset := 0x0, acc := .ro }
def FAULT_STATUS_HOLD : Fld := { addr := 0x12000000, lsb := 0, width := 1, reset := 0x0, acc := .ro }
def FAULT_CFG_PROBE_BEATS : Fld := { addr := 0x12000004, lsb := 16, width := 16, reset := 0x100, acc := .rw, lo := 16, hi := 65535 }
def FAULT_CFG_UNCOVERED_MAX : Fld := { addr := 0x12000004, lsb := 8, width := 8, reset := 0x10, acc := .rw, lo := 1, hi := 255 }
def FAULT_CFG_MAX_REPLAYS : Fld := { addr := 0x12000004, lsb := 0, width := 4, reset := 0x3, acc := .rw, lo := 1, hi := 7 }
def FAULT_GAP_READMIT_GAP : Fld := { addr := 0x12000008, lsb := 16, width := 16, reset := 0x140, acc := .rw, lo := 256, hi := 4096 }
def FAULT_GAP_REPLAY_GAP : Fld := { addr := 0x12000008, lsb := 0, width := 16, reset := 0x20, acc := .rw, lo := 16, hi := 1024 }
def FAULT_RESUME_MS : Fld := { addr := 0x1200000c, lsb := 0, width := 32, reset := 0x7530, acc := .rw, lo := 100, hi := 3600000 }
def FAULT_REPLICA_VALID : Fld := { addr := 0x12000010, lsb := 31, width := 1, reset := 0x0, acc := .ro }
def FAULT_REPLICA_NODE : Fld := { addr := 0x12000010, lsb := 0, width := 12, reset := 0x0, acc := .ro }
def FAULT_SHARE_CRC_CRC : Fld := { addr := 0x12000014, lsb := 0, width := 32, reset := 0x0, acc := .ro }
def FAULT_ORDER_ACTION : Fld := { addr := 0x12000018, lsb := 30, width := 2, reset := 0x0, acc := .wo }
def FAULT_ORDER_CLASS : Fld := { addr := 0x12000018, lsb := 27, width := 3, reset := 0x0, acc := .wo }
def FAULT_ORDER_DIE : Fld := { addr := 0x12000018, lsb := 24, width := 3, reset := 0x0, acc := .wo }
def FAULT_ORDER_INDEX : Fld := { addr := 0x12000018, lsb := 0, width := 13, reset := 0x0, acc := .wo }
def FAULT_DETECTED_COUNT : Fld := { addr := 0x1200001c, lsb := 0, width := 32, reset := 0x0, acc := .rc }
def FAULT_ABSORBED_COUNT : Fld := { addr := 0x12000020, lsb := 0, width := 32, reset := 0x0, acc := .rc }
def FAULT_REPLAYS_COUNT : Fld := { addr := 0x12000024, lsb := 0, width := 32, reset := 0x0, acc := .rc }
def FAULT_SETTLED_COUNT : Fld := { addr := 0x12000028, lsb := 0, width := 32, reset := 0x0, acc := .rc }
def FAULT_REPLICA_SENT_COUNT : Fld := { addr := 0x1200002c, lsb := 0, width := 32, reset := 0x0, acc := .rc }
def FAULT_REPLICA_SERVED_COUNT : Fld := { addr := 0x12000030, lsb := 0, width := 32, reset := 0x0, acc := .rc }
def FAULT_REPLICA_REFUSED_OUT : Fld := { addr := 0x12000034, lsb := 16, width := 16, reset := 0x0, acc := .rc }
def FAULT_REPLICA_REFUSED_IN : Fld := { addr := 0x12000034, lsb := 0, width := 16, reset := 0x0, acc := .rc }
def FAULT_RESUMES_EXPIRED : Fld := { addr := 0x12000038, lsb := 16, width := 16, reset := 0x0, acc := .rc }
def FAULT_RESUMES_RESUMED : Fld := { addr := 0x12000038, lsb := 0, width := 16, reset := 0x0, acc := .rc }
def FAULT_UNCOVERED_RUN_STEPS : Fld := { addr := 0x1200003c, lsb := 0, width := 8, reset := 0x0, acc := .ro }
def FAULT_LAST_ENTRY : Fld := { addr := 0x12000040, lsb := 0, width := 64, reset := 0x0, acc := .ro }
def FAULT_CLAMP_COUNT : Fld := { addr := 0x12000048, lsb := 0, width := 32, reset := 0x0, acc := .rc }
def FAULT_CLAMP_SRC_VALID : Fld := { addr := 0x12000060, lsb := 31, width := 1, reset := 0x0, acc := .ro }
def FAULT_CLAMP_SRC_SESSION : Fld := { addr := 0x12000060, lsb := 16, width := 12, reset := 0x0, acc := .ro }
def FAULT_CLAMP_SRC_SOURCE : Fld := { addr := 0x12000060, lsb := 0, width := 3, reset := 0x0, acc := .ro }
def FAULT_CLAMP_ADDR_WHERE : Fld := { addr := 0x12000064, lsb := 0, width := 32, reset := 0x0, acc := .ro }
def FAULT_ORDER_CONFLICTS_COUNT : Fld := { addr := 0x12000068, lsb := 0, width := 32, reset := 0x0, acc := .rc }
def FAULT_HOLDS_COUNT : Fld := { addr := 0x1200006c, lsb := 0, width := 32, reset := 0x0, acc := .rc }
def FAULT_QUEUE_STATUS_OVERFLOWS : Fld := { addr := 0x12000100, lsb := 16, width := 16, reset := 0x0, acc := .rc }
def FAULT_QUEUE_STATUS_FILL : Fld := { addr := 0x12000100, lsb := 0, width := 5, reset := 0x0, acc := .ro, view := .queueFill }
def FAULT_TILES_LO_TILES : Fld := { addr := 0x12000104, lsb := 0, width := 32, reset := 0x0, acc := .ro, view := .tilesOut true false }
def FAULT_HELD_LO_TILES : Fld := { addr := 0x1200010c, lsb := 0, width := 32, reset := 0x0, acc := .ro, view := .tilesOut true true }
def FAULT_TILES_HI_DIE : Fld := { addr := 0x12000108, lsb := 18, width := 1, reset := 0x0, acc := .ro, view := .dieOut false }
def FAULT_TILES_HI_HALVES : Fld := { addr := 0x12000108, lsb := 16, width := 2, reset := 0x0, acc := .ro, view := .halvesOut false }
def FAULT_TILES_HI_TILES : Fld := { addr := 0x12000108, lsb := 0, width := 16, reset := 0x0, acc := .ro, view := .tilesOut false false }
def FAULT_HELD_HI_DIE : Fld := { addr := 0x12000110, lsb := 18, width := 1, reset := 0x0, acc := .ro, view := .dieOut true }
def FAULT_HELD_HI_HALVES : Fld := { addr := 0x12000110, lsb := 16, width := 2, reset := 0x0, acc := .ro, view := .halvesOut true }
def FAULT_HELD_HI_TILES : Fld := { addr := 0x12000110, lsb := 0, width := 16, reset := 0x0, acc := .ro, view := .tilesOut false true }
def FAULT_BOARDS_HELD : Fld := { addr := 0x12000114, lsb := 16, width := 13, reset := 0x0, acc := .ro, view := .boardsIn true }
def FAULT_BOARDS_SHELVED : Fld := { addr := 0x12000114, lsb := 0, width := 13, reset := 0x0, acc := .ro, view := .boardsIn false }
def FAULT_QUEUE_VALID : Fld := { addr := 0x12000120, lsb := 63, width := 1, reset := 0x0, acc := .ro, view := .queueValid }
def FAULT_QUEUE_CLASS : Fld := { addr := 0x12000120, lsb := 60, width := 3, reset := 0x0, acc := .ro, view := .queueClass }
def FAULT_QUEUE_REPLAY : Fld := { addr := 0x12000120, lsb := 56, width := 4, reset := 0x0, acc := .ro, view := .queueReplay }
def FAULT_QUEUE_CAUSE : Fld := { addr := 0x12000120, lsb := 48, width := 8, reset := 0x0, acc := .ro, view := .queueCause }
def FAULT_QUEUE_INDEX : Fld := { addr := 0x12000120, lsb := 35, width := 13, reset := 0x0, acc := .ro, view := .queueIndex }
def FAULT_QUEUE_STEP : Fld := { addr := 0x12000120, lsb := 0, width := 32, reset := 0x0, acc := .ro, view := .queueStep }
def FAULT_CAUSE_COUNT : Fld := { addr := 0x12000400, lsb := 0, width := 32, reset := 0x0, acc := .rc }
def SEC_LC_DEBUG_READY : Fld := { addr := 0x13000000, lsb := 11, width := 1, reset := 0x0, acc := .ro }
def SEC_LC_REVOKED : Fld := { addr := 0x13000000, lsb := 8, width := 2, reset := 0x0, acc := .ro }
def SEC_LC_OWNERS : Fld := { addr := 0x13000000, lsb := 6, width := 2, reset := 0x0, acc := .ro }
def SEC_LC_FUSED : Fld := { addr := 0x13000000, lsb := 3, width := 3, reset := 0x0, acc := .ro }
def SEC_LC_STATE : Fld := { addr := 0x13000000, lsb := 0, width := 3, reset := 0x0, acc := .ro }
def SEC_UID_UID : Fld := { addr := 0x13000004, lsb := 0, width := 64, reset := 0x0, acc := .ro }
def SEC_CHALLENGE_CYCLES : Fld := { addr := 0x1300000c, lsb := 32, width := 32, reset := 0x0, acc := .ro }
def SEC_CHALLENGE_ATTEMPTS : Fld := { addr := 0x1300000c, lsb := 0, width := 32, reset := 0x0, acc := .ro }
def SEC_LC_CMD_CMD : Fld := { addr := 0x13000014, lsb := 0, width := 2, reset := 0x0, acc := .wo }
def SEC_LC_STATUS_VALID : Fld := { addr := 0x13000018, lsb := 31, width := 1, reset := 0x0, acc := .ro }
def SEC_LC_STATUS_BUSY : Fld := { addr := 0x13000018, lsb := 30, width := 1, reset := 0x0, acc := .ro }
def SEC_LC_STATUS_COMMAND : Fld := { addr := 0x13000018, lsb := 16, width := 8, reset := 0x0, acc := .ro }
def SEC_LC_STATUS_RESULT : Fld := { addr := 0x13000018, lsb := 0, width := 8, reset := 0x0, acc := .ro }
def SEC_BOOT_VALID : Fld := { addr := 0x1300001c, lsb := 31, width := 1, reset := 0x0, acc := .ro }
def SEC_BOOT_OWNER : Fld := { addr := 0x1300001c, lsb := 0, width := 1, reset := 0x0, acc := .ro }
def SEC_KEY_SEL_KIND : Fld := { addr := 0x13000020, lsb := 24, width := 4, reset := 0x1, acc := .rw, lo := 1, hi := 8 }
def SEC_KEY_SEL_SLOT : Fld := { addr := 0x13000020, lsb := 0, width := 11, reset := 0x0, acc := .rw }
def SEC_KEY_CMD_CMD : Fld := { addr := 0x13000024, lsb := 0, width := 2, reset := 0x0, acc := .wo }
def SEC_KEY_STATUS_VALID : Fld := { addr := 0x13000028, lsb := 31, width := 1, reset := 0x0, acc := .ro }
def SEC_KEY_STATUS_BUSY : Fld := { addr := 0x13000028, lsb := 30, width := 1, reset := 0x0, acc := .ro }
def SEC_KEY_STATUS_PRESENT : Fld := { addr := 0x13000028, lsb := 16, width := 1, reset := 0x0, acc := .ro, view := .keyPresent }
def SEC_KEY_STATUS_RESULT : Fld := { addr := 0x13000028, lsb := 0, width := 8, reset := 0x0, acc := .ro }
def SEC_KEY_REFUSED_COUNT : Fld := { addr := 0x1300002c, lsb := 0, width := 32, reset := 0x0, acc := .rc }
def SEC_KEY_COUNT_MAC : Fld := { addr := 0x13000030, lsb := 16, width := 11, reset := 0x0, acc := .ro, view := .keysMac }
def SEC_KEY_COUNT_DATA : Fld := { addr := 0x13000030, lsb := 0, width := 11, reset := 0x0, acc := .ro, view := .keysData }
def SEC_ZEROISE_ACTIVE : Fld := { addr := 0x13000034, lsb := 31, width := 1, reset := 0x0, acc := .ro }
def SEC_ZEROISE_ELAPSED_US : Fld := { addr := 0x13000034, lsb := 0, width := 16, reset := 0x0, acc := .ro }
def SEC_KEY_DATA_BYTES : Fld := { addr := 0x13000040, lsb := 0, width := 32, reset := 0x0, acc := .wo }
def SEC_TOKEN_BYTES : Fld := { addr := 0x13000100, lsb := 0, width := 32, reset := 0x0, acc := .wo }
def SEC_PROV_BYTES : Fld := { addr := 0x13000200, lsb := 0, width := 32, reset := 0x0, acc := .wo }
def EVR_STATUS_DROP_SEEN : Fld := { addr := 0x14000000, lsb := 4, width := 1, reset := 0x0, acc := .w1c }
def EVR_STATUS_WEAR_WARN : Fld := { addr := 0x14000000, lsb := 3, width := 1, reset := 0x0, acc := .ro }
def EVR_STATUS_SCAN_DONE : Fld := { addr := 0x14000000, lsb := 2, width := 1, reset := 0x0, acc := .ro }
def EVR_STATUS_PFAIL_MODE : Fld := { addr := 0x14000000, lsb := 1, width := 1, reset := 0x0, acc := .ro }
def EVR_STATUS_FLUSHING : Fld := { addr := 0x14000000, lsb := 0, width := 1, reset := 0x0, acc := .ro }
def EVR_CTRL_SEVERITY : Fld := { addr := 0x14000004, lsb := 4, width := 2, reset := 0x0, acc := .wo }
def EVR_CTRL_TRIGGER : Fld := { addr := 0x14000004, lsb := 1, width := 1, reset := 0x0, acc := .wo }
def EVR_CTRL_FLUSH : Fld := { addr := 0x14000004, lsb := 0, width := 1, reset := 0x0, acc := .wo }
def EVR_SEQ_NEXT : Fld := { addr := 0x14000008, lsb := 0, width := 32, reset := 0x0, acc := .ro }
def EVR_BUF_UNFLUSHED : Fld := { addr := 0x1400000c, lsb := 16, width := 11, reset := 0x0, acc := .ro, view := .evrUnflushed }
def EVR_BUF_FILL : Fld := { addr := 0x1400000c, lsb := 0, width := 11, reset := 0x0, acc := .ro, view := .evrFill }
def EVR_LOG_RETIRED : Fld := { addr := 0x14000010, lsb := 16, width := 14, reset := 0x0, acc := .ro, view := .evrRetired }
def EVR_LOG_USED : Fld := { addr := 0x14000010, lsb := 0, width := 14, reset := 0x0, acc := .ro, view := .evrUsed }
def EVR_DROPPED_COUNT : Fld := { addr := 0x14000014, lsb := 0, width := 32, reset := 0x0, acc := .rc }
def EVR_BUF_LOST_COUNT : Fld := { addr := 0x14000018, lsb := 0, width := 32, reset := 0x0, acc := .rc }
def EVR_TRIG_LOST_COUNT : Fld := { addr := 0x1400001c, lsb := 0, width := 32, reset := 0x0, acc := .rc }
def EVR_FLUSHES_PFAIL : Fld := { addr := 0x14000020, lsb := 16, width := 16, reset := 0x0, acc := .ro, wraps := true }
def EVR_FLUSHES_ALL : Fld := { addr := 0x14000020, lsb := 0, width := 16, reset := 0x0, acc := .ro, wraps := true }
def EVR_LAST_FLUSH_RECORDS : Fld := { addr := 0x14000024, lsb := 16, width := 16, reset := 0x0, acc := .ro }
def EVR_LAST_FLUSH_US : Fld := { addr := 0x14000024, lsb := 0, width := 16, reset := 0x0, acc := .ro }
def EVR_TORN_COUNT : Fld := { addr := 0x14000028, lsb := 0, width := 14, reset := 0x0, acc := .ro }
def EVR_WEAR_WARN : Fld := { addr := 0x1400002c, lsb := 16, width := 16, reset := 0x0, acc := .ro, view := .evrWarn }
def EVR_WEAR_MAX : Fld := { addr := 0x1400002c, lsb := 0, width := 16, reset := 0x0, acc := .ro, view := .evrMax }
def EVR_CURSOR_SRC : Fld := { addr := 0x14000030, lsb := 31, width := 1, reset := 0x0, acc := .rw }
def EVR_CURSOR_AUTO : Fld := { addr := 0x14000030, lsb := 30, width := 1, reset := 0x0, acc := .rw }
def EVR_CURSOR_SLOT : Fld := { addr := 0x14000030, lsb := 0, width := 13, reset := 0x0, acc := .rw }
def EVR_SEEK_SEQ : Fld := { addr := 0x14000034, lsb := 0, width := 32, reset := 0x0, acc := .wo }
def EVR_WINDOW_STATUS_SEEK_BUSY : Fld := { addr := 0x14000038, lsb := 31, width := 1, reset := 0x0, acc := .ro }
def EVR_WINDOW_STATUS_FOUND : Fld := { addr := 0x14000038, lsb := 30, width := 1, reset := 0x0, acc := .ro }
def EVR_WINDOW_STATUS_UNCORR : Fld := { addr := 0x14000038, lsb := 29, width := 1, reset := 0x0, acc := .ro }
def EVR_WINDOW_STATUS_RETIRED : Fld := { addr := 0x14000038, lsb := 28, width := 1, reset := 0x0, acc := .ro, view := .evrSlotRetired }
def EVR_WINDOW_STATUS_WRITES : Fld := { addr := 0x14000038, lsb := 0, width := 15, reset := 0x0, acc := .ro, view := .evrSlotWrites }
def EVR_MANUAL_VALUE : Fld := { addr := 0x1400003c, lsb := 0, width := 32, reset := 0x0, acc := .rw }
def EVR_CLASS_ENABLE : Fld := { addr := 0x14000040, lsb := 31, width := 1, reset := 0x1, acc := .rw }
def EVR_CLASS_SEVERITY : Fld := { addr := 0x14000040, lsb := 8, width := 2, reset := 0x0, acc := .ro, view := .evrSeverity }
def EVR_CLASS_COUNT : Fld := { addr := 0x14000040, lsb := 0, width := 5, reset := 0x0, acc := .rw, lo := 0, hi := 16 }
def EVR_LIST_ADDRESS : Fld := { addr := 0x14000100, lsb := 2, width := 27, reset := 0x0, acc := .rw }
def EVR_LIST_WIDE : Fld := { addr := 0x14000100, lsb := 0, width := 1, reset := 0x0, acc := .rw }
def EVR_WINDOW_BYTES : Fld := { addr := 0x14000800, lsb := 0, width := 32, reset := 0x0, acc := .ro, view := .evrWindow }
def PWR_STATUS_P_LEVEL : Fld := { addr := 0x15000000, lsb := 8, width := 4, reset := 0x0, acc := .ro }
def PWR_STATUS_PFAIL : Fld := { addr := 0x15000000, lsb := 3, width := 1, reset := 0x0, acc := .ro }
def PWR_STATUS_CAP_ACTIVE : Fld := { addr := 0x15000000, lsb := 2, width := 1, reset := 0x0, acc := .ro }
def PWR_STATUS_ALERT : Fld := { addr := 0x15000000, lsb := 1, width := 1, reset := 0x0, acc := .ro }
def PWR_STATUS_THERMTRIP : Fld := { addr := 0x15000000, lsb := 0, width := 1, reset := 0x0, acc := .ro }
def PWR_CAP_HYST_W : Fld := { addr := 0x15000004, lsb := 16, width := 10, reset := 0x32, acc := .rw, lo := 10, hi := 1000 }
def PWR_CAP_CAP_W : Fld := { addr := 0x15000004, lsb := 0, width := 16, reset := 0xfa0, acc := .rw, lo := 2000, hi := 4000 }
def PWR_POWER_PROG_W : Fld := { addr := 0x15000008, lsb := 16, width := 16, reset := 0x0, acc := .ro }
def PWR_POWER_P_W : Fld := { addr := 0x15000008, lsb := 0, width := 16, reset := 0x0, acc := .ro }
def PWR_FIXED_FIXED_W : Fld := { addr := 0x1500000c, lsb := 0, width := 11, reset := 0x1ae, acc := .rw, lo := 0, hi := 1500 }
def PWR_THERM_TRIP_C : Fld := { addr := 0x15000010, lsb := 24, width := 8, reset := 0x73, acc := .ro }
def PWR_THERM_HYST_C : Fld := { addr := 0x15000010, lsb := 16, width := 4, reset := 0x3, acc := .rw, lo := 1, hi := 10 }
def PWR_THERM_THROTTLE_C : Fld := { addr := 0x15000010, lsb := 8, width := 8, reset := 0x67, acc := .rw }
def PWR_THERM_ALERT_C : Fld := { addr := 0x15000010, lsb := 0, width := 8, reset := 0x64, acc := .rw, lo := 85, hi := 105 }
def PWR_CAP_MS_COUNT : Fld := { addr := 0x15000014, lsb := 0, width := 32, reset := 0x0, acc := .rc }
def PWR_TRIPS_COUNT : Fld := { addr := 0x15000018, lsb := 0, width := 32, reset := 0x0, acc := .rc }
def PWR_ALERTS_COUNT : Fld := { addr := 0x1500001c, lsb := 0, width := 32, reset := 0x0, acc := .rc }
def PWR_PFAIL_COUNT : Fld := { addr := 0x15000020, lsb := 16, width := 16, reset := 0x0, acc := .rc }
def PWR_PFAIL_ASSERTED : Fld := { addr := 0x15000020, lsb := 0, width := 1, reset := 0x0, acc := .w1c }
def PWR_HOTTEST_HALF : Fld := { addr := 0x15000024, lsb := 24, width := 4, reset := 0x0, acc := .ro, view := .hotHalf }
def PWR_HOTTEST_CHANNEL : Fld := { addr := 0x15000024, lsb := 16, width := 5, reset := 0x0, acc := .ro, view := .hotChannel }
def PWR_HOTTEST_VALUE : Fld := { addr := 0x15000024, lsb := 0, width := 16, reset := 0x0, acc := .ro, view := .hotValue }
def PWR_H_STATE_LEVEL : Fld := { addr := 0x15000100, lsb := 12, width := 4, reset := 0x0, acc := .ro, view := .level }
def PWR_H_STATE_T_LEVEL : Fld := { addr := 0x15000100, lsb := 8, width := 4, reset := 0x0, acc := .ro }
def PWR_H_STATE_VSET_PENDING : Fld := { addr := 0x15000100, lsb := 3, width := 1, reset := 0x0, acc := .ro }
def PWR_H_STATE_SUPPLY_FAIL : Fld := { addr := 0x15000100, lsb := 2, width := 1, reset := 0x0, acc := .ro }
def PWR_H_STATE_ALERT : Fld := { addr := 0x15000100, lsb := 1, width := 1, reset := 0x0, acc := .ro }
def PWR_H_STATE_TRIPPED : Fld := { addr := 0x15000100, lsb := 0, width := 1, reset := 0x0, acc := .ro }
def PWR_H_VOLT_SET : Fld := { addr := 0x15000104, lsb := 24, width := 8, reset := 0x0, acc := .ro }
def PWR_H_VOLT_GEAR2 : Fld := { addr := 0x15000104, lsb := 16, width := 8, reset := 0x1e, acc := .ro }
def PWR_H_VOLT_GEAR1 : Fld := { addr := 0x15000104, lsb := 8, width := 8, reset := 0x2c, acc := .ro }
def PWR_H_VOLT_GEAR0 : Fld := { addr := 0x15000104, lsb := 0, width := 8, reset := 0x3c, acc := .ro }
def PWR_H_TEMP_CHANNEL : Fld := { addr := 0x15000108, lsb := 16, width := 5, reset := 0x0, acc := .ro, view := .halfHotChannel }
def PWR_H_TEMP_VALUE : Fld := { addr := 0x15000108, lsb := 0, width := 16, reset := 0x0, acc := .ro, view := .halfHotValue }
def PWR_H_THROTTLE_MS_COUNT : Fld := { addr := 0x1500010c, lsb := 0, width := 32, reset := 0x0, acc := .rc }
def PWR_H_SUPPLY_COUNT : Fld := { addr := 0x15000110, lsb := 0, width := 32, reset := 0x0, acc := .rc }
def PWR_D_RAILS_PROG_BOARDS : Fld := { addr := 0x15000300, lsb := 16, width := 11, reset := 0x0, acc := .ro, view := .progBoards }
def PWR_D_RAILS_VDDA_MON : Fld := { addr := 0x15000300, lsb := 5, width := 1, reset := 0x0, acc := .w1c }
def PWR_D_RAILS_VOPT : Fld := { addr := 0x15000300, lsb := 4, width := 1, reset := 0x0, acc := .w1c }
def PWR_D_RAILS_VHBM : Fld := { addr := 0x15000300, lsb := 3, width := 1, reset := 0x0, acc := .w1c }
def PWR_D_RAILS_VSRAM : Fld := { addr := 0x15000300, lsb := 2, width := 1, reset := 0x0, acc := .w1c }
def PWR_D_RAILS_VPROG : Fld := { addr := 0x15000300, lsb := 1, width := 1, reset := 0x0, acc := .w1c }
def PWR_D_RAILS_VARR : Fld := { addr := 0x15000300, lsb := 0, width := 1, reset := 0x0, acc := .w1c }
def PWR_D_PROG_DEFER_COUNT : Fld := { addr := 0x15000304, lsb := 0, width := 32, reset := 0x0, acc := .rc }
def PKG_ID_PART : Fld := { addr := 0x0, lsb := 16, width := 16, reset := 0xc008, acc := .ro }
def PKG_ID_STEPPING : Fld := { addr := 0x0, lsb := 8, width := 8, reset := 0x0, acc := .ro }
def PKG_NODE_NODE : Fld := { addr := 0x4, lsb := 0, width := 12, reset := 0x0, acc := .rw }
def PKG_STRAPS_TEST_EN : Fld := { addr := 0x8, lsb := 4, width := 1, reset := 0x0, acc := .ro }
def PKG_STRAPS_BOOT_COPY : Fld := { addr := 0x8, lsb := 3, width := 1, reset := 0x0, acc := .ro }
def PKG_STRAPS_FLASH_MODE : Fld := { addr := 0x8, lsb := 1, width := 2, reset := 0x0, acc := .ro }
def PKG_STRAPS_MASTER_SEL : Fld := { addr := 0x8, lsb := 0, width := 1, reset := 0x0, acc := .ro }
def PKG_STAGE_TEST_HALT : Fld := { addr := 0xc, lsb := 31, width := 1, reset := 0x0, acc := .ro }
def PKG_STAGE_READY : Fld := { addr := 0xc, lsb := 30, width := 1, reset := 0x0, acc := .ro }
def PKG_STAGE_DONE : Fld := { addr := 0xc, lsb := 16, width := 11, reset := 0x0, acc := .ro }
def PKG_STAGE_CURRENT : Fld := { addr := 0xc, lsb := 0, width := 4, reset := 0x1, acc := .ro }
def PKG_BOOT_VALID : Fld := { addr := 0x10, lsb := 31, width := 1, reset := 0x0, acc := .ro }
def PKG_BOOT_COPY : Fld := { addr := 0x10, lsb := 24, width := 1, reset := 0x0, acc := .ro }
def PKG_BOOT_FIRST : Fld := { addr := 0x10, lsb := 16, width := 8, reset := 0x0, acc := .ro }
def PKG_BOOT_FINAL : Fld := { addr := 0x10, lsb := 0, width := 8, reset := 0x0, acc := .ro }
def PKG_BOOT_SERIAL_SERIAL : Fld := { addr := 0x14, lsb := 0, width := 32, reset := 0x0, acc := .ro }
def PKG_CAL_REFUSED : Fld := { addr := 0x18, lsb := 16, width := 16, reset := 0x0, acc := .ro }
def PKG_CAL_RESTORED : Fld := { addr := 0x18, lsb := 0, width := 16, reset := 0x0, acc := .ro }
def PKG_CAL_SAVE_BUSY : Fld := { addr := 0x1c, lsb := 31, width := 1, reset := 0x0, acc := .ro }
def PKG_CAL_SAVE_VALID : Fld := { addr := 0x1c, lsb := 30, width := 1, reset := 0x0, acc := .ro }
def PKG_CAL_SAVE_RESULT : Fld := { addr := 0x1c, lsb := 28, width := 2, reset := 0x0, acc := .ro }
def PKG_CAL_SAVE_SAVE : Fld := { addr := 0x1c, lsb := 0, width := 1, reset := 0x0, acc := .wo }
def PKG_CAL_SEQ_SEQ : Fld := { addr := 0x20, lsb := 0, width := 32, reset := 0x0, acc := .ro }
def PKG_OPSEC_SECONDS : Fld := { addr := 0x24, lsb := 0, width := 32, reset := 0x0, acc := .ro }
def MGMT_CFG_PEC_REQ : Fld := { addr := 0x16000000, lsb := 9, width := 1, reset := 0x0, acc := .rw }
def MGMT_CFG_STATIC_ADDR : Fld := { addr := 0x16000000, lsb := 0, width := 7, reset := 0x3a, acc := .rw, lo := 8, hi := 119 }
def MGMT_STATUS_DYN_VALID : Fld := { addr := 0x16000004, lsb := 31, width := 1, reset := 0x0, acc := .ro }
def MGMT_STATUS_DYN_ADDR : Fld := { addr := 0x16000004, lsb := 24, width := 7, reset := 0x0, acc := .ro }
def MGMT_STATUS_EID : Fld := { addr := 0x16000004, lsb := 16, width := 8, reset := 0x0, acc := .ro }
def MGMT_STATUS_TID : Fld := { addr := 0x16000004, lsb := 8, width := 8, reset := 0x0, acc := .ro }
def MGMT_STATUS_MCTP_IBI : Fld := { addr := 0x16000004, lsb := 2, width := 1, reset := 0x0, acc := .ro }
def MGMT_STATUS_IBI_EN : Fld := { addr := 0x16000004, lsb := 1, width := 1, reset := 0x0, acc := .ro }
def MGMT_STATUS_MODE : Fld := { addr := 0x16000004, lsb := 0, width := 1, reset := 0x0, acc := .ro }
def MGMT_ALERT_STATUS_CAUSES_HI : Fld := { addr := 0x16000008, lsb := 8, width := 4, reset := 0x0, acc := .ro, view := .alertsHi }
def MGMT_ALERT_STATUS_FAULT : Fld := { addr := 0x16000008, lsb := 7, width := 1, reset := 0x0, acc := .w1c }
def MGMT_ALERT_STATUS_CAUSES_LO : Fld := { addr := 0x16000008, lsb := 0, width := 7, reset := 0x0, acc := .ro, view := .alertsLo }
def MGMT_ALERT_EN_EN_HI : Fld := { addr := 0x1600000c, lsb := 5, width := 7, reset := 0x0, acc := .rw }
def MGMT_ALERT_EN_EN_FIXED : Fld := { addr := 0x1600000c, lsb := 0, width := 5, reset := 0x1f, acc := .ro }
def MGMT_FRAMES_COUNT : Fld := { addr := 0x16000010, lsb := 0, width := 32, reset := 0x0, acc := .ro, wraps := true }
def MGMT_FRAME_ERR_CRC : Fld := { addr := 0x16000014, lsb := 16, width := 16, reset := 0x0, acc := .rc }
def MGMT_FRAME_ERR_FORMAT : Fld := { addr := 0x16000014, lsb := 0, width := 16, reset := 0x0, acc := .rc }
def MGMT_OVERRUN_COUNT : Fld := { addr := 0x16000018, lsb := 0, width := 32, reset := 0x0, acc := .rc }
def MGMT_MCTP_DROPPED : Fld := { addr := 0x1600001c, lsb := 16, width := 16, reset := 0x0, acc := .rc }
def MGMT_MCTP_ANSWERED : Fld := { addr := 0x1600001c, lsb := 0, width := 16, reset := 0x0, acc := .ro, wraps := true }
def TEST_STATUS_INTSCAN_USED : Fld := { addr := 0x17000000, lsb := 16, width := 1, reset := 0x0, acc := .ro }
def TEST_STATUS_IR : Fld := { addr := 0x17000000, lsb := 8, width := 8, reset := 0x1, acc := .ro }
def TEST_STATUS_GRADE : Fld := { addr := 0x17000000, lsb := 0, width := 2, reset := 0x0, acc := .ro }
def TEST_CTRL_VSET_SCAN : Fld := { addr := 0x17000004, lsb := 0, width := 1, reset := 0x0, acc := .rw }
def TEST_TMUX_EN : Fld := { addr := 0x17000008, lsb := 31, width := 1, reset := 0x0, acc := .rw }
def TEST_TMUX_DIE : Fld := { addr := 0x17000008, lsb := 24, width := 3, reset := 0x0, acc := .rw }
def TEST_TMUX_TILE : Fld := { addr := 0x17000008, lsb := 16, width := 6, reset := 0x0, acc := .rw, lo := 0, hi := 47 }
def TEST_TMUX_GROUP : Fld := { addr := 0x17000008, lsb := 0, width := 8, reset := 0x0, acc := .rw }
def TEST_TANA_EN : Fld := { addr := 0x1700000c, lsb := 31, width := 1, reset := 0x0, acc := .rw }
def TEST_TANA_DIE : Fld := { addr := 0x1700000c, lsb := 28, width := 3, reset := 0x0, acc := .rw }
def TEST_TANA_SUB : Fld := { addr := 0x1700000c, lsb := 21, width := 7, reset := 0x0, acc := .rw }
def TEST_TANA_NODE : Fld := { addr := 0x1700000c, lsb := 13, width := 8, reset := 0x0, acc := .rw }
def TEST_TANA_BOARD : Fld := { addr := 0x1700000c, lsb := 0, width := 13, reset := 0x0, acc := .rw, lo := 0, hi := 6143 }
def TEST_STAGE_RUN : Fld := { addr := 0x17000010, lsb := 7, width := 5, reset := 0x0, acc := .wo }
def TEST_RAW_SEL_SRC : Fld := { addr := 0x17000014, lsb := 30, width := 2, reset := 0x0, acc := .rw, lo := 0, hi := 2 }
def TEST_RAW_SEL_ADDR : Fld := { addr := 0x17000014, lsb := 0, width := 30, reset := 0x0, acc := .rw }
def TEST_RAW_LOC_DIE : Fld := { addr := 0x17000018, lsb := 16, width := 3, reset := 0x0, acc := .rw }
def TEST_RAW_LOC_TILE : Fld := { addr := 0x17000018, lsb := 8, width := 6, reset := 0x0, acc := .rw, lo := 0, hi := 47 }
def TEST_RAW_LOC_ARRAY : Fld := { addr := 0x17000018, lsb := 0, width := 3, reset := 0x0, acc := .rw }
def TEST_RAW_CMD_READ : Fld := { addr := 0x1700001c, lsb := 0, width := 1, reset := 0x0, acc := .wo }
def TEST_RAW_STATUS_VALID : Fld := { addr := 0x17000020, lsb := 31, width := 1, reset := 0x0, acc := .ro }
def TEST_RAW_STATUS_BUSY : Fld := { addr := 0x17000020, lsb := 30, width := 1, reset := 0x0, acc := .ro }
def TEST_RAW_STATUS_SYNDROME : Fld := { addr := 0x17000020, lsb := 29, width := 1, reset := 0x0, acc := .ro }
def TEST_RAW_STATUS_TAG_MASK : Fld := { addr := 0x17000020, lsb := 24, width := 1, reset := 0x0, acc := .ro }
def TEST_RAW_STATUS_TAG_GEN : Fld := { addr := 0x17000020, lsb := 0, width := 24, reset := 0x0, acc := .ro }
def TEST_RAW_DATA_BYTES : Fld := { addr := 0x17000024, lsb := 0, width := 32, reset := 0x0, acc := .ro }
def TEST_REFUSED_COUNT : Fld := { addr := 0x17000048, lsb := 0, width := 32, reset := 0x0, acc := .rc }

end R

/-- The registers of block 0x0. -/
def regsPkg : List Reg :=
  [ ⟨0x0, 1, false, [], [R.PKG_ID_PART, R.PKG_ID_STEPPING]⟩,
    ⟨0x4, 1, false, [], [R.PKG_NODE_NODE]⟩,
    ⟨0x8, 1, false, [], [R.PKG_STRAPS_TEST_EN, R.PKG_STRAPS_BOOT_COPY, R.PKG_STRAPS_FLASH_MODE, R.PKG_STRAPS_MASTER_SEL]⟩,
    ⟨0xc, 1, false, [], [R.PKG_STAGE_TEST_HALT, R.PKG_STAGE_READY, R.PKG_STAGE_DONE, R.PKG_STAGE_CURRENT]⟩,
    ⟨0x10, 1, false, [], [R.PKG_BOOT_VALID, R.PKG_BOOT_COPY, R.PKG_BOOT_FIRST, R.PKG_BOOT_FINAL]⟩,
    ⟨0x14, 1, false, [], [R.PKG_BOOT_SERIAL_SERIAL]⟩,
    ⟨0x18, 1, false, [], [R.PKG_CAL_REFUSED, R.PKG_CAL_RESTORED]⟩,
    ⟨0x1c, 1, false, [], [R.PKG_CAL_SAVE_BUSY, R.PKG_CAL_SAVE_VALID, R.PKG_CAL_SAVE_RESULT, R.PKG_CAL_SAVE_SAVE]⟩,
    ⟨0x20, 1, false, [], [R.PKG_CAL_SEQ_SEQ]⟩,
    ⟨0x24, 1, false, [], [R.PKG_OPSEC_SECONDS]⟩ ]

/-- The registers of block 0x1. -/
def regsTimebase : List Reg :=
  [ ⟨0x1000000, 1, false, [], [R.TIMEBASE_STATUS_RACK_MISMATCH, R.TIMEBASE_STATUS_RREF_LOST, R.TIMEBASE_STATUS_HOLDOVER, R.TIMEBASE_STATUS_EPOCH_VALID, R.TIMEBASE_STATUS_EPOCH_PENDING, R.TIMEBASE_STATUS_SYNC_LOST, R.TIMEBASE_STATUS_SYNC_SEEN, R.TIMEBASE_STATUS_LOCKED]⟩,
    ⟨0x1000004, 2, false, [], [R.TIMEBASE_BEAT_BEAT]⟩,
    ⟨0x100000c, 1, false, [], [R.TIMEBASE_REFCYC_REFCYC]⟩,
    ⟨0x1000010, 1, false, [], [R.TIMEBASE_EPOCH_EPOCH_HI]⟩,
    ⟨0x1000014, 1, false, [], [R.TIMEBASE_SYNC_GOOD_COUNT]⟩,
    ⟨0x1000018, 1, false, [], [R.TIMEBASE_SYNC_ERR_COUNT]⟩,
    ⟨0x100001c, 1, false, [], [R.TIMEBASE_SYNC_MISS_COUNT]⟩,
    ⟨0x1000020, 1, false, [], [R.TIMEBASE_CFG_SYNC_TOL]⟩,
    ⟨0x1000024, 1, false, [], [R.TIMEBASE_THETA_VALID, R.TIMEBASE_THETA_THETA]⟩,
    ⟨0x1000028, 1, false, [], [R.TIMEBASE_THETA_APPLIED_BEATS]⟩,
    ⟨0x100002c, 1, false, [], [R.TIMEBASE_SLIPS_COUNT]⟩,
    ⟨0x1000030, 1, false, [], [R.TIMEBASE_EXCEED_COUNT]⟩,
    ⟨0x1000034, 1, false, [], [R.TIMEBASE_EPOCH_REJECT_COUNT]⟩,
    ⟨0x1000040, 1, false, [(6, 0x4)], [R.TIMEBASE_LINK_OFFSET_VALID, R.TIMEBASE_LINK_OFFSET_CROSS, R.TIMEBASE_LINK_OFFSET_OFFSET]⟩,
    ⟨0x1000080, 1, false, [(16, 0x4)], [R.TIMEBASE_HALF_CLK_SLOWED, R.TIMEBASE_HALF_CLK_THROTTLED, R.TIMEBASE_HALF_CLK_GEAR, R.TIMEBASE_HALF_CLK_CYC_PER_BEAT, R.TIMEBASE_HALF_CLK_LATE_STEPS]⟩ ]

/-- The registers of block 0x2. -/
def regsSeq : List Reg :=
  [ ⟨0x2000000, 1, false, [], [R.SEQ_STATE_ADVISE, R.SEQ_STATE_TAIL, R.SEQ_STATE_HEAD, R.SEQ_STATE_GEAR_PENDING, R.SEQ_STATE_GEAR_NEXT, R.SEQ_STATE_GEAR, R.SEQ_STATE_STATE]⟩,
    ⟨0x2000004, 1, false, [], [R.SEQ_JOB_PACKAGES, R.SEQ_JOB_JOB]⟩,
    ⟨0x2000008, 1, false, [], [R.SEQ_LAYOUT_LAYOUT_ID]⟩,
    ⟨0x200000c, 1, false, [], [R.SEQ_STEP_STEP]⟩,
    ⟨0x2000010, 2, false, [], [R.SEQ_START_BEAT]⟩,
    ⟨0x2000018, 2, false, [], [R.SEQ_B0_BEAT]⟩,
    ⟨0x2000020, 1, false, [(3, 0x4)], [R.SEQ_LEN_L]⟩,
    ⟨0x200002c, 1, false, [], [R.SEQ_GAP_RESUME_GAP]⟩,
    ⟨0x2000030, 1, false, [], [R.SEQ_TIMEOUT_STEP_TIMEOUT]⟩,
    ⟨0x2000034, 1, false, [], [R.SEQ_ROTATION_PHASE, R.SEQ_ROTATION_ROTATION_M1]⟩,
    ⟨0x2000038, 1, false, [], [R.SEQ_LAG_BEATS]⟩,
    ⟨0x200003c, 1, false, [], [R.SEQ_LATE_STEPS_COUNT]⟩,
    ⟨0x2000040, 1, false, [], [R.SEQ_LAST_VALID, R.SEQ_LAST_LATE, R.SEQ_LAST_SLIP, R.SEQ_LAST_COMMIT_OFFSET]⟩,
    ⟨0x2000044, 1, false, [], [R.SEQ_GEAR_CHANGES_COUNT]⟩,
    ⟨0x2000048, 1, false, [], [R.SEQ_COMMIT_LATE_COUNT]⟩,
    ⟨0x200004c, 1, false, [], [R.SEQ_DEFER_COUNT]⟩,
    ⟨0x2000050, 1, false, [], [R.SEQ_LOAD_STATUS_VALID, R.SEQ_LOAD_STATUS_GEAR, R.SEQ_LOAD_STATUS_DIE, R.SEQ_LOAD_STATUS_TILE, R.SEQ_LOAD_STATUS_CODE]⟩,
    ⟨0x2000054, 1, false, [], [R.SEQ_LOAD_DETAIL_SECTION, R.SEQ_LOAD_DETAIL_INDEX]⟩,
    ⟨0x2000058, 1, false, [], [R.SEQ_LIST_CRC_CRC]⟩ ]

/-- The registers of block 0x3. -/
def regsTile : List Reg :=
  [ ⟨0x3000000, 1, true, [(48, 0x40000)], [R.TILE_STATE_PC, R.TILE_STATE_BANK, R.TILE_STATE_STATE]⟩,
    ⟨0x3000004, 1, true, [(48, 0x40000), (3, 0x4)], [R.TILE_PROG_LEN_LEN]⟩,
    ⟨0x3000010, 1, true, [(48, 0x40000)], [R.TILE_STEP_STEP]⟩,
    ⟨0x3000014, 1, true, [(48, 0x40000)], [R.TILE_LATE_COUNT]⟩,
    ⟨0x3000018, 1, true, [(48, 0x40000)], [R.TILE_DEADLINE_COUNT]⟩,
    ⟨0x300001c, 1, true, [(48, 0x40000)], [R.TILE_STALLS_COUNT]⟩,
    ⟨0x3000020, 1, true, [(48, 0x40000)], [R.TILE_STANDIN_CFG_RESERVE]⟩,
    ⟨0x3000024, 1, true, [(48, 0x40000)], [R.TILE_STANDIN_USE_BOARDS, R.TILE_STANDIN_USE_USED]⟩,
    ⟨0x3000028, 1, true, [(48, 0x40000)], [R.TILE_STANDIN_SET_MEMBER3, R.TILE_STANDIN_SET_MEMBER2, R.TILE_STANDIN_SET_MEMBER1, R.TILE_STANDIN_SET_MEMBER0]⟩,
    ⟨0x300002c, 1, true, [(48, 0x40000)], [R.TILE_UNCOVERED_COUNT]⟩,
    ⟨0x3000030, 1, true, [(48, 0x40000)], [R.TILE_RESOLVED_COUNT]⟩,
    ⟨0x3000034, 1, true, [(48, 0x40000)], [R.TILE_CHK_CFG_MARGIN, R.TILE_CHK_CFG_FAULT_MIN, R.TILE_CHK_CFG_DRIFT_MIN]⟩,
    ⟨0x3000038, 1, true, [(48, 0x40000)], [R.TILE_CHK_LAST_VALID, R.TILE_CHK_LAST_RESULT, R.TILE_CHK_LAST_BOARD, R.TILE_CHK_LAST_GROUP, R.TILE_CHK_LAST_VECTOR]⟩,
    ⟨0x300003c, 1, true, [(48, 0x40000)], [R.TILE_CHK_MISMATCH_NOMINAL, R.TILE_CHK_MISMATCH_MARGIN]⟩,
    ⟨0x3000040, 1, true, [(48, 0x40000), (4, 0x4)], [R.TILE_CHK_CNT_COUNT]⟩,
    ⟨0x3000050, 1, true, [(48, 0x40000)], [R.TILE_RETAINED_LINES]⟩,
    ⟨0x3000054, 1, true, [(48, 0x40000)], [R.TILE_DUP_DISCARD_COUNT]⟩,
    ⟨0x3000058, 1, true, [(48, 0x40000)], [R.TILE_REPLAYS_COUNT]⟩,
    ⟨0x300005c, 1, true, [(48, 0x40000), (6, 0x4)], [R.TILE_FMT_COUNT]⟩,
    ⟨0x3000074, 1, true, [(48, 0x40000)], [R.TILE_MILL_STROKES_COUNT]⟩,
    ⟨0x3000078, 1, true, [(48, 0x40000)], [R.TILE_MILL_CFG_ROUTE_DROPS, R.TILE_MILL_CFG_KV_ALLOC]⟩ ]

/-- The registers of block 0x4. -/
def regsArray : List Reg :=
  [ ⟨0x4000000, 1, true, [(6144, 0x800)], [R.ARRAY_STATE_SHELVINGS, R.ARRAY_STATE_STATE]⟩,
    ⟨0x4000004, 1, true, [(6144, 0x800)], [R.ARRAY_CFG_VALID_U, R.ARRAY_CFG_VALID_L, R.ARRAY_CFG_FMT_U, R.ARRAY_CFG_FMT_L, R.ARRAY_CFG_ACTIVE, R.ARRAY_CFG_DUAL, R.ARRAY_CFG_ROWGROUP]⟩,
    ⟨0x4000008, 1, true, [(6144, 0x800)], [R.ARRAY_GEN_GEN_U, R.ARRAY_GEN_GEN_L]⟩,
    ⟨0x400000c, 1, true, [(6144, 0x800)], [R.ARRAY_ALLHOT_MIN]⟩,
    ⟨0x4000010, 1, true, [(6144, 0x800), (4, 0x4)], [R.ARRAY_LADDER_T3_T7, R.ARRAY_LADDER_T2_T6, R.ARRAY_LADDER_T1_T5, R.ARRAY_LADDER_T0_T4]⟩,
    ⟨0x4000020, 1, true, [(6144, 0x800)], [R.ARRAY_SAT_CONV_COUNT]⟩,
    ⟨0x4000024, 1, true, [(6144, 0x800)], [R.ARRAY_SAT_SPANS_COUNT]⟩,
    ⟨0x4000028, 1, true, [(6144, 0x800)], [R.ARRAY_UNRESOLVED_COUNT]⟩,
    ⟨0x400002c, 1, true, [(6144, 0x800)], [R.ARRAY_HOT_PASSES_COUNT]⟩,
    ⟨0x4000030, 2, true, [(6144, 0x800)], [R.ARRAY_PASSES_COUNT]⟩,
    ⟨0x4000038, 1, true, [(6144, 0x800)], [R.ARRAY_LAST_SAT_VALID, R.ARRAY_LAST_SAT_NEG, R.ARRAY_LAST_SAT_PLANE, R.ARRAY_LAST_SAT_GROUP, R.ARRAY_LAST_SAT_COLUMN]⟩,
    ⟨0x4000040, 1, true, [(6144, 0x800), (4, 0x4)], [R.ARRAY_HOT_HOT]⟩,
    ⟨0x4000050, 1, true, [(6144, 0x800)], [R.ARRAY_CAL_COUNT_COUNT]⟩,
    ⟨0x4000054, 2, true, [(6144, 0x800)], [R.ARRAY_CAL_BEAT_BEAT]⟩,
    ⟨0x400005c, 1, true, [(6144, 0x800)], [R.ARRAY_CAL_SECONDS_SECONDS]⟩,
    ⟨0x4000060, 1, true, [(6144, 0x800)], [R.ARRAY_REWRITES_WORN, R.ARRAY_REWRITES_WEAR_WARN, R.ARRAY_REWRITES_COUNT]⟩,
    ⟨0x4000064, 1, true, [(6144, 0x800)], [R.ARRAY_STUCK_STUCK_U, R.ARRAY_STUCK_STUCK_L]⟩ ]

/-- The registers of block 0x5. -/
def regsWelt : List Reg :=
  [ ⟨0x5000000, 1, true, [(48, 0x40000)], [R.WELT_STATUS_STAGED, R.WELT_STATUS_DEGRADED, R.WELT_STATUS_USED]⟩,
    ⟨0x5000004, 1, true, [(48, 0x40000)], [R.WELT_KINDS_STUCK, R.WELT_KINDS_OUTLIER]⟩,
    ⟨0x5000008, 1, true, [(48, 0x40000)], [R.WELT_SHORTFALL_COUNT]⟩,
    ⟨0x500000c, 1, true, [(48, 0x40000)], [R.WELT_WAIVED_DROPPED_OUTLIERS, R.WELT_WAIVED_WAIVED_STUCK]⟩,
    ⟨0x5000010, 1, true, [(48, 0x40000)], [R.WELT_FLOOR_VALID, R.WELT_FLOOR_SCALE, R.WELT_FLOOR_RESIDUAL_ABS]⟩,
    ⟨0x5000014, 1, true, [(48, 0x40000)], [R.WELT_GROUP_FULL_COUNT]⟩,
    ⟨0x5000018, 2, true, [(48, 0x40000)], [R.WELT_APPLIED_COUNT]⟩,
    ⟨0x5000020, 1, true, [(48, 0x40000)], [R.WELT_CORR_PASSES_COUNT]⟩,
    ⟨0x5008000, 2, true, [(48, 0x40000), (4096, 0x8)], [R.WELT_ENTRY_ENTRY]⟩ ]

/-- The registers of block 0x6. -/
def regsInsole : List Reg :=
  [ ⟨0x6000000, 1, true, [(48, 0x40000)], [R.INSOLE_MODE_UP]⟩,
    ⟨0x6000004, 1, true, [(48, 0x40000)], [R.INSOLE_SLOTS_ACTIVE, R.INSOLE_SLOTS_FREE]⟩,
    ⟨0x6000008, 1, true, [(48, 0x40000)], [R.INSOLE_DESCS_LOADING, R.INSOLE_DESCS_ACTIVE, R.INSOLE_DESCS_STANDBY, R.INSOLE_DESCS_FREE]⟩,
    ⟨0x6000010, 2, true, [(48, 0x40000)], [R.INSOLE_VECTORS_COUNT]⟩,
    ⟨0x6000018, 1, true, [(48, 0x40000)], [R.INSOLE_MISSES_COUNT]⟩,
    ⟨0x600001c, 1, true, [(48, 0x40000)], [R.INSOLE_FLIPS_COUNT]⟩,
    ⟨0x6000020, 1, true, [(48, 0x40000)], [R.INSOLE_REFUSED_COUNT]⟩,
    ⟨0x6000400, 2, true, [(48, 0x40000), (64, 0x8)], [R.INSOLE_DESC_DESC]⟩ ]

/-- The registers of block 0x7. -/
def regsSpad : List Reg :=
  [ ⟨0x7000000, 1, true, [(48, 0x40000)], [R.SPAD_STATUS_DELIV_FILL, R.SPAD_STATUS_TAGWRAP]⟩,
    ⟨0x7000004, 1, true, [(48, 0x40000)], [R.SPAD_GEN_COUNTER_GEN]⟩,
    ⟨0x7000010, 1, true, [(48, 0x40000), (8, 0x10)], [R.SPAD_SLOT_BASE_BASE]⟩,
    ⟨0x7000014, 1, true, [(48, 0x40000), (8, 0x10)], [R.SPAD_SLOT_BOUND_LINES]⟩,
    ⟨0x7000018, 1, true, [(48, 0x40000), (8, 0x10)], [R.SPAD_SLOT_GEN_GEN]⟩,
    ⟨0x700001c, 1, true, [(48, 0x40000), (8, 0x10)], [R.SPAD_SLOT_OWNER_ACTIVE, R.SPAD_SLOT_OWNER_JOB, R.SPAD_SLOT_OWNER_KIND]⟩,
    ⟨0x7000090, 1, true, [(48, 0x40000)], [R.SPAD_CORRECTED_COUNT]⟩,
    ⟨0x7000094, 1, true, [(48, 0x40000)], [R.SPAD_UNCORR_COUNT]⟩,
    ⟨0x7000098, 1, true, [(48, 0x40000)], [R.SPAD_STALE_READS_COUNT]⟩,
    ⟨0x700009c, 1, true, [(48, 0x40000)], [R.SPAD_BOUND_VIOL_COUNT]⟩,
    ⟨0x70000a0, 1, true, [(48, 0x40000)], [R.SPAD_LATE_DELIV_COUNT]⟩,
    ⟨0x70000a4, 1, true, [(48, 0x40000)], [R.SPAD_CONFLICTS_COUNT]⟩,
    ⟨0x70000a8, 1, true, [(48, 0x40000)], [R.SPAD_EXT_WAIT_COUNT]⟩,
    ⟨0x70000ac, 1, true, [(48, 0x40000)], [R.SPAD_SCRUB_PASSES, R.SPAD_SCRUB_INTERVAL]⟩,
    ⟨0x70000b0, 1, true, [(48, 0x40000), (5, 0x4)], [R.SPAD_PEG_WAIT_COUNT]⟩,
    ⟨0x70000c4, 1, true, [(48, 0x40000)], [R.SPAD_TAG_ERR_COUNT]⟩,
    ⟨0x70000c8, 1, true, [(48, 0x40000)], [R.SPAD_PEG_LAST_VALID, R.SPAD_PEG_LAST_SCOPE, R.SPAD_PEG_LAST_PEG_ID]⟩,
    ⟨0x7000100, 1, true, [(48, 0x40000), (32, 0x4)], [R.SPAD_BANK_CONFLICT_COUNT]⟩ ]

/-- The registers of block 0x8. -/
def regsMesh : List Reg :=
  [ ⟨0x8000000, 1, true, [], [R.MESH_STATUS_LOST_EDGES, R.MESH_STATUS_LOST_DIES, R.MESH_STATUS_DETOUR]⟩,
    ⟨0x8000004, 1, true, [], [R.MESH_ROOTS_ROOT_E, R.MESH_ROOTS_ROOT_W, R.MESH_ROOTS_MASTER]⟩,
    ⟨0x8000008, 1, true, [], [R.MESH_HDR_ERR_COUNT]⟩,
    ⟨0x800000c, 1, true, [], [R.MESH_SHELVED_DISCARD_COUNT]⟩,
    ⟨0x8000010, 1, true, [], [R.MESH_UNREACHABLE_COUNT]⟩,
    ⟨0x8000014, 1, true, [], [R.MESH_CREDIT_WAIT_COUNT]⟩,
    ⟨0x8000018, 1, true, [], [R.MESH_DETOURED_COUNT]⟩,
    ⟨0x800001c, 1, true, [], [R.MESH_SEAM_CFG_ENTRIES, R.MESH_SEAM_CFG_SEAM_LAT]⟩,
    ⟨0x8000020, 1, true, [(8, 0x4)], [R.MESH_SEAM_HOLD_COUNT]⟩,
    ⟨0x8000040, 1, true, [], [R.TACK_MISMATCH_COUNT]⟩,
    ⟨0x8000044, 1, true, [], [R.TACK_PARITY_COUNT]⟩,
    ⟨0x8000048, 1, true, [], [R.TACK_OUTSTANDING_SCOPES]⟩,
    ⟨0x800004c, 1, true, [], [R.TACK_FAULTS_COUNT]⟩,
    ⟨0x8000050, 1, true, [], [R.TACK_WORDS_COUNT]⟩,
    ⟨0x8000054, 1, true, [], [R.TACK_LATE_MSGS_COUNT]⟩,
    ⟨0x8000058, 1, true, [], [R.TACK_ACKS_COUNT]⟩,
    ⟨0x800005c, 1, true, [], [R.TACK_CREDITS_COUNT]⟩ ]

/-- The registers of block 0x9. -/
def regsD2d : List Reg :=
  [ ⟨0x9000000, 1, true, [(3, 0x100)], [R.D2D_STATUS_PRESENT, R.D2D_STATUS_PEER, R.D2D_STATUS_MODULES, R.D2D_STATUS_TACK_MODULE, R.D2D_STATUS_SLOW, R.D2D_STATUS_STATE]⟩,
    ⟨0x9000004, 1, true, [(3, 0x100)], [R.D2D_CTRL_RETRAIN]⟩,
    ⟨0x9000008, 1, true, [(3, 0x100)], [R.D2D_CRC_ERR_COUNT]⟩,
    ⟨0x900000c, 1, true, [(3, 0x100)], [R.D2D_RETRIES_COUNT]⟩,
    ⟨0x9000010, 1, true, [(3, 0x100)], [R.D2D_REPAIRS_LANES]⟩,
    ⟨0x9000014, 1, true, [(3, 0x100)], [R.D2D_DOWNS_COUNT]⟩,
    ⟨0x9000018, 1, true, [(3, 0x100)], [R.D2D_TACK_LATE_COUNT]⟩,
    ⟨0x900001c, 1, true, [(3, 0x100)], [R.D2D_FLITS_TX_COUNT]⟩,
    ⟨0x9000020, 1, true, [(3, 0x100)], [R.D2D_FLITS_RX_COUNT]⟩,
    ⟨0x9000024, 1, true, [(3, 0x100)], [R.D2D_STALL_COUNT]⟩,
    ⟨0x9000028, 1, true, [(3, 0x100)], [R.D2D_TRAIN_TRAINS, R.D2D_TRAIN_LAST_US]⟩ ]

/-- The registers of block 0xa. -/
def regsTorus : List Reg :=
  [ ⟨0xa000000, 1, false, [(6, 0x1000)], [R.TORUS_PORT_STATUS_LASER_LOW, R.TORUS_PORT_STATUS_DEFINED, R.TORUS_PORT_STATUS_WIDE, R.TORUS_PORT_STATUS_UP]⟩,
    ⟨0xa000100, 1, false, [(6, 0x1000), (4, 0x80)], [R.TORUS_GRP_STATE_JOB, R.TORUS_GRP_STATE_ENC_WARN, R.TORUS_GRP_STATE_ENC, R.TORUS_GRP_STATE_LANES8, R.TORUS_GRP_STATE_OWNER, R.TORUS_GRP_STATE_STATE]⟩,
    ⟨0xa000104, 1, false, [(6, 0x1000), (4, 0x80)], [R.TORUS_GRP_PEER_VALID, R.TORUS_GRP_PEER_PEER_GROUP, R.TORUS_GRP_PEER_PEER_PORT, R.TORUS_GRP_PEER_PEER_NODE]⟩,
    ⟨0xa000108, 1, false, [(6, 0x1000), (4, 0x80)], [R.TORUS_GRP_LAT_LAT_MAX, R.TORUS_GRP_LAT_LAT]⟩,
    ⟨0xa00010c, 1, false, [(6, 0x1000), (4, 0x80)], [R.TORUS_GRP_CTRL_RETRAIN]⟩,
    ⟨0xa000110, 1, false, [(6, 0x1000), (4, 0x80)], [R.TORUS_GRP_CORRECTED_COUNT]⟩,
    ⟨0xa000114, 1, false, [(6, 0x1000), (4, 0x80)], [R.TORUS_GRP_NAKS_COUNT]⟩,
    ⟨0xa000118, 1, false, [(6, 0x1000), (4, 0x80)], [R.TORUS_GRP_RETRIES_COUNT]⟩,
    ⟨0xa00011c, 1, false, [(6, 0x1000), (4, 0x80)], [R.TORUS_GRP_DOWNS_COUNT]⟩,
    ⟨0xa000120, 1, false, [(6, 0x1000), (4, 0x80)], [R.TORUS_GRP_DROPS_COUNT]⟩,
    ⟨0xa000124, 1, false, [(6, 0x1000), (4, 0x80)], [R.TORUS_GRP_AUTH_FAIL_COUNT]⟩,
    ⟨0xa000128, 1, false, [(6, 0x1000), (4, 0x80)], [R.TORUS_GRP_VL0_WAIT_RETRIED, R.TORUS_GRP_VL0_WAIT_MAX]⟩,
    ⟨0xa00012c, 1, false, [(6, 0x1000), (4, 0x80)], [R.TORUS_GRP_TRANSIT_VALID, R.TORUS_GRP_TRANSIT_GROUP_OUT, R.TORUS_GRP_TRANSIT_PORT_OUT]⟩,
    ⟨0xa000130, 1, false, [(6, 0x1000), (4, 0x80)], [R.TORUS_GRP_FLITS_TX_COUNT]⟩,
    ⟨0xa000134, 1, false, [(6, 0x1000), (4, 0x80)], [R.TORUS_GRP_FLITS_RX_COUNT]⟩,
    ⟨0xa000138, 1, false, [(6, 0x1000), (4, 0x80)], [R.TORUS_GRP_WEIGHTS_W3, R.TORUS_GRP_WEIGHTS_W2, R.TORUS_GRP_WEIGHTS_W1]⟩,
    ⟨0xa00013c, 1, false, [(6, 0x1000), (4, 0x80)], [R.TORUS_GRP_ENC_CTR_COUNT_HI]⟩,
    ⟨0xa010000, 1, false, [(4096, 0x4)], [R.TORUS_PATH_VALID, R.TORUS_PATH_PORT, R.TORUS_PATH_GROUP]⟩ ]

/-- The registers of block 0xb. -/
def regsFront : List Reg :=
  [ ⟨0xb000000, 1, false, [(2, 0x100)], [R.FRONT_STATUS_PN_END, R.FRONT_STATUS_PN_WARN, R.FRONT_STATUS_SAK, R.FRONT_STATUS_LINK_UP]⟩,
    ⟨0xb000004, 1, false, [(2, 0x100)], [R.FRONT_CFG_VLAN, R.FRONT_CFG_TCLASS, R.FRONT_CFG_WINDOW, R.FRONT_CFG_XPN, R.FRONT_CFG_MACSEC_REQ]⟩,
    ⟨0xb000008, 1, false, [(2, 0x100), (4, 0x4)], [R.FRONT_ADDR_ADDR]⟩,
    ⟨0xb000018, 2, false, [(2, 0x100)], [R.FRONT_MAC_MAC]⟩,
    ⟨0xb000020, 2, false, [(2, 0x100)], [R.FRONT_NEXTHOP_MAC]⟩,
    ⟨0xb000028, 1, false, [(2, 0x100)], [R.FRONT_ERRS_MACSEC, R.FRONT_ERRS_FCS]⟩,
    ⟨0xb00002c, 1, false, [(2, 0x100)], [R.FRONT_DROPS_PAUSE, R.FRONT_DROPS_OTHER]⟩,
    ⟨0xb000030, 1, false, [(2, 0x100)], [R.FRONT_FRAMES_TX, R.FRONT_FRAMES_RX]⟩,
    ⟨0xb000200, 1, false, [], [R.FRONT_UDP_REMOTE_PORT, R.FRONT_UDP_PORT]⟩,
    ⟨0xb000204, 1, false, [(4, 0x4)], [R.FRONT_REMOTE_ADDR]⟩,
    ⟨0xb000214, 1, false, [], [R.FRONT_REMOTE_IF_PORT]⟩,
    ⟨0xb000218, 1, false, [], [R.FRONT_MALFORMED_IP_COUNT]⟩ ]

/-- The registers of block 0xc. -/
def regsServe : List Reg :=
  [ ⟨0xc000000, 1, false, [], [R.SERVE_STATUS_SESSIONS, R.SERVE_STATUS_ADMITTING, R.SERVE_STATUS_TAIL, R.SERVE_STATUS_HEAD]⟩,
    ⟨0xc000004, 1, false, [], [R.SERVE_ACTIVE_REQUESTS]⟩,
    ⟨0xc000008, 1, false, [], [R.SERVE_CFG_RETRIES, R.SERVE_CFG_RETX_US, R.SERVE_CFG_IDLE_MS]⟩,
    ⟨0xc00000c, 1, false, [], [R.SERVE_ADMITTED_COUNT]⟩,
    ⟨0xc000010, 1, false, [], [R.SERVE_REFUSED_COUNT]⟩,
    ⟨0xc000014, 1, false, [], [R.SERVE_DEFERRED_COUNT]⟩,
    ⟨0xc000018, 1, false, [], [R.SERVE_AUTH_FAIL_COUNT]⟩,
    ⟨0xc00001c, 1, false, [], [R.SERVE_MALFORMED_COUNT]⟩,
    ⟨0xc000020, 1, false, [], [R.SERVE_PREFIX_MISSES, R.SERVE_PREFIX_HITS]⟩,
    ⟨0xc000024, 1, false, [], [R.SERVE_LATE_COUNT]⟩,
    ⟨0xc000028, 1, false, [], [R.SERVE_POLICY_EVICTED, R.SERVE_POLICY_DEMOTED]⟩,
    ⟨0xc00002c, 1, false, [], [R.SERVE_STEP_PKTS_COUNT]⟩,
    ⟨0xc000030, 1, false, [], [R.SERVE_RESENDS_GONE, R.SERVE_RESENDS_RESENT]⟩,
    ⟨0xc000034, 1, false, [], [R.SERVE_OUTPUT_LOST_COUNT]⟩,
    ⟨0xc000038, 1, false, [], [R.SERVE_PROBE_SEL_INDEX]⟩,
    ⟨0xc00003c, 1, false, [], [R.SERVE_PROBE_STATE_STATE, R.SERVE_PROBE_STATE_PRIORITY, R.SERVE_PROBE_STATE_TENANT, R.SERVE_PROBE_STATE_GAPS_OVER]⟩,
    ⟨0xc000040, 2, false, [], [R.SERVE_PROBE_ADMIT_BEAT]⟩,
    ⟨0xc000048, 2, false, [], [R.SERVE_PROBE_FIRST_BEAT]⟩,
    ⟨0xc000050, 2, false, [], [R.SERVE_PROBE_LAST_BEAT]⟩,
    ⟨0xc000058, 1, false, [], [R.SERVE_PROBE_GAP_WORST]⟩,
    ⟨0xc00005c, 1, false, [], [R.SERVE_TENANT_SEL_TENANT]⟩,
    ⟨0xc000060, 1, false, [], [R.SERVE_TENANT_STATE_ENABLED, R.SERVE_TENANT_STATE_PRIVILEGED, R.SERVE_TENANT_STATE_POLICY, R.SERVE_TENANT_STATE_CLASS, R.SERVE_TENANT_STATE_ACTIVE]⟩ ]

/-- The registers of block 0xd. -/
def regsSampler : List Reg :=
  [ ⟨0xd000000, 1, false, [], [R.SAMPLER_STATUS_LANES, R.SAMPLER_STATUS_HEAD, R.SAMPLER_STATUS_TAIL]⟩,
    ⟨0xd000004, 1, false, [], [R.SAMPLER_TIMING_SLOT_CYCLES]⟩,
    ⟨0xd000008, 1, false, [], [R.SAMPLER_DRAWS_COUNT]⟩,
    ⟨0xd00000c, 1, false, [], [R.SAMPLER_GREEDY_COUNT]⟩,
    ⟨0xd000010, 1, false, [], [R.SAMPLER_DRAFTED_COUNT]⟩,
    ⟨0xd000014, 1, false, [], [R.SAMPLER_ACCEPTED_COUNT]⟩,
    ⟨0xd000018, 1, false, [], [R.SAMPLER_NO_MATCH_COUNT]⟩,
    ⟨0xd00001c, 1, false, [], [R.SAMPLER_ENDS_LENGTH, R.SAMPLER_ENDS_STOP]⟩,
    ⟨0xd000020, 1, false, [], [R.SAMPLER_SWITCH_ENDS_COUNT]⟩,
    ⟨0xd000024, 1, false, [], [R.SAMPLER_COUNT_SAT_COUNT]⟩,
    ⟨0xd000028, 1, false, [], [R.SAMPLER_RESULT_LATE_COUNT]⟩,
    ⟨0xd00002c, 1, false, [], [R.SAMPLER_CLAMPS_COUNT]⟩,
    ⟨0xd000030, 1, false, [], [R.SAMPLER_PROBE_SEL_BUCKET, R.SAMPLER_PROBE_SEL_CONTEXT]⟩,
    ⟨0xd000034, 1, false, [], [R.SAMPLER_PROBE_STATE_VALID, R.SAMPLER_PROBE_STATE_STOP_ON_SWITCH, R.SAMPLER_PROBE_STATE_DRAFT_MAX, R.SAMPLER_PROBE_STATE_NGRAM_M1, R.SAMPLER_PROBE_STATE_TURN_GEN]⟩,
    ⟨0xd000038, 1, false, [], [R.SAMPLER_PROBE_COUNT_COUNT]⟩,
    ⟨0xd00003c, 1, false, [], [R.SAMPLER_PROBE_EMITTED_EMITTED]⟩ ]

/-- The registers of block 0xe. -/
def regsCtx : List Reg :=
  [ ⟨0xe000000, 1, true, [], [R.CTX_STATUS_SCRUB_ON, R.CTX_STATUS_STACK]⟩,
    ⟨0xe000004, 1, true, [], [R.CTX_STACK_RATE, R.CTX_STACK_CHANNELS, R.CTX_STACK_GB]⟩,
    ⟨0xe000008, 1, true, [], [R.CTX_STACK_TEMP_TEMP]⟩,
    ⟨0xe00000c, 1, true, [], [R.CTX_FRAME_CFG_HD, R.CTX_FRAME_CFG_FRAME_LINES]⟩,
    ⟨0xe000010, 1, true, [], [R.CTX_FRAMES_TOTAL]⟩,
    ⟨0xe000014, 1, true, [], [R.CTX_FRAMES_FREE_COUNT]⟩,
    ⟨0xe000018, 1, true, [], [R.CTX_FRAMES_DIRTY_COUNT]⟩,
    ⟨0xe00001c, 1, true, [], [R.CTX_GUARANTEE_BYTES]⟩,
    ⟨0xe000020, 1, true, [], [R.CTX_RGN0_BASE_BASE]⟩,
    ⟨0xe000024, 1, true, [], [R.CTX_RGN0_LINES_LINES]⟩,
    ⟨0xe000028, 1, true, [], [R.CTX_RGN1_BASE_BASE]⟩,
    ⟨0xe00002c, 1, true, [], [R.CTX_RGN1_LINES_LINES]⟩,
    ⟨0xe000030, 1, true, [], [R.CTX_RGN2_BASE_BASE]⟩,
    ⟨0xe000034, 1, true, [], [R.CTX_RGN2_LINES_LINES]⟩,
    ⟨0xe000038, 1, true, [], [R.CTX_RGN3_BASE_BASE]⟩,
    ⟨0xe00003c, 1, true, [], [R.CTX_RGN3_LINES_LINES]⟩,
    ⟨0xe000040, 1, true, [], [R.CTX_RGN4_BASE_BASE]⟩,
    ⟨0xe000044, 1, true, [], [R.CTX_RGN4_LINES_LINES]⟩,
    ⟨0xe000048, 1, true, [], [R.CTX_RGN5_BASE_BASE]⟩,
    ⟨0xe00004c, 1, true, [], [R.CTX_RGN5_LINES_LINES]⟩,
    ⟨0xe000050, 1, true, [], [R.CTX_RGN6_BASE_BASE]⟩,
    ⟨0xe000054, 1, true, [], [R.CTX_RGN6_LINES_LINES]⟩,
    ⟨0xe000060, 1, true, [], [R.CTX_CORRECTED_COUNT]⟩,
    ⟨0xe000064, 1, true, [], [R.CTX_UNCORR_COUNT]⟩,
    ⟨0xe000068, 1, true, [], [R.CTX_SCRUB_PASSES, R.CTX_SCRUB_INTERVAL]⟩,
    ⟨0xe00006c, 1, true, [], [R.CTX_APPENDS_COUNT]⟩,
    ⟨0xe000070, 1, true, [], [R.CTX_APPEND_REFUSED_COUNT]⟩,
    ⟨0xe000074, 1, true, [], [R.CTX_NOFRAME_COUNT]⟩,
    ⟨0xe000078, 1, true, [], [R.CTX_KEY_MISS_COUNT]⟩,
    ⟨0xe00007c, 1, true, [], [R.CTX_RMW_WAIT_COUNT]⟩,
    ⟨0xe000080, 1, true, [], [R.CTX_PAGE_OUT_COUNT]⟩,
    ⟨0xe000084, 1, true, [], [R.CTX_PAGE_IN_COUNT]⟩,
    ⟨0xe000088, 1, true, [], [R.CTX_PAGE_FAIL_LOST, R.CTX_PAGE_FAIL_REFETCH]⟩,
    ⟨0xe00008c, 1, true, [], [R.CTX_PAGE_CFG_PAGE_RETRIES, R.CTX_PAGE_CFG_TIMEOUT, R.CTX_PAGE_CFG_RATE]⟩,
    ⟨0xe000090, 1, true, [], [R.CTX_PROBE_SEL_INDEX]⟩,
    ⟨0xe000094, 1, true, [], [R.CTX_PROBE_STATE_STATE, R.CTX_PROBE_STATE_TENANT, R.CTX_PROBE_STATE_PAGES]⟩,
    ⟨0xe000098, 1, true, [], [R.CTX_PROBE_COMMIT_COMMIT]⟩,
    ⟨0xe0000a0, 2, true, [], [R.CTX_LAST_UNCORR_VALID, R.CTX_LAST_UNCORR_REGION, R.CTX_LAST_UNCORR_LINE]⟩ ]

/-- The registers of block 0xf. -/
def regsLoad : List Reg :=
  [ ⟨0xf000000, 1, false, [], [R.LOAD_STATE_DEGRADED, R.LOAD_STATE_DUAL_LAYOUT, R.LOAD_STATE_MODE, R.LOAD_STATE_STATE]⟩,
    ⟨0xf000004, 1, false, [], [R.LOAD_OBJECT_GEN]⟩,
    ⟨0xf000008, 1, false, [], [R.LOAD_SHARDS_EXPECTED_COUNT]⟩,
    ⟨0xf00000c, 1, false, [], [R.LOAD_SHARDS_RECEIVED_COUNT]⟩,
    ⟨0xf000010, 1, false, [], [R.LOAD_MISSING_INDEX]⟩,
    ⟨0xf000014, 1, false, [], [R.LOAD_PROGRESS_ACTIVE, R.LOAD_PROGRESS_DONE]⟩,
    ⟨0xf000018, 1, false, [], [R.LOAD_STATUS_VALID, R.LOAD_STATUS_KIND, R.LOAD_STATUS_DIE, R.LOAD_STATUS_TILE, R.LOAD_STATUS_CODE]⟩,
    ⟨0xf00001c, 1, false, [], [R.LOAD_DETAIL_SECTION, R.LOAD_DETAIL_ENTRY]⟩,
    ⟨0xf000020, 1, false, [], [R.LOAD_CFG_TIMEOUT]⟩,
    ⟨0xf000024, 1, false, [], [R.LOAD_NAKS_COUNT]⟩,
    ⟨0xf000028, 1, false, [], [R.LOAD_FOREIGN_COUNT]⟩,
    ⟨0xf00002c, 1, false, [], [R.LOAD_GEN_IDLE_GEN, R.LOAD_GEN_ACTIVE_GEN]⟩,
    ⟨0xf000030, 1, false, [], [R.LOAD_SKIPPED_ROWS_COUNT]⟩,
    ⟨0xf000034, 1, false, [], [R.LOAD_STUCK_TOTAL_COUNT]⟩,
    ⟨0xf000038, 1, false, [], [R.LOAD_WEAR_WORN, R.LOAD_WEAR_WARN]⟩,
    ⟨0xf00003c, 1, false, [], [R.LOAD_WEAR_MAX_DIE, R.LOAD_WEAR_MAX_BOARD, R.LOAD_WEAR_MAX_COUNT]⟩,
    ⟨0xf000040, 1, false, [], [R.LOAD_FLIPS_INSOLE, R.LOAD_FLIPS_PATTERN]⟩,
    ⟨0xf000044, 1, false, [], [R.LOAD_INSOLE_READY, R.LOAD_INSOLE_LOADING]⟩,
    ⟨0xf000048, 1, false, [], [R.LOAD_CONST_SKIP_COUNT]⟩,
    ⟨0xf00004c, 1, true, [], [R.LOAD_STUCK_SEL_TILE, R.LOAD_STUCK_SEL_INDEX]⟩,
    ⟨0xf000050, 2, true, [], [R.LOAD_STUCK_RECORD]⟩ ]

/-- The registers of block 0x10. -/
def regsTrue : List Reg :=
  [ ⟨0x10000000, 1, true, [(6144, 0x800), (128, 0x4)], [R.TRUE_IMAGE_BYTES]⟩,
    ⟨0x10000200, 1, true, [(6144, 0x800)], [R.TRUE_BOARD_STATE_LAST_KIND, R.TRUE_BOARD_STATE_LAST_RESULT, R.TRUE_BOARD_STATE_FAIL_CAUSE, R.TRUE_BOARD_STATE_OVERDUE, R.TRUE_BOARD_STATE_DRIFT_SAT, R.TRUE_BOARD_STATE_RESTORED, R.TRUE_BOARD_STATE_DUE]⟩,
    ⟨0x10000204, 1, true, [(6144, 0x800)], [R.TRUE_BOARD_DRIFTS_COUNT]⟩,
    ⟨0x10000208, 1, true, [(6144, 0x800)], [R.TRUE_SCRUB_FOUND_COUNT]⟩,
    ⟨0x1000020c, 1, true, [(6144, 0x800)], [R.TRUE_READBACK_ACTIVE, R.TRUE_READBACK_ROW]⟩,
    ⟨0x10000300, 1, true, [(6144, 0x800), (64, 0x4)], [R.TRUE_DRIFT_TAPS]⟩,
    ⟨0x10f00000, 1, true, [], [R.TRUE_CFG_TEMP_DUE, R.TRUE_CFG_PASS_MARGIN]⟩,
    ⟨0x10f00004, 1, true, [], [R.TRUE_STATUS_ACTIVE, R.TRUE_STATUS_DUE]⟩,
    ⟨0x10f00008, 1, true, [], [R.TRUE_RUNS_COUNT]⟩,
    ⟨0x10f0000c, 1, true, [], [R.TRUE_FAILS_COUNT]⟩,
    ⟨0x10f00010, 1, true, [], [R.TRUE_CUT_COUNT]⟩,
    ⟨0x10f00014, 1, true, [], [R.TRUE_OVERDUE_COUNT]⟩,
    ⟨0x10f00018, 1, true, [], [R.TRUE_DRIFT_SAT_COUNT]⟩,
    ⟨0x10f0001c, 1, true, [], [R.TRUE_RESTORE_FAIL_COUNT]⟩,
    ⟨0x10f00020, 1, true, [], [R.TRUE_OLDEST_AGE_BEATS]⟩,
    ⟨0x10f00024, 1, true, [], [R.TRUE_OLDEST_BOARD_VALID, R.TRUE_OLDEST_BOARD_BOARD]⟩ ]

/-- The registers of block 0x11. -/
def regsMon : List Reg :=
  [ ⟨0x11000000, 1, true, [], [R.MON_CTRL_REF_SEL, R.MON_CTRL_MODE]⟩,
    ⟨0x11000004, 1, true, [], [R.MON_STATUS_REF_FALLBACK, R.MON_STATUS_REF_SETTLED, R.MON_STATUS_OVERRUN, R.MON_STATUS_SCAN_POS]⟩,
    ⟨0x11000008, 1, true, [], [R.MON_SCAN_MASK]⟩,
    ⟨0x1100000c, 1, true, [], [R.MON_DATA_VALID, R.MON_DATA_SETTLED, R.MON_DATA_OVR, R.MON_DATA_CHANNEL, R.MON_DATA_VALUE]⟩,
    ⟨0x11000010, 1, true, [], [R.MON_OVR_OVR]⟩,
    ⟨0x11000014, 1, true, [], [R.MON_UNDR_UNDR]⟩,
    ⟨0x11000018, 1, true, [], [R.MON_SUSPECT_COUNT]⟩,
    ⟨0x1100001c, 1, true, [], [R.MON_RING_WR_INDEX]⟩,
    ⟨0x11000020, 1, true, [], [R.MON_RING_RD_INDEX]⟩,
    ⟨0x11000024, 1, true, [], [R.MON_RING_LOST_COUNT]⟩,
    ⟨0x11000028, 1, true, [], [R.MON_LASER_MAX, R.MON_LASER_MIN]⟩,
    ⟨0x1100002c, 1, true, [], [R.MON_LASER_STATUS_HIGH_SEEN, R.MON_LASER_STATUS_HIGH, R.MON_LASER_STATUS_LOW]⟩,
    ⟨0x11000030, 1, true, [], [R.MON_RESULTS_COUNT]⟩,
    ⟨0x11000040, 1, true, [(32, 0x4)], [R.MON_FILT_ORDER_M1, R.MON_FILT_DECIM_M1]⟩,
    ⟨0x110000c0, 1, true, [(32, 0x4)], [R.MON_LAST_VALID, R.MON_LAST_SETTLED, R.MON_LAST_OVR, R.MON_LAST_VALUE]⟩,
    ⟨0x11010000, 1, true, [(16384, 0x4)], [R.MON_RING_ENTRY]⟩ ]

/-- The registers of block 0x12. -/
def regsFault : List Reg :=
  [ ⟨0x12000000, 1, false, [], [R.FAULT_STATUS_HOLD_CAUSE, R.FAULT_STATUS_REPLAY, R.FAULT_STATUS_SETTLING, R.FAULT_STATUS_REPLAYING, R.FAULT_STATUS_HOLD]⟩,
    ⟨0x12000004, 1, false, [], [R.FAULT_CFG_PROBE_BEATS, R.FAULT_CFG_UNCOVERED_MAX, R.FAULT_CFG_MAX_REPLAYS]⟩,
    ⟨0x12000008, 1, false, [], [R.FAULT_GAP_READMIT_GAP, R.FAULT_GAP_REPLAY_GAP]⟩,
    ⟨0x1200000c, 1, false, [], [R.FAULT_RESUME_MS]⟩,
    ⟨0x12000010, 1, false, [], [R.FAULT_REPLICA_VALID, R.FAULT_REPLICA_NODE]⟩,
    ⟨0x12000014, 1, false, [], [R.FAULT_SHARE_CRC_CRC]⟩,
    ⟨0x12000018, 1, false, [], [R.FAULT_ORDER_ACTION, R.FAULT_ORDER_CLASS, R.FAULT_ORDER_DIE, R.FAULT_ORDER_INDEX]⟩,
    ⟨0x1200001c, 1, false, [], [R.FAULT_DETECTED_COUNT]⟩,
    ⟨0x12000020, 1, false, [], [R.FAULT_ABSORBED_COUNT]⟩,
    ⟨0x12000024, 1, false, [], [R.FAULT_REPLAYS_COUNT]⟩,
    ⟨0x12000028, 1, false, [], [R.FAULT_SETTLED_COUNT]⟩,
    ⟨0x1200002c, 1, false, [], [R.FAULT_REPLICA_SENT_COUNT]⟩,
    ⟨0x12000030, 1, false, [], [R.FAULT_REPLICA_SERVED_COUNT]⟩,
    ⟨0x12000034, 1, false, [], [R.FAULT_REPLICA_REFUSED_OUT, R.FAULT_REPLICA_REFUSED_IN]⟩,
    ⟨0x12000038, 1, false, [], [R.FAULT_RESUMES_EXPIRED, R.FAULT_RESUMES_RESUMED]⟩,
    ⟨0x1200003c, 1, false, [], [R.FAULT_UNCOVERED_RUN_STEPS]⟩,
    ⟨0x12000040, 2, false, [], [R.FAULT_LAST_ENTRY]⟩,
    ⟨0x12000048, 1, false, [(6, 0x4)], [R.FAULT_CLAMP_COUNT]⟩,
    ⟨0x12000060, 1, false, [], [R.FAULT_CLAMP_SRC_VALID, R.FAULT_CLAMP_SRC_SESSION, R.FAULT_CLAMP_SRC_SOURCE]⟩,
    ⟨0x12000064, 1, false, [], [R.FAULT_CLAMP_ADDR_WHERE]⟩,
    ⟨0x12000068, 1, false, [], [R.FAULT_ORDER_CONFLICTS_COUNT]⟩,
    ⟨0x1200006c, 1, false, [], [R.FAULT_HOLDS_COUNT]⟩,
    ⟨0x12000100, 1, true, [], [R.FAULT_QUEUE_STATUS_OVERFLOWS, R.FAULT_QUEUE_STATUS_FILL]⟩,
    ⟨0x12000104, 1, true, [], [R.FAULT_TILES_LO_TILES]⟩,
    ⟨0x1200010c, 1, true, [], [R.FAULT_HELD_LO_TILES]⟩,
    ⟨0x12000108, 1, true, [], [R.FAULT_TILES_HI_DIE, R.FAULT_TILES_HI_HALVES, R.FAULT_TILES_HI_TILES]⟩,
    ⟨0x12000110, 1, true, [], [R.FAULT_HELD_HI_DIE, R.FAULT_HELD_HI_HALVES, R.FAULT_HELD_HI_TILES]⟩,
    ⟨0x12000114, 1, true, [], [R.FAULT_BOARDS_HELD, R.FAULT_BOARDS_SHELVED]⟩,
    ⟨0x12000120, 2, true, [(16, 0x8)], [R.FAULT_QUEUE_VALID, R.FAULT_QUEUE_CLASS, R.FAULT_QUEUE_REPLAY, R.FAULT_QUEUE_CAUSE, R.FAULT_QUEUE_INDEX, R.FAULT_QUEUE_STEP]⟩,
    ⟨0x12000400, 1, false, [(128, 0x4)], [R.FAULT_CAUSE_COUNT]⟩ ]

/-- The registers of block 0x13. -/
def regsSec : List Reg :=
  [ ⟨0x13000000, 1, false, [], [R.SEC_LC_DEBUG_READY, R.SEC_LC_REVOKED, R.SEC_LC_OWNERS, R.SEC_LC_FUSED, R.SEC_LC_STATE]⟩,
    ⟨0x13000004, 2, false, [], [R.SEC_UID_UID]⟩,
    ⟨0x1300000c, 2, false, [], [R.SEC_CHALLENGE_CYCLES, R.SEC_CHALLENGE_ATTEMPTS]⟩,
    ⟨0x13000014, 1, false, [], [R.SEC_LC_CMD_CMD]⟩,
    ⟨0x13000018, 1, false, [], [R.SEC_LC_STATUS_VALID, R.SEC_LC_STATUS_BUSY, R.SEC_LC_STATUS_COMMAND, R.SEC_LC_STATUS_RESULT]⟩,
    ⟨0x1300001c, 1, false, [], [R.SEC_BOOT_VALID, R.SEC_BOOT_OWNER]⟩,
    ⟨0x13000020, 1, false, [], [R.SEC_KEY_SEL_KIND, R.SEC_KEY_SEL_SLOT]⟩,
    ⟨0x13000024, 1, false, [], [R.SEC_KEY_CMD_CMD]⟩,
    ⟨0x13000028, 1, false, [], [R.SEC_KEY_STATUS_VALID, R.SEC_KEY_STATUS_BUSY, R.SEC_KEY_STATUS_PRESENT, R.SEC_KEY_STATUS_RESULT]⟩,
    ⟨0x1300002c, 1, false, [], [R.SEC_KEY_REFUSED_COUNT]⟩,
    ⟨0x13000030, 1, false, [], [R.SEC_KEY_COUNT_MAC, R.SEC_KEY_COUNT_DATA]⟩,
    ⟨0x13000034, 1, false, [], [R.SEC_ZEROISE_ACTIVE, R.SEC_ZEROISE_ELAPSED_US]⟩,
    ⟨0x13000040, 1, false, [(18, 0x4)], [R.SEC_KEY_DATA_BYTES]⟩,
    ⟨0x13000100, 1, false, [(56, 0x4)], [R.SEC_TOKEN_BYTES]⟩,
    ⟨0x13000200, 1, false, [(32, 0x4)], [R.SEC_PROV_BYTES]⟩ ]

/-- The registers of block 0x14. -/
def regsEvr : List Reg :=
  [ ⟨0x14000000, 1, true, [], [R.EVR_STATUS_DROP_SEEN, R.EVR_STATUS_WEAR_WARN, R.EVR_STATUS_SCAN_DONE, R.EVR_STATUS_PFAIL_MODE, R.EVR_STATUS_FLUSHING]⟩,
    ⟨0x14000004, 1, true, [], [R.EVR_CTRL_SEVERITY, R.EVR_CTRL_TRIGGER, R.EVR_CTRL_FLUSH]⟩,
    ⟨0x14000008, 1, true, [], [R.EVR_SEQ_NEXT]⟩,
    ⟨0x1400000c, 1, true, [], [R.EVR_BUF_UNFLUSHED, R.EVR_BUF_FILL]⟩,
    ⟨0x14000010, 1, true, [], [R.EVR_LOG_RETIRED, R.EVR_LOG_USED]⟩,
    ⟨0x14000014, 1, true, [], [R.EVR_DROPPED_COUNT]⟩,
    ⟨0x14000018, 1, true, [], [R.EVR_BUF_LOST_COUNT]⟩,
    ⟨0x1400001c, 1, true, [], [R.EVR_TRIG_LOST_COUNT]⟩,
    ⟨0x14000020, 1, true, [], [R.EVR_FLUSHES_PFAIL, R.EVR_FLUSHES_ALL]⟩,
    ⟨0x14000024, 1, true, [], [R.EVR_LAST_FLUSH_RECORDS, R.EVR_LAST_FLUSH_US]⟩,
    ⟨0x14000028, 1, true, [], [R.EVR_TORN_COUNT]⟩,
    ⟨0x1400002c, 1, true, [], [R.EVR_WEAR_WARN, R.EVR_WEAR_MAX]⟩,
    ⟨0x14000030, 1, true, [], [R.EVR_CURSOR_SRC, R.EVR_CURSOR_AUTO, R.EVR_CURSOR_SLOT]⟩,
    ⟨0x14000034, 1, true, [], [R.EVR_SEEK_SEQ]⟩,
    ⟨0x14000038, 1, true, [], [R.EVR_WINDOW_STATUS_SEEK_BUSY, R.EVR_WINDOW_STATUS_FOUND, R.EVR_WINDOW_STATUS_UNCORR, R.EVR_WINDOW_STATUS_RETIRED, R.EVR_WINDOW_STATUS_WRITES]⟩,
    ⟨0x1400003c, 1, true, [], [R.EVR_MANUAL_VALUE]⟩,
    ⟨0x14000040, 1, true, [(16, 0x4)], [R.EVR_CLASS_ENABLE, R.EVR_CLASS_SEVERITY, R.EVR_CLASS_COUNT]⟩,
    ⟨0x14000100, 1, true, [(256, 0x4)], [R.EVR_LIST_ADDRESS, R.EVR_LIST_WIDE]⟩,
    ⟨0x14000800, 1, true, [(64, 0x4)], [R.EVR_WINDOW_BYTES]⟩ ]

/-- The registers of block 0x15. -/
def regsPwr : List Reg :=
  [ ⟨0x15000000, 1, false, [], [R.PWR_STATUS_P_LEVEL, R.PWR_STATUS_PFAIL, R.PWR_STATUS_CAP_ACTIVE, R.PWR_STATUS_ALERT, R.PWR_STATUS_THERMTRIP]⟩,
    ⟨0x15000004, 1, false, [], [R.PWR_CAP_HYST_W, R.PWR_CAP_CAP_W]⟩,
    ⟨0x15000008, 1, false, [], [R.PWR_POWER_PROG_W, R.PWR_POWER_P_W]⟩,
    ⟨0x1500000c, 1, false, [], [R.PWR_FIXED_FIXED_W]⟩,
    ⟨0x15000010, 1, false, [], [R.PWR_THERM_TRIP_C, R.PWR_THERM_HYST_C, R.PWR_THERM_THROTTLE_C, R.PWR_THERM_ALERT_C]⟩,
    ⟨0x15000014, 1, false, [], [R.PWR_CAP_MS_COUNT]⟩,
    ⟨0x15000018, 1, false, [], [R.PWR_TRIPS_COUNT]⟩,
    ⟨0x1500001c, 1, false, [], [R.PWR_ALERTS_COUNT]⟩,
    ⟨0x15000020, 1, false, [], [R.PWR_PFAIL_COUNT, R.PWR_PFAIL_ASSERTED]⟩,
    ⟨0x15000024, 1, false, [], [R.PWR_HOTTEST_HALF, R.PWR_HOTTEST_CHANNEL, R.PWR_HOTTEST_VALUE]⟩,
    ⟨0x15000100, 1, false, [(16, 0x20)], [R.PWR_H_STATE_LEVEL, R.PWR_H_STATE_T_LEVEL, R.PWR_H_STATE_VSET_PENDING, R.PWR_H_STATE_SUPPLY_FAIL, R.PWR_H_STATE_ALERT, R.PWR_H_STATE_TRIPPED]⟩,
    ⟨0x15000104, 1, false, [(16, 0x20)], [R.PWR_H_VOLT_SET, R.PWR_H_VOLT_GEAR2, R.PWR_H_VOLT_GEAR1, R.PWR_H_VOLT_GEAR0]⟩,
    ⟨0x15000108, 1, false, [(16, 0x20)], [R.PWR_H_TEMP_CHANNEL, R.PWR_H_TEMP_VALUE]⟩,
    ⟨0x1500010c, 1, false, [(16, 0x20)], [R.PWR_H_THROTTLE_MS_COUNT]⟩,
    ⟨0x15000110, 1, false, [(16, 0x20)], [R.PWR_H_SUPPLY_COUNT]⟩,
    ⟨0x15000300, 1, false, [(8, 0x10)], [R.PWR_D_RAILS_PROG_BOARDS, R.PWR_D_RAILS_VDDA_MON, R.PWR_D_RAILS_VOPT, R.PWR_D_RAILS_VHBM, R.PWR_D_RAILS_VSRAM, R.PWR_D_RAILS_VPROG, R.PWR_D_RAILS_VARR]⟩,
    ⟨0x15000304, 1, false, [(8, 0x10)], [R.PWR_D_PROG_DEFER_COUNT]⟩ ]

/-- The registers of block 0x16. -/
def regsMgmt : List Reg :=
  [ ⟨0x16000000, 1, false, [], [R.MGMT_CFG_PEC_REQ, R.MGMT_CFG_STATIC_ADDR]⟩,
    ⟨0x16000004, 1, false, [], [R.MGMT_STATUS_DYN_VALID, R.MGMT_STATUS_DYN_ADDR, R.MGMT_STATUS_EID, R.MGMT_STATUS_TID, R.MGMT_STATUS_MCTP_IBI, R.MGMT_STATUS_IBI_EN, R.MGMT_STATUS_MODE]⟩,
    ⟨0x16000008, 1, false, [], [R.MGMT_ALERT_STATUS_CAUSES_HI, R.MGMT_ALERT_STATUS_FAULT, R.MGMT_ALERT_STATUS_CAUSES_LO]⟩,
    ⟨0x1600000c, 1, false, [], [R.MGMT_ALERT_EN_EN_HI, R.MGMT_ALERT_EN_EN_FIXED]⟩,
    ⟨0x16000010, 1, false, [], [R.MGMT_FRAMES_COUNT]⟩,
    ⟨0x16000014, 1, false, [], [R.MGMT_FRAME_ERR_CRC, R.MGMT_FRAME_ERR_FORMAT]⟩,
    ⟨0x16000018, 1, false, [], [R.MGMT_OVERRUN_COUNT]⟩,
    ⟨0x1600001c, 1, false, [], [R.MGMT_MCTP_DROPPED, R.MGMT_MCTP_ANSWERED]⟩ ]

/-- The registers of block 0x17. -/
def regsTest : List Reg :=
  [ ⟨0x17000000, 1, false, [], [R.TEST_STATUS_INTSCAN_USED, R.TEST_STATUS_IR, R.TEST_STATUS_GRADE]⟩,
    ⟨0x17000004, 1, false, [], [R.TEST_CTRL_VSET_SCAN]⟩,
    ⟨0x17000008, 1, false, [], [R.TEST_TMUX_EN, R.TEST_TMUX_DIE, R.TEST_TMUX_TILE, R.TEST_TMUX_GROUP]⟩,
    ⟨0x1700000c, 1, false, [], [R.TEST_TANA_EN, R.TEST_TANA_DIE, R.TEST_TANA_SUB, R.TEST_TANA_NODE, R.TEST_TANA_BOARD]⟩,
    ⟨0x17000010, 1, false, [], [R.TEST_STAGE_RUN]⟩,
    ⟨0x17000014, 1, false, [], [R.TEST_RAW_SEL_SRC, R.TEST_RAW_SEL_ADDR]⟩,
    ⟨0x17000018, 1, false, [], [R.TEST_RAW_LOC_DIE, R.TEST_RAW_LOC_TILE, R.TEST_RAW_LOC_ARRAY]⟩,
    ⟨0x1700001c, 1, false, [], [R.TEST_RAW_CMD_READ]⟩,
    ⟨0x17000020, 1, false, [], [R.TEST_RAW_STATUS_VALID, R.TEST_RAW_STATUS_BUSY, R.TEST_RAW_STATUS_SYNDROME, R.TEST_RAW_STATUS_TAG_MASK, R.TEST_RAW_STATUS_TAG_GEN]⟩,
    ⟨0x17000024, 1, false, [(9, 0x4)], [R.TEST_RAW_DATA_BYTES]⟩,
    ⟨0x17000048, 1, false, [], [R.TEST_REFUSED_COUNT]⟩ ]

/-- The registers of a block by its ID (R516); an unassigned ID has none (R517). -/
def regsOf (blk : Nat) : List Reg :=
  match blk with
  | 0 => regsPkg
  | 1 => regsTimebase
  | 2 => regsSeq
  | 3 => regsTile
  | 4 => regsArray
  | 5 => regsWelt
  | 6 => regsInsole
  | 7 => regsSpad
  | 8 => regsMesh
  | 9 => regsD2d
  | 10 => regsTorus
  | 11 => regsFront
  | 12 => regsServe
  | 13 => regsSampler
  | 14 => regsCtx
  | 15 => regsLoad
  | 16 => regsTrue
  | 17 => regsMon
  | 18 => regsFault
  | 19 => regsSec
  | 20 => regsEvr
  | 21 => regsPwr
  | 22 => regsMgmt
  | 23 => regsTest
  | _ => []

end Sys2Proof.Machine
end

