-- ==== Sys2Proof/Machine/Operands.lean ====
section
/-! DEFINITION. The number formats: E8M0 scales (R36), FP4 and INT4 elements (R37 to R39), FP8 (R40), block packing
(R41, R42), block products (R43), alignment (R45), FP32 arithmetic (R47, R562, R567), conversion to a narrow format
(R50 to R54), the transcendental functions (R119) and the reduction order (R120). -/
namespace Sys2Proof.Machine

/-- The three element formats of R35. -/
inductive NFmt where
  | int4 | fp4 | fp8
  deriving DecidableEq, Repr

/-- The format counts of one operation (R55). -/
structure FmtCounts where
  zero   : Nat := 0
  under  : Nat := 0
  sat    : Nat := 0
  align  : Nat := 0
  fp32   : Nat := 0
  nanIn  : Nat := 0
  deriving DecidableEq, Repr

/-- A computation that counts format events as it goes. -/
abbrev FM := StateM FmtCounts

def cntZero : FM Unit := modify fun c => { c with zero := c.zero + 1 }
def cntUnder : FM Unit := modify fun c => { c with under := c.under + 1 }
def cntSat : FM Unit := modify fun c => { c with sat := c.sat + 1 }
def cntAlign : FM Unit := modify fun c => { c with align := c.align + 1 }
def cntFp32 : FM Unit := modify fun c => { c with fp32 := c.fp32 + 1 }
def cntNan : FM Unit := modify fun c => { c with nanIn := c.nanIn + 1 }

/-- A list computed element by element, in order. -/
def fmMap {α β : Type} (f : α → FM β) : List α → FM (List β)
  | [] => pure []
  | a :: t => do let b ← f a; let r ← fmMap f t; pure (b :: r)

/-- A running result over a list, in order. -/
def fmFold {α β : Type} (f : β → α → FM β) : β → List α → FM β
  | b, [] => pure b
  | b, a :: t => do let b' ← f b a; fmFold f b' t

/-- Two lists combined element by element. -/
def fmZip {α β γ : Type} (f : α → β → FM γ) : List α → List β → FM (List γ)
  | a :: s, b :: t => do let c ← f a b; let r ← fmZip f s t; pure (c :: r)
  | _, _ => pure []

/-! ## FP32 (R47) -/

/-- An exact finite binary value, `(-1)^neg · man · 2^exp`. -/
structure Fp where
  neg : Bool
  man : Nat
  exp : Int
  deriving DecidableEq, Repr

def fpMax : Nat := 0x7F7FFFFF
def fpNegZero : Nat := 0x80000000
def fpOne : Nat := 0x3F800000

/-- The exact value of a finite FP32 word. -/
def fpDecode (w : Nat) : Fp :=
  let e : Nat := w / 2 ^ 23 % 256
  let m : Nat := w % 2 ^ 23
  { neg := bit w 31, man := if e = 0 then m else 2 ^ 23 + m, exp := if e = 0 then -149 else (e : Int) - 150 }

/-- R562: an infinity reads as the largest finite magnitude of its sign, a NaN as +0, each counted in NAN_IN. -/
def fpRead (w : Nat) : FM Fp :=
  if w / 2 ^ 23 % 256 = 255 then do
    cntNan
    if w % 2 ^ 23 = 0 then pure { fpDecode fpMax with neg := bit w 31 } else pure ⟨false, 0, 0⟩
  else pure (fpDecode w)

/-- The word an operand is read as (R562), where the word itself is what is kept. -/
def fpClean (w : Nat) : FM Nat :=
  if w / 2 ^ 23 % 256 = 255 then do
    cntNan
    pure (if w % 2 ^ 23 = 0 then fpMax + (if bit w 31 then 2 ^ 31 else 0) else 0)
  else pure w

/-- `⌊log2 (n / d)⌋` of a positive rational. -/
def ratLog2 (n d : Nat) : Int :=
  let a : Int := (Nat.log2 n : Int) - (Nat.log2 d : Int)
  let below : Bool := if 0 ≤ a then decide (n < d * 2 ^ a.toNat) else decide (n * 2 ^ (-a).toNat < d)
  if below then a - 1 else a

/-- `n / d · 2^e` rounded to the nearest integer, ties to even. -/
def rneScaled (n d : Nat) (e : Int) : Nat :=
  if 0 ≤ e then divRne (n * 2 ^ e.toNat) d else divRne n (d * 2 ^ (-e).toNat)

/-- The FP32 word nearest to `± n / d` (R47): ties to even, subnormals kept, saturating and counted in FP32_SAT. -/
def fpRound (neg : Bool) (n d : Nat) : FM Nat :=
  let s := if neg then 2 ^ 31 else 0
  if n = 0 then pure s
  else
    let q : Int := max (ratLog2 n d - 23) (-149)
    let b : Nat := (q + 149).toNat * 2 ^ 23 + rneScaled n d (-q)
    if b < 0x7F800000 then pure (s + b)
    else do cntFp32; pure (s + fpMax)

/-- The FP32 word nearest to an exact binary value. -/
def fpOfBin (neg : Bool) (m : Nat) (e : Int) : FM Nat :=
  if 0 ≤ e then fpRound neg (m * 2 ^ e.toNat) 1 else fpRound neg m (2 ^ (-e).toNat)

/-- The signed mantissa of a value at a given (not larger) exponent. -/
def fpAt (a : Fp) (e : Int) : Int :=
  let m : Nat := a.man * 2 ^ (a.exp - e).toNat
  if a.neg then -(m : Int) else m

/-- The sum of two values (R47). -/
def fpAddV (a b : Fp) : FM Nat :=
  let e := min a.exp b.exp
  let z := fpAt a e + fpAt b e
  if z = 0 then
    pure (if a.man = 0 ∧ b.man = 0 ∧ a.neg = true ∧ b.neg = true then fpNegZero else 0)
  else fpOfBin (decide (z < 0)) z.natAbs e

def fpAdd (x y : Nat) : FM Nat := do let a ← fpRead x; let b ← fpRead y; fpAddV a b

def fpSub (x y : Nat) : FM Nat := do
  let a ← fpRead x; let b ← fpRead y; fpAddV a { b with neg := !b.neg }

def fpMul (x y : Nat) : FM Nat := do
  let a ← fpRead x; let b ← fpRead y
  fpOfBin (a.neg != b.neg) (a.man * b.man) (a.exp + b.exp)

/-- Division, with the corners of R567, each counted in FP32_SAT. -/
def fpDiv (x y : Nat) : FM Nat := do
  let a ← fpRead x; let b ← fpRead y
  let s := a.neg != b.neg
  if b.man = 0 then do
    cntFp32
    pure (if a.man = 0 then 0 else fpMax + (if s then 2 ^ 31 else 0))
  else
    let e := a.exp - b.exp
    if 0 ≤ e then fpRound s (a.man * 2 ^ e.toNat) b.man else fpRound s a.man (b.man * 2 ^ (-e).toNat)

/-- The order of two values: `a < b`, with +0 and −0 equal (R571). -/
def fpLt (a b : Fp) : Bool :=
  let e := min a.exp b.exp
  decide (fpAt a e < fpAt b e)

/-- The integer square root, by bisection on the bits of the root. -/
def isqrtFrom : Nat → Nat → Nat → Nat
  | 0, _, r => r
  | k + 1, n, r => let t := r + 2 ^ k; if t * t ≤ n then isqrtFrom k n t else isqrtFrom k n r

/-- `⌊√n⌋` of a number below `2^512`. -/
def isqrt (n : Nat) : Nat := isqrtFrom 256 n 0

/-- The reciprocal square root, correctly rounded (R119), with the corners of R567. -/
def fpRsqrt (x : Nat) : FM Nat := do
  let a ← fpRead x
  if a.man = 0 then do
    cntFp32; pure (fpMax + (if a.neg then 2 ^ 31 else 0))
  else if a.neg then do cntFp32; pure 0
  else
    let m := if a.exp % 2 = 0 then a.man else 2 * a.man
    let h : Int := if a.exp % 2 = 0 then a.exp / 2 else (a.exp - 1) / 2
    let q := isqrt (2 ^ 200 / m)
    let n := if q * q * m = 2 ^ 200 then 2 * q else 2 * q + 1
    -- the root lies in [q, q+1) · 2^(-100-h); a half marks an inexact one, far below any rounding boundary
    fpOfBin false n (-101 - h)

/-! ## The transcendental functions (R119)

Each is computed in fixed point with far more bits than an FP32 argument needs to decide the rounding, and rounded
once.  DEDUCED: that the computed value rounds as the exact one does (assumption log). -/

/-- Fraction bits of the fixed-point values below. -/
def fixBits : Nat := 512
def fixOne : Nat := 2 ^ 256 * 2 ^ 256

/-- `⌊π · 2^512⌋`. -/
def fixPi : Nat :=
  0x3243f6a8885a308d313198a2e03707344a4093822299f31d0082efa98ec4e6c89452821e638d01377be5466cf34e90c6cc0ac29b7c97c50dd3f84d5b5b5470917

/-- A magnitude in fixed point, truncated. -/
def fixOf (a : Fp) : Nat :=
  let e := a.exp + 512
  if 0 ≤ e then a.man * 2 ^ e.toNat else a.man / 2 ^ (-e).toNat

/-- `Σ t·x^i/(i+1)/(i+2)/…`: the exponential series from term `t`, `n` terms, at index `i`. -/
def expSeries : Nat → Nat → Nat → Nat → Nat
  | 0, _, _, _ => 0
  | n + 1, i, x, t => t + expSeries n (i + 1) x (t * x / fixOne / (i + 1))

/-- Square a fixed-point value `n` times. -/
def fixSquares : Nat → Nat → Nat
  | 0, v => v
  | n + 1, v => fixSquares n (v * v / fixOne)

/-- `exp` of a fixed-point magnitude. -/
def fixExp (x : Nat) : Nat := fixSquares 8 (expSeries 100 0 (x / 256) fixOne)

def fpExp (x : Nat) : FM Nat := do
  let a ← fpRead x
  if a.man = 0 then pure fpOne
  else
    let f := fixOf a
    if a.neg then (if 110 * fixOne < f then pure 0 else fpRound false fixOne (fixExp f))
    else (if 90 * fixOne < f then do cntFp32; pure fpMax else fpRound false (fixExp f) fixOne)

/-- The alternating series `t − t·x²/(i(i+1)) + …` of sine (`i = 2`) and cosine (`i = 1`). -/
def trigSeries : Nat → Nat → Nat → Int → Int
  | 0, _, _, _ => 0
  | n + 1, i, x2, t => t + trigSeries n (i + 2) x2 (-(t * x2 / fixOne / ((i * (i + 1) : Nat) : Int)))

/-- A magnitude reduced into `[0, 2π)`. -/
def fixMod2Pi (f : Nat) : Nat := f % (2 * fixPi)

/-- Sine of a fixed-point magnitude. -/
def fixSin (f : Nat) : Int :=
  let r := fixMod2Pi f
  trigSeries 100 2 (r * r / fixOne) r

def fixCos (f : Nat) : Int :=
  let r := fixMod2Pi f
  trigSeries 100 1 (r * r / fixOne) fixOne

def fpSin (x : Nat) : FM Nat := do
  let a ← fpRead x
  if a.man = 0 then pure (if a.neg then fpNegZero else 0)
  else
    let z := fixSin (fixOf a)
    fpRound (a.neg != decide (z < 0)) z.natAbs fixOne

def fpCos (x : Nat) : FM Nat := do
  let a ← fpRead x
  let z := fixCos (fixOf a)
  fpRound (decide (z < 0)) z.natAbs fixOne

/-- `Σ (−1)^i x^(2i) / (i! (2i+1))` from the power term `t` at index `i`. -/
def erfSeries : Nat → Nat → Nat → Int → Int
  | 0, _, _, _ => 0
  | n + 1, i, x2, t =>
    t / ((2 * i + 1 : Nat) : Int) + erfSeries n (i + 1) x2 (-(t * x2 / fixOne / ((i + 1 : Nat) : Int)))

def fpErf (x : Nat) : FM Nat := do
  let a ← fpRead x
  if a.man = 0 then pure (if a.neg then fpNegZero else 0)
  else
    let f := fixOf a
    if 6 * fixOne < f then pure (fpOne + (if a.neg then 2 ^ 31 else 0))
    else
      let s := (erfSeries 250 0 (f * f / fixOne) fixOne).natAbs
      let twoOverRootPi := 2 * fixOne * 2 ^ 256 / isqrtFrom 520 (fixPi * fixOne) 0
      -- x · s · 2/√π, with x exact so that small arguments keep their relative precision
      let n := a.man * s * twoOverRootPi
      let e := a.exp - 512 - 256
      if 0 ≤ e then fpRound a.neg (n * 2 ^ e.toNat) 1 else fpRound a.neg n (2 ^ (-e).toNat)

/-- `silu(x) = x × (1 / (1 + exp(−x)))` (R119). -/
def fpSilu (x : Nat) : FM Nat := do
  let x ← fpClean x
  let e ← fpExp (if bit x 31 then x - 2 ^ 31 else x + 2 ^ 31)
  let d ← fpAdd fpOne e
  let r ← fpDiv fpOne d
  fpMul x r

/-- `gelu(x) = (0.5 × x) × (1 + erf(x × 0x3F35_04F3))` (R119). -/
def fpGelu (x : Nat) : FM Nat := do
  let x ← fpClean x
  let h ← fpMul 0x3F000000 x
  let t ← fpMul x 0x3F3504F3
  let e ← fpErf t
  let o ← fpAdd fpOne e
  fpMul h o

/-! ## Reductions (R120, R571) -/

/-- Elements `l, l+128, …` of a list of at most `n·128` elements, accumulated from +0 (R120 step 1). -/
def laneSum : Nat → List Nat → Nat → FM Nat
  | 0, _, acc => pure acc
  | n + 1, xs, acc =>
    match xs with
    | [] => pure acc
    | x :: _ => do let a ← fpAdd acc x; laneSum n (xs.drop 128) a

/-- One level of the pairwise tree (R120 step 2). -/
def pairSums : List Nat → FM (List Nat)
  | a :: b :: t => do let c ← fpAdd a b; let r ← pairSums t; pure (c :: r)
  | l => pure l

/-- `n` levels of the pairwise tree. -/
def treeSum : Nat → List Nat → FM (List Nat)
  | 0, l => pure l
  | n + 1, l => do let m ← pairSums l; treeSum n m

/-- The fixed-order sum of R120. -/
def fpSum (xs : List Nat) : FM Nat := do
  let lanes ← fmMap (fun l => laneSum (xs.length / 128 + 1) (xs.drop l) 0) (upFrom 0 128)
  let r ← treeSum 7 lanes
  pure (r.headD 0)

/-- The larger of a held word and the next one: a tie keeps the held, which has the lower index (R571). -/
def fpMaxStep (held : Nat) (x : Nat) : FM Nat := do
  let a ← fpRead held; let y ← fpClean x; let b ← fpRead y
  pure (if fpLt a b then y else held)

/-- The maximum of a vector (R571); +0 for an empty one. -/
def fpMaximum : List Nat → FM Nat
  | [] => pure 0
  | x :: t => do let y ← fpClean x; fmFold fpMaxStep y t

/-- `(index, word)` pairs of a vector in order of falling value, ties to the lower index (R118 TOPK, R571). -/
def fpRanked (xs : List Nat) : FM (List (Nat × Nat)) := do
  let ys ← fmMap fpClean xs
  let le := fun (a b : Nat × Nat) =>
    let x := fpDecode a.2; let y := fpDecode b.2
    fpLt y x || (!(fpLt x y) && decide (a.1 ≤ b.1))
  pure (sortBy le ((upFrom 0 ys.length).zip ys))

/-! ## Narrow elements and blocks -/

/-- The doubled magnitude q of the low three bits of an FP4 element (R37). -/
def fp4Mag (b : Nat) : Nat :=
  match b % 8 with
  | 0 => 0 | 1 => 1 | 2 => 2 | 3 => 3 | 4 => 4 | 5 => 6 | 6 => 8 | _ => 12

/-- The low three bits whose doubled magnitude is `q`. -/
def fp4Code (q : Nat) : Nat :=
  if q ≤ 4 then q else if q = 6 then 5 else if q = 8 then 6 else 7

/-- The signed integer an element stands for: q for FP4 (R37, R38), k for INT4 (R39, −8 read as −7), and units of
2^−9 for FP8 (R40, a NaN code read as ±448). -/
def elemInt (f : NFmt) (b : Nat) : Int :=
  match f with
  | .fp4 => let q : Int := fp4Mag b; if bit b 3 then -q else q
  | .int4 => if b % 16 = 8 then -7 else sext 4 b
  | .fp8 =>
    let e := b / 8 % 16
    let m := b % 8
    let u : Nat := if b % 128 = 127 then 448 * 512 else if e = 0 then m else (8 + m) * 2 ^ (e - 1)
    if bit b 7 then -(u : Int) else u

/-- The code of a magnitude in the format's own units, with a sign; zero is written without one (R38, R40). -/
def elemCode (f : NFmt) (neg : Bool) (y : Nat) : Nat :=
  if y = 0 then 0
  else match f with
    | .fp4 => fp4Code y + (if neg then 8 else 0)
    | .int4 => if neg then 16 - y else y
    | .fp8 =>
      let c := if y < 8 then y else
        let k := Nat.log2 y - 3
        (k + 1) * 8 + (y / 2 ^ k - 8)
      c + (if neg then 128 else 0)

/-- Planes of an activation format, highest first (R63). -/
def planesOf (f : NFmt) : List Nat :=
  match f with
  | .int4 => [2, 1, 0]
  | _ => [3, 2, 1, 0]

/-- `f` of R43: 1 for an FP4 operand. -/
def fp4Bit (f : NFmt) : Nat :=
  match f with
  | .fp4 => 1
  | _ => 0

/-- emax of R50. -/
def emaxOf (f : NFmt) : Int :=
  match f with
  | .fp8 => 8
  | _ => 2

/-- The largest magnitude of a format in its own units (R51). -/
def largestOf (f : NFmt) : Nat :=
  match f with
  | .fp4 => 12
  | .int4 => 7
  | .fp8 => 448 * 512

/-- The exponent of the format's own unit: FP4 counts halves, INT4 ones, FP8 2^−9. -/
def unitExp (f : NFmt) : Int :=
  match f with
  | .fp4 => -1
  | .int4 => 0
  | .fp8 => -9

/-- The spacing exponent of the unbounded grid of R50 at a value whose leading bit has exponent `k`. -/
def gridExp (f : NFmt) (k : Int) : Int :=
  match f with
  | .fp4 => max k 0 - 1
  | .int4 => 0
  | .fp8 => max k (-6) - 3

/-- A magnitude `m · 2^e` rounded on the unbounded grid, in the format's own units. -/
def roundGrid (f : NFmt) (m : Nat) (e : Int) : Nat :=
  if m = 0 then 0
  else
    let sp := gridExp f ((Nat.log2 m : Int) + e)
    rneScaled m 1 (e - sp) * 2 ^ (sp - unitExp f).toNat

/-- A block: its E8M0 code and its 32 element codes. -/
structure Block where
  code  : Nat
  elems : List Nat
  deriving DecidableEq, Repr

/-- The zero block (R52). -/
def zeroBlock : Block := ⟨0, List.replicate 32 0⟩

/-- Conversion of 32 FP32 values to a block (R50, R52 to R54). -/
def toBlock (f : NFmt) (xs : List Nat) : FM Block := do
  let vs ← fmMap fpRead xs
  let top := vs.foldl (fun (a : Fp) b => if fpLt { a with neg := false } { b with neg := false } then b else a) ⟨false, 0, 0⟩
  if top.man = 0 then do
    cntZero
    pure ⟨0, List.replicate xs.length 0⟩
  else
    let c0 : Int := (Nat.log2 top.man : Int) + top.exp - emaxOf f + 127
    if c0 < 0 then cntUnder
    let c : Int := max c0 0
    let ys := vs.map (fun v => roundGrid f v.man (v.exp - (c - 127)))
    if ys.any (fun y => decide (largestOf f < y)) then cntSat
    pure ⟨c.toNat, (vs.zip ys).map (fun p => elemCode f p.1.neg (min p.2 (largestOf f)))⟩

/-- Lists cut into pieces of `n`, the last one filled with `d` (R42). -/
def chunks {α : Type} (n : Nat) (d : α) : Nat → List α → List (List α)
  | 0, _ => []
  | k + 1, l => (l.take n ++ List.replicate (n - (l.take n).length) d) :: chunks n d k (l.drop n)

/-- A vector of FP32 words converted block by block, padded (R42, R50). -/
def toBlocks (f : NFmt) (xs : List Nat) : FM (List Block) :=
  fmMap (toBlock f) (chunks 32 0 (cdiv xs.length 32) xs)

/-- The exact FP32 value of an integer times a power of two (R43). -/
def scaleInt (s : Int) (e : Int) : FM Nat := fpOfBin (decide (s < 0)) s.natAbs e

/-- A narrow element widened to FP32 with its scale (R43 with one operand, R118 DEQ), NaN codes counted (R40). -/
def widen (f : NFmt) (code : Nat) (b : Nat) : FM Nat := do
  if f = .fp8 ∧ b % 128 = 127 then cntNan
  scaleInt (elemInt f b) ((code : Int) - 127 + unitExp f)

/-- The block product integer of R43. -/
def dotInt (a b : List Int) : Int := (a.zip b).foldl (fun s p => s + p.1 * p.2) 0

/-- A block product as FP32 (R43). -/
def blockProduct (fa fb : NFmt) (ca cb : Nat) (a b : List Int) : FM Nat :=
  scaleInt (dotInt a b) ((ca : Int) + cb - 254 - (fp4Bit fa + fp4Bit fb : Nat))

/-- FP32 words added in order, the first taken as the starting value (R91). -/
def sumInOrder : List Nat → FM Nat
  | [] => pure 0
  | x :: t => fmFold fpAdd x t

/-- An element of the smaller-scaled block of a pair divided by `2^d` and rounded by R50 (R45). -/
def alignElem (f : NFmt) (d : Nat) (z : Int) : Int :=
  let y := roundGrid f z.natAbs (unitExp f - d)
  if z < 0 then -(y : Int) else y

/-- A pair of activation blocks aligned to the larger scale code (R45); ALIGN_BLOCKS counts a pair with loss. -/
def alignPair (f : NFmt) (ca cb : Nat) (a b : List Int) : FM (Nat × List Int × List Int) := do
  let a' := if ca < cb then a.map (alignElem f (cb - ca)) else a
  let b' := if cb < ca then b.map (alignElem f (ca - cb)) else b
  let lossA := (a.zip a').any (fun p => !decide (p.1 = p.2 * (2 ^ (cb - ca) : Nat)))
  let lossB := (b.zip b').any (fun p => !decide (p.1 = p.2 * (2 ^ (ca - cb) : Nat)))
  if lossA || lossB then cntAlign
  pure (max ca cb, a', b')

/-- Element codes of a narrow vector's bytes (R41). -/
def unpackElems (f : NFmt) (bytes : List Nat) : List Nat :=
  match f with
  | .fp8 => bytes
  | _ => bytes.flatMap (fun b => [b % 16, b / 16 % 16])

/-- The bytes of element codes (R41). -/
def packElems (f : NFmt) : List Nat → List Nat
  | [] => []
  | [a] => match f with
    | .fp8 => [a]
    | _ => [a % 16]
  | a :: b :: t => match f with
    | .fp8 => a :: packElems f (b :: t)
    | _ => (a % 16 + 16 * (b % 16)) :: packElems f t

/-- Element bytes of one block. -/
def blockBytes (f : NFmt) : Nat :=
  match f with
  | .fp8 => 32
  | _ => 16

end Sys2Proof.Machine
end

