-- ==== Sys2Proof/Machine/State.lean ====
section
/-! DEFINITION. The state of the part, as plain data.  The register file holds every register field; the structures
below hold what no register shows (memories, queues, tables, transfers in progress).  Reset values that the spec does
not give are named in the assumption log. -/
namespace Sys2Proof.Machine

/-! ### Tiles, engines, scratchpads (chapters 5 and 6) -/

/-- A routed expert copy held by a gather (R123): its batch slot and choice index, the vector index its result goes back
to at the origin, where it came from, the ROUTE's position in the origin's program, its bytes. -/
structure GatherCopy where
  slot   : Nat
  choice : Nat
  back   : Nat
  origin : Place
  index  : Nat
  bytes  : List Nat
  deriving DecidableEq, Repr

/-- A receive of a tile: posted by RCV POST or RCV GATHER (R152, R123).  `gen` is slot 0's generation when posted
(R147).  `arrived` lists the lines written so far.  `placed` is the gather record: the copy of each position. -/
structure Recv where
  tag     : Nat
  line    : Nat
  lines   : Nat
  stride  : Nat
  gen     : Nat
  retain  : Bool
  gather  : Bool
  cap     : Nat
  sources : Nat
  arrived : List Nat
  copies  : List GatherCopy
  ends    : List Place
  placed  : List GatherCopy
  dropped : List GatherCopy
  done    : Bool
  deriving DecidableEq, Repr

/-- A range of scratchpad lines counted within slot 0. -/
structure LineRange where
  first : Nat
  count : Nat
  deriving DecidableEq, Repr

/-- An issued instruction that has not completed (R114).  `tag` is the send tag whose acknowledgement is awaited
(`acks` lines still out) and `replica` marks an ARR that awaits replica service (R130, R412). -/
structure Issued where
  unit    : EUnit
  index   : Nat
  reads   : List LineRange
  writes  : List LineRange
  replica : Bool
  deriving DecidableEq, Repr

/-- A send whose delivery acknowledgement has not come (R154): the instruction, its destination, its lines left. -/
structure Outstanding where
  index : Nat
  dest  : Place
  lines : Nat
  deriving DecidableEq, Repr

/-- What holds the issue stage (R121, R122, R152, R155).  A peg's arrival is posted once the tile has drained. -/
inductive Hold where
  | none
  | beat (offset : Nat)
  | cycles (count : Nat)
  | recv (tag : Nat)
  | peg (scope pegId : Nat) (posted : Bool)
  deriving DecidableEq, Repr

/-- A welt entry (R85). -/
structure WeltEntry where
  stuck    : Bool
  board    : Nat
  row      : Nat
  column   : Nat
  scale    : Nat
  residual : Int
  deriving DecidableEq, Repr

/-- A line waiting in a tile's delivery buffer (R151): the slot it is for, the tag of its receive (or the line it names
where no receive carries it), its index, the generation it carries, who
sent it (and by which instruction, of how many lines in all), its replay count, and the off-die holder whose credit it
uses (8 for none, R203). -/
structure Buffered where
  slot   : Nat
  tag    : Nat
  index  : Nat
  gen    : Nat
  direct : Bool
  src    : Place
  sender : Nat
  total  : Nat
  replay : Nat
  holder : Nat
  bytes  : List Nat
  deriving DecidableEq, Repr

/-- Lines of a send that have been written so far at its receiver (R154). -/
structure Partial where
  src   : Place
  index : Nat
  lines : Nat
  deriving DecidableEq, Repr

/-- A retained range named by CHK RETAIN (R135). -/
structure Carried where
  first : Nat
  lines : Nat
  deriving DecidableEq, Repr

/-- A window of the accepted list (R183, R193): kind 0 COMPUTE, 1 PROGRAM, 2 TRUING. -/
structure Win where
  board  : Nat
  kind   : Nat
  every  : Bool
  phase  : Nat
  start  : Nat
  length : Nat
  gear   : Nat
  deriving DecidableEq, Repr

/-- A DRIFT outcome that waits for its commit (R382): the local board, and the columns with a mismatch in the +MARGIN
and in the −MARGIN drive. -/
structure DriftMark where
  loc   : Nat
  plus  : List Nat
  minus : List Nat
  deriving DecidableEq, Repr

/-- A tile: its engine, its scratchpad, its welt table and its insole arrays. -/
structure Tile where
  /-- Program words: bank · 16384 + index. -/
  prog      : Map Nat
  /-- The send tags of the cutting list's TAGS sections: bank · 16384 + index. -/
  sendTag   : Map Nat
  /-- The address registers X0…X15 (R110), unlisted 0. -/
  xregs     : Map Nat
  /-- The batch table of the step in progress (R109, R298), by slot; and the copy for the step that starts next. -/
  batch     : Map BatchSlot
  recvs     : List Recv
  issued    : List Issued
  sends     : List Outstanding
  hold      : Hold
  /-- CHK DONE has issued (R112). -/
  ending    : Bool
  retained  : List Carried
  carried   : List Carried
  /-- Strokes charged to the reserve in the current run (R128, R131). -/
  charged   : Nat
  /-- A task start waits for the tag clear (R146). -/
  wrapWait  : List Nat
  /-- Scratchpad bytes by line · 32 + byte, unlisted 0. -/
  mem       : Memory
  /-- Symbol errors in a line's codeword (R139), as the array holds it; unlisted none. -/
  symErr    : Map Nat
  /-- Tags by unit: GEN · 256 + MASK (R144), unlisted 0. -/
  tags      : Map Nat
  /-- Tag units whose two copies differ (R145). -/
  tagSplit  : List Nat
  buffer    : List Buffered
  /-- Sends whose lines are arriving here. -/
  partials  : List Partial
  /-- k of the VEC TOPK that wrote a list, by the list's line (R118, R123). -/
  topk      : Map Nat
  scrubRow  : Nat
  welt      : List WeltEntry
  weltStandby : List WeltEntry
  /-- The ranking result staged for the next step boundary (R96). -/
  weltStaged  : Option (List WeltEntry)
  /-- Waived pairs: board · 524288 + row · 512 + column (R94), and those of the standby table. -/
  waived    : List Nat
  waivedStandby : List Nat
  /-- The degraded mark of the standby table, in effect at its flip (R94). -/
  standbyDegraded : Bool
  droppedOutliers : Nat
  droppedStandby  : Nat
  /-- Insole slot contents: (array · 32 + position) · 8192 + cell → code (R97, R98), and scale codes. -/
  insole      : Map Nat
  insoleScale : Map Nat
  /-- Insole reservations per local board (R104) and stand-in costs (R128), set with the cutting list. -/
  insoleRes : Map Nat
  /-- Row-group codes of the accepted BOARDS words (R191), unlisted 3. -/
  used      : Map Nat
  /-- Boards marked for truing by a DRIFT outcome (R134). -/
  driftMarks : List DriftMark
  /-- Windows of the accepted list (R193). -/
  windows   : List Win
  deriving DecidableEq, Repr

/-- A board's stored content: the pattern shadow's weight codes (row · 512 + column) and scale codes (block · 512 +
column) with the ladders of its copies (R342), and the state held when the present window began (R80). -/
structure Board where
  codes    : Map Nat
  scales   : Map Nat
  ladderL  : List Nat
  ladderU  : List Nat
  before   : Nat
  /-- It has passed a truing since power-on (R80, R386). -/
  trued    : Bool
  deriving DecidableEq, Repr

/-! ### Fabric and tack network (chapter 8) -/

/-- What a mesh packet carries (R200, R201): lines for a receive tag (or, `direct`, for lines of a slot), an append for
a CTX station (R265), a routed copy or an end marker (R123). -/
inductive PktBody where
  | lines (slot tag first : Nat) (direct : Bool) (gen : Nat) (data : List (List Nat))
  | append (pair : Nat) (value : Bool) (slot : BatchSlot) (data : List Nat)
  | copy (tag slot choice back : Nat) (data : List Nat)
  | endMark (tag : Nat)
  deriving DecidableEq, Repr

/-- A packet on the mesh, or waiting at a torus station for its destination package. -/
structure Packet where
  src    : Place
  dest   : Place
  step   : Nat
  replay : Nat
  index  : Nat
  total  : Nat
  vl     : Nat
  detour : Bool
  body   : PktBody
  deriving DecidableEq, Repr

/-- A delivery acknowledgement on its way to a sender (R154, R207, R231): to and from which place, the sending
instruction, the send's tag, its step and replay count. -/
structure AckRec where
  dst    : Place
  src    : Place
  index  : Nat
  tag    : Nat
  step   : Nat
  replay : Nat
  deriving DecidableEq, Repr

/-- A point-to-point tack message (R207), addressed within the package: die, and tile or 0x7E or 0x7F. -/
inductive TackMsg where
  | ack (a : AckRec)
  | credit (tile holder lines : Nat)
  | late (die tile step : Nat)
  | fault (die cls unit replay cause : Nat)
  | order (die tile code step : Nat)
  deriving DecidableEq, Repr

/-- An arrival held at the root of a peg scope (R208, R209): scope 1 HALF, 2 DIE, 3 PACKAGE, 4 JOB; `root` is the half
index, the die, or 0; `tile` is the global tile number; `check` is the 7-bit check of R208. -/
structure PegArrival where
  scope : Nat
  root  : Nat
  tile  : Nat
  check : Nat
  deriving DecidableEq, Repr

/-- A die-to-die edge's training state (R214). -/
structure Edge where
  fails  : Nat
  rejoin : Bool
  deriving DecidableEq, Repr

/-! ### Time, cutting list and steps (chapter 7) -/

/-- A package of the job (R189): its node, the port toward its parent (7 for the head), whether the hop crosses racks. -/
structure JobEntry where
  node   : Nat
  parent : Nat
  cross  : Bool
  deriving DecidableEq, Repr

/-- A group record of the accepted list's PATHS section (R237). -/
structure PathGroup where
  port   : Nat
  group  : Nat
  lanes  : Nat
  enc    : Bool
  peer   : Nat
  latMax : Nat
  w1     : Nat
  w2     : Nat
  w3     : Nat
  deriving DecidableEq, Repr

/-- What the sequencer holds besides its registers. -/
structure Sequencer where
  /-- The packages of the accepted list's JOB section, and the head's and tail's indices (R189). -/
  jobs      : List JobEntry
  headIx    : Nat
  tailIx    : Nat
  paths     : List PathGroup
  /-- The last offsets of each port's link, newest last, 16 at most (R166). -/
  offsets   : Map (List Int)
  /-- θ latched at the arrival at the commit peg, and whether that arrival carried SLIP (R167). -/
  latched   : Int
  slip      : Bool
  /-- Consecutive sync misses (R162). -/
  misses    : Nat
  /-- The gears of the next two steps (R177), and a gear order the head has not yet announced. -/
  gearSoon  : Nat
  gearLater : Nat
  gearOrder : Option Nat
  /-- The last step that a stop order names (R175). -/
  stopAt    : Option Nat
  /-- S(k + 1) in head time, once step k has committed (R171). -/
  next      : Option Nat
  /-- The next step's STEP_START has been posted (R210). -/
  posted    : Bool
  /-- JOB arrivals taken from children, by port (R209, R231). -/
  pegsIn    : List (Nat × PegMsg)
  /-- Head: the commit message on its way to the head's own tiles (R171). -/
  commitOwn : Option CommitMsg
  /-- Head: the flip orders that the next commit message carries (R366). -/
  flips     : List Flip
  /-- The commit came too late: the package does not run the step (R174). -/
  skip      : Bool
  /-- The step at which gear advice was last reported (R179). -/
  advisedAt : Option Nat
  deriving DecidableEq, Repr

/-! ### Torus ports (chapter 9) -/

/-- A lane group's link (R232, R233, R245, R246), but for what its registers show. -/
structure Link where
  /-- Flits that wait to be sent, oldest first, of all virtual lanes. -/
  queue    : List Flit
  /-- Flits sent and not acknowledged, with their SEQ, oldest first; and those to be sent again. -/
  unacked  : List (Nat × Flit)
  resend   : List (Nat × Flit)
  txSeq    : Nat
  rxSeq    : Nat
  /-- Credit left and credit to return, per virtual lane (R233). -/
  credit   : List Nat
  owed     : List Nat
  /-- Round robin of VL1 to VL3: the lane whose turn it is and the flits it may still take (R232). -/
  turn     : Nat
  left     : Nat
  /-- A NAK, or an ACK, is to be reported in the next header (R246). -/
  nak      : Bool
  ackDue   : Bool
  /-- SEQ of the flit last asked for again, and how many times (R246). -/
  failing  : Nat
  fails    : Nat
  /-- Failed trainings in a row (R244); up again and waiting for the next step boundary (R246). -/
  trainFails : Nat
  rejoin   : Bool
  /-- Latency samples of the echoes of a training (R245), in 1/256 reference cycle. -/
  echoes   : List Nat
  /-- What the peer said of itself in training (R241). -/
  peer     : Option TrainMsg
  /-- SEQ values assigned since the send key was installed (R247). -/
  count    : Nat
  /-- The flit on the lanes now; none is IDLE. -/
  line     : Option Flit
  deriving DecidableEq, Repr

/-- A routed copy whose flits arrive one by one at a station (R230). -/
structure CopyPart where
  delivery : Delivery
  origin   : Origin
  idx      : Nat
  rec_     : CopyRec
  lines    : List (Nat × List Nat)
  deriving DecidableEq, Repr
/-! ### Faults and recovery (chapter 15) -/

/-- A replica service asked for: tile, ARR position, the beat of the request, and the address registers as the ARR found
them (R412). -/
structure ReplicaOut where
  tile  : Nat
  index : Nat
  sent  : Nat
  xregs : Map Nat
  deriving DecidableEq, Repr

/-- A replica service this package computes for another (R412). -/
structure ReplicaServe where
  req  : ReplicaReq
  span : Nat
  spans : Nat
  afmt : NFmt
  deriving DecidableEq, Repr

/-- An entry of a die's fault queue (R404, R426). -/
structure FaultEntry where
  cls    : Nat
  index  : Nat
  replay : Nat
  cause  : Nat
  step   : Nat
  deriving DecidableEq, Repr

/-- An entry of the replica table that waits for the next step boundary (R411). -/
structure ReplicaEntry where
  node : Nat
  crc  : Nat
  deriving DecidableEq, Repr

/-! ### Event recorder (chapter 17) -/

/-- A record of R453, all but its sequence number's two copies and its CRC, which follow from it. -/
structure EvrRecord where
  seq      : Nat
  cls      : Nat
  severity : Nat
  flags    : Nat
  beat     : Nat
  die      : Nat
  opsec    : Nat
  cycles   : Nat
  step     : Nat
  job      : Nat
  replay   : Nat
  detail   : List Nat
  snapshot : List (Nat × Nat)
  deriving DecidableEq, Repr

/-- What a logbook slot holds (R457, R461).  The words of a torn slot are the model's free values from a base. -/
inductive LogContent where
  | empty
  | whole (r : EvrRecord)
  | torn (base : Nat)
  deriving DecidableEq, Repr

/-- A logbook slot: content, the write count of R458, and whether it is retired. -/
structure LogSlot where
  content : LogContent
  retired : Bool
  writes  : Nat
  deriving DecidableEq, Repr

/-- A die's recorder (R449 to R465), but for what its registers hold. -/
structure Recorder where
  /-- Captured snapshots that wait to enter the buffer (R452). -/
  staging : List EvrRecord
  /-- The buffer: slot → record and its stored flag (R456). -/
  ring    : Map (EvrRecord × Bool)
  /-- Ring slot of the next record. -/
  next    : Nat
  /-- A record has been lost since the last one stored (R453). -/
  gap     : Bool
  /-- Records stored by the running flush; it was started by PFAIL_N (R459, R460). -/
  stored  : Nat
  pfail   : Bool
  /-- The sequence number of a seek that runs (R465). -/
  seek    : Option Nat
  deriving DecidableEq, Repr
/-! ### Context store (chapter 10) -/

/-- A page-table entry (R263): the frame, SHARED, and whether the frame is under the group's key (R269, R303). -/
structure PageEntry where
  frame   : Nat
  shared  : Bool
  grouped : Bool
  deriving DecidableEq, Repr

/-- A request descriptor with its page table (R263): entries by page; page-table blocks by BLOCK
index. -/
structure CtxDesc where
  state   : Nat
  tenant  : Nat
  request : Nat
  commit  : Nat
  group   : Option Nat
  handle  : Nat
  entries : Map PageEntry
  blocks  : Map Nat
  deriving DecidableEq, Repr

/-- A frame: its holders, and whether it waits to be zeroed (R267, R268). -/
structure Frame where
  refs  : Nat
  dirty : Bool
  deriving DecidableEq, Repr

/-- A page-out or page-in of one context on one die (R271, R272): the images still out, how often each was fetched
again, and the pages in all. -/
structure Paging where
  out     : Bool
  waiting : List Nat
  retries : Map Nat
  pages   : Nat
  deriving DecidableEq, Repr

/-- A prefix entry (R302): hash (0 but at the head), owner, block index, the entry of the block before it, step of last
use, the handle that pins it, and its frame on each die. -/
structure PrefixEntry where
  hash     : Nat
  isGroup  : Bool
  owner    : Nat
  pinned   : Bool
  depth    : Nat
  parent   : Nat
  lastStep : Nat
  handle   : Nat
  frames   : Map Nat
  deriving DecidableEq, Repr
/-! ### Serving (chapters 11 and 12) -/

/-- Both directions of a reliable stream (R284): the next SEQ expected, messages held beyond it; the next SEQ to send,
messages not acknowledged with the retransmissions made; an ACK is due. -/
structure Stream where
  rxNext  : Nat
  held    : List (TnpIn × TnpBody)
  txNext  : Nat
  unacked : List (Tnp × Nat)
  ackDue  : Bool
  deriving DecidableEq, Repr

/-- A gateway session at the head (R287). -/
structure Session where
  peer    : Peer
  gateway : Nat
  stream  : Stream
  deriving DecidableEq, Repr

/-- A gateway session at the tail (R299, R311): its step packets kept, oldest first, and the last one acknowledged. -/
structure TailSession where
  peer    : Peer
  packets : List (Nat × List StepEntry × Nat)
  acked   : Option Nat
  /-- The latest step whose packet has left the window. -/
  gone    : Option Nat
  deriving DecidableEq, Repr

/-- What the tail knows of a context: its session and request (R299), and that its turn has ended. -/
structure TailContext where
  session : Nat
  request : Nat
  ended   : Bool
  deriving DecidableEq, Repr

/-- A request at the head (R289 to R307, R320, R329). -/
structure Request where
  request  : Nat
  tenant   : Nat
  group    : Option Nat
  session  : Nat
  /-- 0 QUEUED, 1 RUNNING, 2 IDLE, 3 REMOTE (R289). -/
  state    : Nat
  priority : Nat
  serial   : Nat
  keep     : Bool
  stopOnSwitch : Bool
  maxTokens : Nat
  seed     : Nat
  params   : SampParams
  /-- Tokens the turn feeds, from position `base` on; the next position to take a slot; COMMIT as the head knows it. -/
  feed     : List Nat
  base     : Nat
  next     : Nat
  commit   : Nat
  emitted  : Nat
  /-- The turn has taken no slot yet (R320); the request has not been bound yet (R299). -/
  fresh    : Bool
  unbound  : Bool
  /-- The last emitted token. -/
  last     : Option Nat
  admitBeat : Nat
  firstBeat : Option Nat
  lastBeat : Option Nat
  worst    : Nat
  overN     : Nat
  /-- The deadline in force; the one in force when the running step began; the one whose policy is due, and the one it
  was last applied for (R306, R307). -/
  deadline : Option Nat
  inForce  : Option Nat
  due      : Bool
  applied  : Option Nat
  /-- Causes of an end that take effect at the next close (R308). -/
  ends     : List Nat
  /-- Marked for resume with the COMMIT of its handle (R420). -/
  marked   : Option Nat
  /-- It took slots in the step formed last (R329). -/
  tookLast : Bool
  /-- Chain hashes of the prompt's full blocks, those of them reused, the next one to publish, the first written under
  the present generation (R301 to R303, R371). -/
  hashes   : List Nat
  reused   : Nat
  publish  : Nat
  clean    : Nat
  /-- The handle to pin under (R304); the pinned pages it starts from. -/
  pin      : Option Nat
  pinned   : List Nat
  /-- Prefix entries it maps, and its own pages on one die (R297). -/
  maps     : List Nat
  pages    : Nat
  deriving DecidableEq, Repr

/-- A partly received message (R283): what its segments share, the bytes of the segments held by index, and the index of
the last one when it has come. -/
structure PartMsg where
  src     : Peer
  typ     : Nat
  session : Nat
  seq     : Nat
  request : Nat
  segs    : Map Nat
  last    : Option Nat
  deriving DecidableEq, Repr

/-- The SERVE section of the accepted list (R295). -/
structure Serve where
  batchMax   : Nat
  prefillMax : Nat
  close      : List Nat
  attnBudget : Nat
  stepKeep   : Nat
  zeroSteps  : Nat
  tailAddr0  : Nat
  tailAddr1  : Nat
  deriving DecidableEq, Repr

/-- A tenant's standing: the last TENANT order in effect (R314). -/
abbrev Tenant := TenantOrder

/-- What the package holds for serving besides its registers. -/
structure Serving where
  serve      : Serve
  sessions   : Map Session
  control    : Stream
  /-- Source of the last control message: where the control stream goes. -/
  orch       : Option Peer
  parts      : List PartMsg
  tenants    : Map Tenant
  tenantNext : Map Tenant
  /-- Requests at the head, by context index, and the reuse count of each index (R289). -/
  requests   : Map Request
  reuse      : Map Nat
  serials    : Nat
  /-- Orders for the next broadcast (R299), and the entries that its DROP orders are for. -/
  orders     : List Order
  evicted    : List (Nat × PrefixEntry)
  /-- Pages released, with the step from which they count as free (R297), and FRAMES_MIN of the start order. -/
  released   : List (Nat × Nat)
  framesMin  : Nat
  /-- Admission has closed for this step number. -/
  closed     : Option Nat
  /-- Deliveries held for the next step, and the batch of the current one. -/
  batchIn    : Option Broadcast
  paramsIn   : Option (Nat × List SamplerRec)
  resultsIn  : Option (Nat × List ResultRec)
  batch      : Broadcast
  /-- Tail: contexts, sessions, draws of the run by slot, END entries that wait for a packet. -/
  contexts   : Map TailContext
  tail       : Map TailSession
  draws      : Map Nat
  /-- Tail: the step that a context's slots are discarded in, formed before its RESUBMIT was known (R409, R420). -/
  skips      : Map Nat
  /-- Beat of the last commit, in head time (R305). -/
  commitBeat : Nat
  endsDue    : List (Nat × Nat × Nat)
  deriving DecidableEq, Repr
/-! ### Patterns, loads, truing (chapters 13 and 14) -/

/-- A board's wear record (R363). -/
structure Wear where
  count  : Nat
  genL   : Nat
  genU   : Nat
  validL : Bool
  validU : Bool
  deriving DecidableEq, Repr

/-- What the part keeps of a pattern besides the boards' shadows (R339 to R343): header fields, the DESCRIPTOR body, the
ROWGROUP of each board that is not UNUSED, the KV map by die, and the EMBED and CONST bodies. -/
structure Pattern where
  gen    : Nat
  layout : Nat
  dual   : Bool
  desc   : List Nat
  groups : Map Nat
  kv     : Map (List (Nat × Nat))
  embed  : List Nat
  consts : Map (List Nat)
  deriving DecidableEq, Repr

/-- A board's share of a pattern load (R355 to R359): the copy written, its rows, the next row, the rows that are not
pulsed, the row being programmed; whether the load has been counted, the rows read back, whether the board has been
trued for it, whether the copy is VALID. -/
structure BoardLoad where
  up      : Bool
  rows    : Nat
  next    : Nat
  skip    : List Nat
  busy    : Bool
  counted : Bool
  readAt  : Nat
  trued   : Bool
  done    : Bool
  deriving DecidableEq, Repr

/-- A record of an insole image (R345) that this package keeps: tile, board, rank, format, codes of A and B and their
scales, by slot of its own (0 on for DOWN, then four UP). -/
structure InsoleRec where
  tile   : Nat
  loc    : Nat
  rank   : Nat
  fp4    : Bool
  body   : List Nat
  deriving DecidableEq, Repr

/-- An object being loaded, or READY (R346 to R369). -/
structure LoadObj where
  kind    : Nat
  object  : Nat
  count   : Nat
  got     : List Nat
  corrupt : Map Nat
  /-- Bytes held, by offset in the container. -/
  pieces  : Map (List Nat)
  /-- State of LOAD_STATE: 1 INGEST, 2 PROGRAM, 3 VERIFY, 4 READY, 5 INCOMPLETE. -/
  state   : Nat
  mode    : Nat
  notBefore : Nat
  /-- Section headers whose bodies have been placed. -/
  placed  : List Nat
  /-- The load has made its first write to SHADOW (R354). -/
  wrote   : Bool
  pattern : Pattern
  boards  : Map BoardLoad
  /-- Outliers of each tile, as the WELT sections give them. -/
  welt    : Map (List WeltEntry)
  /-- CRC fields of the placed BOARD, WELT and CONST sections, by type · 2¹⁶ + index in the package (R411). -/
  crcs    : Map Nat
  /-- An insole image's tenant, version and WITH_GEN. -/
  tenant  : Nat
  version : Nat
  withGen : Nat
  deriving DecidableEq, Repr

/-- An insole being written into its slots (R105): tile, descriptor, record. -/
structure InsoleJob where
  tile   : Nat
  desc   : Nat
  object : Nat
  rec_   : InsoleRec
  deriving DecidableEq, Repr

/-- A truing in progress (R375 to R385): kind 1 FULL, 2 TRACK, 3 VERIFY; taps at its start; its result, once it
has one, as a FAIL_CAUSE code with the taps found; the findings of the window's scrub. -/
structure Truing where
  kind   : Nat
  free   : Bool
  before : Nat
  taps   : List Nat
  drift  : List Nat
  result : Option (Nat × List Nat)
  found  : List Finding
  deriving DecidableEq, Repr
/-! ### The monitor converter (chapter 14) -/

/-- A channel's filter: the samples since its restart, newest first, each with its over-range mark, as many as the
longest window needs; how many have entered. -/
structure MonChan where
  samples : List (Nat × Bool)
  count   : Nat
  deriving DecidableEq, Repr


/-! ### Fuses, start-up, management port and test access (chapters 16, 19, 20 and 22) -/

/-- The fuses, kept without power: the lifecycle pattern (R428), the package's identities, the power-cycle count (R432),
the owner-hash slots with their revocations (R430, R432) and the package key (R434). -/
structure Fuses where
  lc       : Nat
  uid      : Nat
  stepping : Nat
  i3cId    : Nat
  cycles   : Nat
  owner0   : List Nat
  owner1   : List Nat
  revoked  : Nat
  pkgKey   : List Nat
  deriving DecidableEq, Repr

/-- A valid copy of the calibration store in flash (R494): its SEQ, and of its images bytes 16 to 511, unlisted all 0. -/
structure CalCopy where
  seq    : Nat
  images : Map (List Nat)
  deriving DecidableEq, Repr

/-- What start-up carries from stage to stage: a flash that answers, the words to write, the announcement, NO_CAL (R486,
R487), and that a warm reset began it (R502). -/
structure Boot where
  flash    : Bool
  writes   : List (Nat × Nat)
  announce : Option Peer
  noCal    : Bool
  warm     : Bool
  deriving DecidableEq, Repr

/-- A key command in progress (R437). -/
structure KeyCmd where
  erase   : Bool
  kind    : Nat
  slot    : Nat
  wrapped : List Nat
  deriving DecidableEq, Repr

/-- The management port (R504 to R515): the response frame, empty before the first request; the I3C length limits; the
MCTP packets that wait; ALERT_N. -/
structure Mgmt where
  response : List Nat
  mwl      : Nat
  mrl      : Nat
  packets  : List (List Nat)
  alertLow : Bool
  deriving DecidableEq, Repr

/-- A raw read in progress (R558): source, die, tile, array, address. -/
structure RawRead where
  src   : Nat
  die   : Nat
  tile  : Nat
  array : Nat
  addr  : Nat
  deriving DecidableEq, Repr
/-! ### The whole part -/

/-- Everything the part holds but the queue of waiting commands. -/
structure Chip where
  /-- The register file: field values by `(address · 64 + lsb)`, unlisted fields at their reset values. -/
  regs     : Map Nat
  /-- The shadows of wide values (R21), by the address of the lowest word. -/
  shadows  : Map Nat
  /-- The free-value counter: the model's own field, no state of the part. -/
  fresh    : Nat
  tiles    : Map Tile
  boards   : Map Board
  /-- Codes of the boards' cell pairs (R57, R61), kept without power: board → row · 512 + column → 8 · positive +
  negative. -/
  cells    : Map (Map Nat)
  flight   : List Packet
  tack     : List TackMsg
  /-- Packets at the torus stations, waiting for a lane group toward their package. -/
  stationOut : List Packet
  /-- Acknowledgements waiting to leave the package as ACKD records (R231). -/
  ackOut   : List AckRec
  /-- Appends that have reached their CTX station (R266). -/
  appends  : List Packet
  /-- Credit used by off-die holders: tile · 16 + holder → lines outstanding (R203). -/
  credit   : Map Nat
  arrivals : List PegArrival
  edges    : Map Edge
  /-- Reference cycle within the beat, as the timebase counts it (R160). -/
  refcyc   : Nat
  seq      : Sequencer
  /-- The torus lane groups' links: port · 4 + group (chapter 9). -/
  links    : Map Link
  copyParts : List CopyPart
  /-- Local beat at which the current run of the step started (R112, R407). -/
  runStart : Nat
  /-- Arrivals posted by tiles and still on the tree wires (R208). -/
  upTree   : List PegArrival
  /-- DONE words on the down wires: scope and root (R208). -/
  downDone : List (Nat × Nat)
  /-- The package's JOB-scope pegs whose arrivals are all in, by PEG_ID; sent to the head or held by it (R209). -/
  jobPegs  : List Nat
  /-- The package has posted its arrival at the commit peg of the step (R402). -/
  arrived  : Bool
  /-- LATE has been reported for the step (R122, R171). -/
  lateStep : Bool
  /-- Expert maps of the accepted cutting list (R194). -/
  experts  : List (List Place)
  /-- Replica service asked for and not yet answered (R412). -/
  replicaOut : List ReplicaOut
  /-- Replica services this package computes (R412). -/
  replicaServe : List ReplicaServe
  /-- Operating-seconds values of the counted shelvings of each unit, by class · 2²⁰ + number (R406). -/
  shelfTimes : Map (List Nat)
  /-- Halves, dies out of service, and of them and the tiles the HELD ones, by the same number (R405, R406). -/
  outUnits   : List Nat
  heldUnits  : List Nat
  /-- Units whose test runs, by the same number (R416), and those whose test a READMIT has ordered for the next replay
  gap (R426). -/
  testing    : List Nat
  readmits   : List Nat
  /-- Boards shelved only because their tile, half or die was (R415). -/
  shelvedWith : List Nat
  /-- The fault queue of each die (R404). -/
  faultQueue : Map (List FaultEntry)
  /-- Causes of the package's own shelving in the current run, whose checks run at START (R417). -/
  pkgCauses  : List Nat
  /-- The package's arrivals of the current run carry FAULT (R403). -/
  runFault   : Bool
  /-- The package has sent a notice that its share of the run is uncovered (R410). -/
  uncovered  : Bool
  /-- Step attributed to the next step's run: errors found after the arrival at the commit peg (R402). -/
  nextFault  : Bool
  /-- The cause with which the package enters HOLD at the next step boundary; 0 none (R419). -/
  holdCause  : Nat
  /-- Records waiting for a REPORT message (R425). -/
  reports    : List Report
  /-- The replica table entry taken at the next step boundary (R411). -/
  replicaNext : Option ReplicaEntry
  /-- Head: the notices held for the current run (R403, R407), and the flagged arrival it holds. -/
  notices    : List Notice
  /-- Head: the beat at which PROBE was sent, with the nodes that have not answered (R418). -/
  probing    : Option (Nat × List Nat)
  /-- Local beat at which the run of a REPLAY starts (R407). -/
  replayAt   : Option Nat
  /-- The event recorder of each die (chapter 17), and its logbook: die · 8192 + slot, kept without power. -/
  recorders  : Map Recorder
  logbook    : Map LogSlot
  /-- Descriptors (die · 65536 + context index) and frames (die · 2²⁴ + frame); unlisted ones are free (R263, R267). -/
  descs     : Map CtxDesc
  frames    : Map Frame
  /-- Stored bytes of the KV regions: global line · 32 + byte, as encrypted (R269), unlisted 0. -/
  kv        : Memory
  /-- Symbol errors in context-store lines by global line (R255), unlisted none. -/
  ctxErr    : Map Nat
  /-- The next access unit of each die's patrol scrub (R275). -/
  ctxScrub  : Map Nat
  /-- The KV map in force: (layer, KV head) pairs of each die, in pair order (R261). -/
  kvMap     : Map (List (Nat × Nat))
  /-- Region sizes written and not yet in force: die · 8 + region → lines (R257). -/
  regionNext : Map Nat
  /-- Keys by kind · 4096 + slot (R435). -/
  keys      : Map (List Nat)
  /-- Pagings in progress by die · 65536 + context index. -/
  pagings   : Map Paging
  /-- The prefix table by prefix ID (R302), and the loader's container offsets of the placed sections (R362): board
  (die · 6144 + array) → byte offset of its body; and of the embedding. -/
  prefixes  : Map PrefixEntry
  bodyAt    : Map Nat
  embedAt   : Nat
  /-- Head: full blocks of the prompt of each context (R303). -/
  promptBlocks : Map Nat
  /-- Shadow rows that hold an uncorrectable line: board · 1024 + row (R255). -/
  poison    : List Nat
  serving   : Serving
  /-- Wear records (R363), kept without power. -/
  wear      : Map Wear
  /-- The pattern in force (R339, R367), and the objects being loaded or READY (R351). -/
  inForce   : Option Pattern
  loads     : List LoadObj
  insoleJobs : List InsoleJob
  /-- The stuck map of each tile: records in the order found, and how many there are in all (R361). -/
  stuckMap  : Map (List Nat)
  stuckFound : Map Nat
  /-- Head: the packages that have reported an object READY, by kind · 2³² + object (R365). -/
  readySets : Map (List Nat)
  /-- SHARD fragments that arrive on the torus, by lane group (R347). -/
  shardIn   : Map (List Nat)
  /-- Bytes 16 to 511 of the boards' calibration images (R374), unlisted all 0; TEMP of the last passed truing. -/
  taps      : Map (List Nat)
  calTemp   : Map Nat
  /-- The latched image of each board (R387), and truings in progress. -/
  imageLatch : Map (List Nat)
  truings   : Map Truing
  /-- Filters of the monitor channels by die · 32 + channel (R393), and the conversions still marked SUSPECT (R394). -/
  mon       : Map MonChan
  suspect   : Map Nat
  /-- Conversions of each die's converter (R389), by which the 64 µs of R473 are counted; the count at which each half's
  thermal level last rose, plus 1; the latest raw code of each diode, by die · 8 + diode, 6 for the stack's sensor. -/
  convs     : Map Nat
  rose      : Map Nat
  rawTemp   : Map Nat
  /-- P of the last evaluation in 2⁻⁴⁰ mW, and the evaluations in a row below the cap less its hysteresis (R474). -/
  power     : Nat
  powerBelow : Nat
  /-- The fuses, and their shadow: what the last power-on read of them (R429, R497). -/
  fuses     : Fuses
  fuseShadow : Fuses
  /-- The two copies of the calibration store in flash; what stage 3 found (chapter 19). -/
  calCopies : Map CalCopy
  /-- The ring of 64 stored operating-seconds values, newest last (R518). -/
  opsecRing : List Nat
  boot      : Boot
  /-- The copy that a running save has chosen (R495). -/
  saving    : Option Nat
  /-- VAUX is below its limit, or PORST_N asserted, or WRST_N asserted: the part is held in reset (R470, R497, R502). -/
  inReset   : Nat
  /-- A key command in progress (R437); the package key is gated off (R444). -/
  keyCmd    : Option KeyCmd
  keyGated  : Bool
  mgmt      : Mgmt
  /-- The boundary register's update stage (R551), and a raw read in progress (R558). -/
  boundary  : Nat
  rawRead   : Option RawRead
  /-- Stages ordered under test halt (R559), as bits. -/
  ordered   : Nat
  /-- MACsec (R279, R437): the transmit SA in use and its next packet number by front port; the next packet number
  expected of each receive SA, by key slot. -/
  txSa      : Map Nat
  txPn      : Map Nat
  rxPn      : Map Nat
  /-- What the part has sent in this command: the model's own record of its output. -/
  sent      : List Out
  deriving DecidableEq, Repr

/-- The machine: the part, and the commands that wait, first in, first out. -/
structure State where
  chip    : Chip
  pending : List Instr
  deriving DecidableEq, Repr

/-! ### Stops -/

/-- How a step could stop with a fault: it never does.  The part meets every error with an effect of its own (a
detected error, a counter, a status), and no command reaches outside the state. -/
inductive Fault where
  deriving DecidableEq, Repr

/-- How a command could be refused by the model. -/
inductive Refusal where
  /-- Raised by `exec` for a row of the command table that has no meaning yet; safe: nothing is said of what it does. -/
  | notModelled (mnemonic : String)
  deriving DecidableEq, Repr

/-! ### Reset (R23, R497, R501) -/

/-- Fuses with no bit blown: MANUFACTURE, nothing programmed.  DESIGN CHOICE: the spec gives no package's fuses. -/
def Fuses.blank : Fuses :=
  { lc := 0, uid := 0, stepping := 0, i3cId := 0, cycles := 0, owner0 := List.replicate 48 0,
    owner1 := List.replicate 48 0, revoked := 0, pkgKey := List.replicate 32 0 }

def Sequencer.reset : Sequencer :=
  { jobs := [], headIx := 0, tailIx := 0, paths := [], offsets := [], latched := 0, slip := false, misses := 0,
    gearSoon := 0, gearLater := 0, gearOrder := none, stopAt := none, next := none, posted := false, pegsIn := [],
    commitOwn := none, flips := [], skip := false, advisedAt := none }

def Stream.reset : Stream := { rxNext := 0, held := [], txNext := 0, unacked := [], ackDue := false }

def Serve.reset : Serve :=
  { batchMax := 0, prefillMax := 0, close := [], attnBudget := 0, stepKeep := 0, zeroSteps := 0, tailAddr0 := 0,
    tailAddr1 := 0 }

def Serving.reset : Serving :=
  { serve := Serve.reset, sessions := [], control := Stream.reset, orch := none, parts := [], tenants := [],
    tenantNext := [], requests := [], reuse := [], serials := 0, orders := [], evicted := [], released := [],
    framesMin := 0, closed := none, batchIn := none, paramsIn := none, resultsIn := none,
    batch := { step := 0, gen := 0, slots := [], orders := [] }, contexts := [], tail := [], draws := [], skips := [],
    commitBeat := 0, endsDue := [] }

def Boot.reset : Boot := { flash := false, writes := [], announce := none, noCal := false, warm := false }

/-- The management port: no response, the length limits at their largest (R505), ALERT_N released. -/
def Mgmt.reset : Mgmt := { response := [], mwl := 256, mrl := 256, packets := [], alertLow := false }

/-- The part right after the deassertion of PORST_N: every register field at its Reset value, stage 1 to run, nothing
held, fuses blank, cells and stores as made. -/
def Chip.reset : Chip :=
  { regs := [], shadows := [], fresh := 0, tiles := [], boards := [], cells := [], flight := [], tack := [],
    stationOut := [], ackOut := [], appends := [], credit := [], arrivals := [], edges := [], refcyc := 0,
    seq := Sequencer.reset, links := [], copyParts := [], runStart := 0, upTree := [], downDone := [], jobPegs := [],
    arrived := false, lateStep := false, experts := [], replicaOut := [], replicaServe := [], shelfTimes := [],
    outUnits := [], heldUnits := [], testing := [], readmits := [], shelvedWith := [], faultQueue := [],
    pkgCauses := [], runFault := false, uncovered := false, nextFault := false, holdCause := 0, reports := [],
    replicaNext := none, notices := [], probing := none, replayAt := none, recorders := [], logbook := [],
    descs := [], frames := [], kv := [], ctxErr := [], ctxScrub := [], kvMap := [], regionNext := [], keys := [],
    pagings := [], prefixes := [], bodyAt := [], embedAt := 0, promptBlocks := [], poison := [],
    serving := Serving.reset, wear := [], inForce := none, loads := [], insoleJobs := [], stuckMap := [],
    stuckFound := [], readySets := [], shardIn := [], taps := [], calTemp := [], imageLatch := [], truings := [],
    mon := [], suspect := [], convs := [], rose := [], rawTemp := [], power := 0, powerBelow := 0,
    fuses := Fuses.blank, fuseShadow := Fuses.blank, calCopies := [], opsecRing := [], boot := Boot.reset,
    saving := none, inReset := 0, keyCmd := none, keyGated := false, mgmt := Mgmt.reset, boundary := 0,
    rawRead := none, ordered := 0, txSa := [], txPn := [], rxPn := [], sent := [] }

/-- The machine right after reset: no command waits. -/
def State.reset : State := { chip := Chip.reset, pending := [] }

end Sys2Proof.Machine
end

