-- ==== Sys2Proof/Machine/Ops.lean ====
section
/-! DEFINITION. The named operations over the state: the register file (R17 to R21), tiles and boards, and the tack
network's messages.  Every meaning reads and writes the state through these. -/
namespace Sys2Proof.Machine

/-- A command's effect, and a value it reads on the way. -/
abbrev CM := StateM Chip

/-! ## Places in the register space (R16, R516) -/

/-- Byte offset of a die's registers. -/
def dieOff (d : Nat) : Nat := d * 0x20000000
/-- Byte offset of a tile's window; tiles are numbered die · 48 + tile. -/
def tileOff (t : Nat) : Nat := dieOff (t / 48) + t % 48 * 0x40000
/-- Byte offset of a board's window; boards are numbered die · 6144 + array. -/
def boardOff (b : Nat) : Nat := dieOff (b / 6144) + b % 6144 * 0x800
/-- Byte offset of an edge's window: 0 west, 1 east, 2 row. -/
def edgeOff (d e : Nat) : Nat := dieOff d + e * 0x100
/-- Byte offset of a lane group's window. -/
def grpOff (p g : Nat) : Nat := p * 0x1000 + g * 0x80
/-- Byte offset of a half's PWR window; halves are numbered 2 · die + E. -/
def halfWin (h : Nat) : Nat := h * 0x20
/-- Byte offset of a die's PWR window. -/
def dieWin (d : Nat) : Nat := d * 0x10

/-- The half of a tile (R16). -/
def halfOfTile (t : Nat) : Nat := 2 * (t / 48) + (if t % 48 < 24 then 0 else 1)
/-- The tile of a board (R16: array index = tile · 128 + local array). -/
def tileOfBoard (b : Nat) : Nat := b / 6144 * 48 + b % 6144 / 128
/-- The board of a tile's local array. -/
def boardOf (t loc : Nat) : Nat := t / 48 * 6144 + t % 48 * 128 + loc
/-- A board's number within its tile. -/
def localOf (b : Nat) : Nat := b % 128

/-! ## Die-to-die edges: their places -/

/-- The two ends of an edge (R212, MESH_STATUS): die and side (0 west, 1 east, 2 row). -/
def edgeEnds (e : Nat) : (Nat × Nat) × (Nat × Nat) :=
  match e with
  | 0 => ((0, 1), (1, 0)) | 1 => ((1, 1), (2, 0)) | 2 => ((2, 1), (3, 0))
  | 3 => ((4, 1), (5, 0)) | 4 => ((5, 1), (6, 0)) | 5 => ((6, 1), (7, 0))
  | 6 => ((0, 2), (4, 2)) | 7 => ((1, 2), (5, 2)) | 8 => ((2, 2), (6, 2)) | _ => ((3, 2), (7, 2))

/-- The edge at a die's side, none where the side has no neighbour. -/
def edgeAt (d side : Nat) : Option Nat :=
  indexOf (fun e => (edgeEnds e).1 == (d, side) || (edgeEnds e).2 == (d, side)) (upFrom 0 10)

/-- The die across a side. -/
def peerDie (d side : Nat) : Nat :=
  match edgeAt d side with
  | none => 0
  | some e => if (edgeEnds e).1 = (d, side) then (edgeEnds e).2.1 else (edgeEnds e).1.1

/-! ## Register fields -/

/-- Where a field's value is listed: the field's register moved by the byte offset `o` of its window and index. -/
def regKey (f : Fld) (o : Nat) : Nat := (f.addr + o) * 64 + f.lsb

/-- The value of a field. -/
def Chip.rd (c : Chip) (f : Fld) (o : Nat := 0) : Nat := Tbl.get f.reset c.regs (regKey f o)

/-- Set a field. -/
def Chip.wr (c : Chip) (f : Fld) (o v : Nat) : Chip :=
  { c with regs := Tbl.put f.reset c.regs (regKey f o) (v % 2 ^ f.width) }

/-- What a counter shows after `n` more events (R20). -/
def Fld.count (f : Fld) (cur n : Nat) : Nat :=
  if f.wraps then (cur + n) % 2 ^ f.width else min (cur + n) (2 ^ f.width - 1)

/-- Add `n` events to a counter (R20). -/
def Chip.bump (c : Chip) (f : Fld) (o n : Nat) : Chip := c.wr f o (f.count (c.rd f o) n)

/-- Is a one-bit field set? -/
def Chip.flag (c : Chip) (f : Fld) (o : Nat := 0) : Bool := decide (c.rd f o = 1)

def rdM (f : Fld) (o : Nat := 0) : CM Nat := do let c ← get; pure (c.rd f o)
def wrM (f : Fld) (o v : Nat) : CM Unit := modify fun c => c.wr f o v
def bumpM (f : Fld) (o : Nat := 0) (n : Nat := 1) : CM Unit := modify fun c => c.bump f o n

/-- Do `m` when `b` holds. -/
def whenM (b : Bool) (m : CM Unit) : CM Unit := if b then m else pure ()

/-- Do `f` for each element, in order. -/
def forM_ {α : Type} : List α → (α → CM Unit) → CM Unit
  | [], _ => pure ()
  | a :: t, f => do f a; forM_ t f

/-- The results of `f` for each element, in order. -/
def mapM_ {α β : Type} : List α → (α → CM β) → CM (List β)
  | [], _ => pure []
  | a :: t, f => do let b ← f a; let r ← mapM_ t f; pure (b :: r)

/-- A running result over a list, in order. -/
def foldM_ {α β : Type} : β → List α → (β → α → CM β) → CM β
  | b, [], _ => pure b
  | b, a :: t, f => do let b' ← f b a; foldM_ b' t f

/-- The next free value of the model: a number nothing constrains. -/
def freeValue (w : Nat) : CM Nat := do
  let c ← get
  modify fun c => { c with fresh := c.fresh + 1 }
  pure (Config.free c.fresh % 2 ^ w)

/-! ## Tiles and boards -/

/-- A tile at power-on. -/
def emptyTile : Tile :=
  { prog := [], sendTag := [], xregs := [], batch := [], recvs := [], issued := [], sends := [], hold := .none,
    ending := false, retained := [], carried := [], charged := 0, wrapWait := [], mem := [], symErr := [], tags := [],
    tagSplit := [], buffer := [], partials := [], topk := [], scrubRow := 0, welt := [], weltStandby := [], weltStaged := none, waived := [],
    waivedStandby := [], standbyDegraded := false, droppedOutliers := 0, droppedStandby := 0, insole := [],
    insoleScale := [], insoleRes := [], used := [], driftMarks := [], windows := [] }

/-- A board at power-on. -/
def emptyBoard : Board := { codes := [], scales := [], ladderL := [], ladderU := [], before := 0, trued := false }

def Chip.tile (c : Chip) (t : Nat) : Tile := Tbl.get emptyTile c.tiles t
def Chip.setTile (c : Chip) (t : Nat) (x : Tile) : Chip := { c with tiles := Tbl.put emptyTile c.tiles t x }
def Chip.onTile (c : Chip) (t : Nat) (f : Tile → Tile) : Chip := c.setTile t (f (c.tile t))
def onTileM (t : Nat) (f : Tile → Tile) : CM Unit := modify fun c => c.onTile t f
def tileM (t : Nat) : CM Tile := do let c ← get; pure (c.tile t)

def Chip.board (c : Chip) (b : Nat) : Board := Tbl.get emptyBoard c.boards b
def Chip.setBoard (c : Chip) (b : Nat) (x : Board) : Chip := { c with boards := Tbl.put emptyBoard c.boards b x }
def Chip.onBoard (c : Chip) (b : Nat) (f : Board → Board) : Chip := c.setBoard b (f (c.board b))

/-- The codes of a cell pair as they stand, 8 · positive + negative (R57, R61). -/
def Chip.pairCodes (c : Chip) (b row col : Nat) : Nat := Tbl.get 0 (Tbl.get [] c.cells b) (row * 512 + col)

/-- The level a cell code stands for (R58). -/
def levelOf (f : NFmt) (code : Nat) : Nat :=
  match f with
  | .fp4 => fp4Mag code
  | _ => code

/-- The signed level of a pair of cell codes (R59). -/
def pairLevel (f : NFmt) (pn : Nat) : Int := (levelOf f (pn / 8) : Int) - levelOf f (pn % 8)

/-- The weight format of the copy that holds a row (R58, R77). -/
def Chip.rowFmt (c : Chip) (b row : Nat) : NFmt :=
  if c.flag (if c.flag R.ARRAY_CFG_DUAL (boardOff b) && decide (512 ≤ row) then R.ARRAY_CFG_FMT_U else R.ARRAY_CFG_FMT_L)
    (boardOff b) then .fp4 else .int4

/-- The actual signed level of a cell pair (R61). -/
def Chip.cell (c : Chip) (b row col : Nat) : Int := pairLevel (c.rowFmt b row) (c.pairCodes b row col)

/-! ## Array states (R79) -/

def arrEmpty : Nat := 0
def arrReady : Nat := 1
def arrProgram : Nat := 2
def arrTruing : Nat := 3
def arrShelved : Nat := 4
def arrHeld : Nat := 5

def Chip.arrState (c : Chip) (b : Nat) : Nat := c.rd R.ARRAY_STATE_STATE (boardOff b)

/-! ## Tile states (R137) -/

def tileIdle : Nat := 0
def tileReady : Nat := 1
def tileRun : Nat := 2
def tileDone : Nat := 3
def tileReplay : Nat := 4
def tileShelved : Nat := 5

def Chip.tileState (c : Chip) (t : Nat) : Nat := c.rd R.TILE_STATE_STATE (tileOff t)

/-- The tile issues instructions: its state says so and its half has not stopped its clock (R478). -/
def Chip.running (c : Chip) (t : Nat) : Bool :=
  (decide (c.tileState t = tileRun) || decide (c.tileState t = tileReplay))
    && !c.flag R.PWR_H_STATE_TRIPPED (halfWin (halfOfTile t))

/-! ## Format counters of a tile (R55) -/

/-- Run a counting computation on behalf of a tile and add its events to the tile's counters. -/
def countedM {α : Type} (t : Nat) (m : FM α) : CM α := do
  let r := m {}
  let k := r.2
  let o := tileOff t
  bumpM R.TILE_FMT_COUNT (o + 0) k.zero
  bumpM R.TILE_FMT_COUNT (o + 4) k.under
  bumpM R.TILE_FMT_COUNT (o + 8) k.sat
  bumpM R.TILE_FMT_COUNT (o + 12) k.align
  bumpM R.TILE_FMT_COUNT (o + 16) k.fp32
  bumpM R.TILE_FMT_COUNT (o + 20) k.nanIn
  pure r.1

/-! ## Detected errors (R399, R403): the unit's FAULT message to its die controller -/

/-- Post a FAULT message: class (0 BOARD, 1 TILE, 2 HALF, 3 DIE), unit index within the die, cause of R400. -/
def raise (die cls unit cause : Nat) : CM Unit := modify fun c =>
  { c with tack := c.tack ++ [.fault die cls unit (c.rd R.FAULT_STATUS_REPLAY) cause] }

def raiseTile (t cause : Nat) : CM Unit := raise (t / 48) 1 (t % 48) cause
def raiseBoard (b cause : Nat) : CM Unit := raise (b / 6144) 0 (b % 6144) cause
def raiseHalf (h cause : Nat) : CM Unit := raise (h / 2) 2 (h % 2) cause
def raiseDie (d cause : Nat) : CM Unit := raise d 3 0 cause

/-! ## Jobs and clamp events -/

/-- SEQ_STATE.STATE codes (R197): 0 EMPTY, 1 ACCEPTED, 2 RUNNING, 3 STOPPING, 4 HOLD. -/
def seqEmpty : Nat := 0
def seqAccepted : Nat := 1
def seqRunning : Nat := 2
def seqStopping : Nat := 3
def seqHold : Nat := 4

/-- A job runs on the package, or is held on it. -/
def Chip.jobRuns (c : Chip) : Bool := decide (2 ≤ c.rd R.SEQ_STATE_STATE)

/-- A command that the spec places at a beat carries a running clock to that beat, where it has not come there yet. -/
def reachBeat (b : Nat) : CM Unit := do
  let c ← get
  if (c.flag R.TIMEBASE_STATUS_LOCKED || c.flag R.TIMEBASE_STATUS_HOLDOVER) && decide (c.rd R.TIMEBASE_BEAT_BEAT < b) then do
    modify fun c => { c with refcyc := 0 }
    wrM R.TIMEBASE_BEAT_BEAT 0 b
  else pure ()

/-- The sources of R423. -/
def srcMgmt : Nat := 0
def srcSetup : Nat := 1
def srcOrch : Nat := 2
def srcGateway : Nat := 3
def srcPeer : Nat := 4
def srcPattern : Nat := 5

/-- One clamp event of a source (R423); `place` is what FAULT_CLAMP_ADDR shows. -/
def clampEvent (src session place : Nat) : CM Unit := do
  bumpM R.FAULT_CLAMP_COUNT (4 * src)
  wrM R.FAULT_CLAMP_SRC_VALID 0 1
  wrM R.FAULT_CLAMP_SRC_SESSION 0 session
  wrM R.FAULT_CLAMP_SRC_SOURCE 0 src
  wrM R.FAULT_CLAMP_ADDR_WHERE 0 place

end Sys2Proof.Machine
end

