-- ==== Sys2Proof/Machine/Scratchpad.lean ====
section
/-! DEFINITION. The scratchpads of chapter 6: lines, tags and slots (R138 to R148), vectors in lines (R110, R111), the
patrol scrub (R140), deliveries (R147) and task starts (R143, R146). -/
namespace Sys2Proof.Machine

/-- Byte offset of a slot's registers. -/
def slotOff (t slot : Nat) : Nat := tileOff t + 16 * slot

/-- 32 zero bytes. -/
def zeroLine : List Nat := List.replicate 32 0

/-- The stored bytes of a physical line. -/
def lineBytes (m : Memory) (p : Nat) : List Nat :=
  (upFrom (32 * p) 32).map (fun a => (Tbl.get (0 : Byte) m a).toNat)

/-- The memory with bytes written from an address on. -/
def putBytes : Memory → Nat → List Nat → Memory
  | m, _, [] => m
  | m, a, b :: t => putBytes (Tbl.put (0 : Byte) m a (BitVec.ofNat 8 b)) (a + 1) t

/-- Exactly 32 bytes of a line. -/
def lineOf (bytes : List Nat) : List Nat := (bytes ++ zeroLine).take 32

/-- A slot may read a unit: it is ACTIVE and the unit's GEN is the slot's (R144). -/
def Chip.slotSees (c : Chip) (t slot p : Nat) : Bool :=
  let tag := Tbl.get 0 (c.tile t).tags (p / 8)
  c.flag R.SPAD_SLOT_OWNER_ACTIVE (slotOff t slot)
    && decide (tag / 256 = c.rd R.SPAD_SLOT_GEN_GEN (slotOff t slot)) && bit tag (p % 8)

/-- The codeword check of a read (R139): one or two symbol errors are corrected, more are uncorrectable. -/
def codewordRead (t p : Nat) : CM (List Nat) := do
  let x ← tileM t
  match Tbl.get 0 x.symErr p with
  | 0 => pure (lineBytes x.mem p)
  | 1 | 2 => do
    onTileM t fun x => { x with symErr := Tbl.put 0 x.symErr p 0 }
    bumpM R.SPAD_CORRECTED_COUNT (tileOff t)
    pure (lineBytes x.mem p)
  | _ => do
    bumpM R.SPAD_UNCORR_COUNT (tileOff t)
    raiseTile t 0x11
    pure zeroLine

/-- An access outside its slot (R148). -/
def boundViolation (t : Nat) : CM Unit := do
  bumpM R.SPAD_BOUND_VIOL_COUNT (tileOff t)
  raiseTile t 0x13

/-- A read of one line through a slot (R139, R144, R145, R148). -/
def readLine (t slot line : Nat) : CM (List Nat) := do
  let c ← get
  if c.rd R.SPAD_SLOT_BOUND_LINES (slotOff t slot) ≤ line then do
    boundViolation t
    pure zeroLine
  else
    let p := c.rd R.SPAD_SLOT_BASE_BASE (slotOff t slot) + line
    if (c.tile t).tagSplit.contains (p / 8) then do
      bumpM R.SPAD_TAG_ERR_COUNT (tileOff t)
      bumpM R.SPAD_STALE_READS_COUNT (tileOff t)
      raiseTile t 0x12
      pure zeroLine
    else if c.slotSees t slot p then codewordRead t p
    else do
      bumpM R.SPAD_STALE_READS_COUNT (tileOff t)
      pure zeroLine

/-- The tag of a unit after a write of one of its lines under generation `gen` (R144). -/
def tagAfterWrite (tag gen l : Nat) : Nat :=
  let mask := if tag / 256 = gen then tag % 256 else 0
  gen * 256 + (if bit mask l then mask else mask + 2 ^ l)

/-- A physical line written under a generation: fresh check bytes, both tag copies set (R144). -/
def storeLine (x : Tile) (gen p : Nat) (bytes : List Nat) : Tile :=
  { x with
    mem := putBytes x.mem (32 * p) (lineOf bytes)
    symErr := Tbl.put 0 x.symErr p 0
    tags := Tbl.put 0 x.tags (p / 8) (tagAfterWrite (Tbl.get 0 x.tags (p / 8)) gen (p % 8))
    tagSplit := x.tagSplit.filter (fun u => u != p / 8) }

/-- A write of one line through a slot (R144, R148). -/
def writeLine (t slot line : Nat) (bytes : List Nat) : CM Unit := do
  let c ← get
  if c.rd R.SPAD_SLOT_BOUND_LINES (slotOff t slot) ≤ line then boundViolation t
  else
    let p := c.rd R.SPAD_SLOT_BASE_BASE (slotOff t slot) + line
    onTileM t fun x => storeLine x (c.rd R.SPAD_SLOT_GEN_GEN (slotOff t slot)) p bytes

/-- The bytes of `n` consecutive lines. -/
def readLines (t slot line n : Nat) : CM (List Nat) := do
  let ls ← mapM_ (upFrom line n) (readLine t slot)
  pure ls.flatten

/-- Bytes written to `n` consecutive lines, zeros beyond the last byte (R111). -/
def writeLines (t slot line n : Nat) (bytes : List Nat) : CM Unit :=
  forM_ (upFrom 0 n) fun i => writeLine t slot (line + i) (lineOf (bytes.drop (32 * i)))

/-! ## Vectors in lines (R110, R111) -/

/-- Lines of an FP32 vector of `n` elements. -/
def fpLines (n : Nat) : Nat := cdiv n 8

/-- Element lines of a narrow vector of `blocks` blocks. -/
def elemLines (f : NFmt) (blocks : Nat) : Nat := cdiv (blocks * blockBytes f) 32

/-- Lines of a narrow vector of `blocks` blocks: element bytes, then scale bytes from the next line boundary. -/
def narrowLines (f : NFmt) (blocks : Nat) : Nat := elemLines f blocks + cdiv blocks 32

/-- Little-endian words of a byte string. -/
def wordsOf (n : Nat) (b : List Nat) : List Nat := (upFrom 0 n).map (fun i => le b (4 * i) 4)

/-- Bytes of FP32 words. -/
def bytesOfWords (ws : List Nat) : List Nat := ws.flatMap (leBytes 4)

def readFp (t line n : Nat) : CM (List Nat) := do
  let b ← readLines t 0 line (fpLines n)
  pure (wordsOf n b)

def writeFp (t line : Nat) (ws : List Nat) : CM Unit :=
  writeLines t 0 line (fpLines ws.length) (bytesOfWords ws)

/-- The blocks of a narrow vector's bytes. -/
def blocksOf (f : NFmt) (blocks : Nat) (b : List Nat) : List Block :=
  let scales := b.drop (32 * elemLines f blocks)
  (upFrom 0 blocks).map fun i =>
    ⟨nth 0 scales i, unpackElems f ((b.drop (i * blockBytes f)).take (blockBytes f))⟩

/-- The bytes of a narrow vector (R111): element bytes, padding to a line, scale bytes. -/
def bytesOfBlocks (f : NFmt) (bs : List Block) : List Nat :=
  let e := bs.flatMap (fun b => packElems f b.elems)
  e ++ List.replicate (32 * elemLines f bs.length - e.length) 0 ++ bs.map (·.code)

def readNarrow (t : Nat) (f : NFmt) (line blocks : Nat) : CM (List Block) := do
  let b ← readLines t 0 line (narrowLines f blocks)
  pure (blocksOf f blocks b)

def writeNarrow (t : Nat) (f : NFmt) (line : Nat) (bs : List Block) : CM Unit :=
  writeLines t 0 line (narrowLines f bs.length) (bytesOfBlocks f bs)

/-! ## Task starts and ends (R143, R146) -/

/-- Start a task on a slot; at the end of the generation numbers it waits for the tag clear instead (R146). -/
def taskStart (t slot job : Nat) : CM Unit := do
  let c ← get
  let g := c.rd R.SPAD_GEN_COUNTER_GEN (tileOff t) + 1
  if 0xFFFFFF < g then do
    wrM R.SPAD_STATUS_TAGWRAP (tileOff t) 1
    onTileM t fun x => { x with wrapWait := x.wrapWait ++ [slot * 4096 + job] }
  else do
    wrM R.SPAD_GEN_COUNTER_GEN (tileOff t) g
    wrM R.SPAD_SLOT_GEN_GEN (slotOff t slot) g
    wrM R.SPAD_SLOT_OWNER_ACTIVE (slotOff t slot) 1
    wrM R.SPAD_SLOT_OWNER_JOB (slotOff t slot) job

/-- End the task of a slot (R143). -/
def taskEnd (t slot : Nat) : CM Unit := wrM R.SPAD_SLOT_OWNER_ACTIVE (slotOff t slot) 0

/-- TAGWRAP_DONE: every tag cleared, the counter restarted, and the waiting task starts made (R146). -/
def doTagwrapDone (t : Nat) : CM Unit := do
  let c ← get
  if c.flag R.SPAD_STATUS_TAGWRAP (tileOff t) then do
    let waiting := (c.tile t).wrapWait
    onTileM t fun x => { x with tags := [], tagSplit := [], wrapWait := [] }
    wrM R.SPAD_STATUS_TAGWRAP (tileOff t) 0
    wrM R.SPAD_GEN_COUNTER_GEN (tileOff t) 0
    forM_ waiting fun w => taskStart t (w / 4096) (w % 4096)
  else pure ()

/-! ## Patrol scrub (R140) -/

/-- A line is visible to an ACTIVE slot of its tile. -/
def Chip.lineVisible (c : Chip) (t p : Nat) : Bool :=
  (upFrom 0 8).any fun slot =>
    let base := c.rd R.SPAD_SLOT_BASE_BASE (slotOff t slot)
    let n := c.rd R.SPAD_SLOT_BOUND_LINES (slotOff t slot)
    decide (base ≤ p ∧ p < base + n) && c.slotSees t slot p

/-- The scrub's read of one physical line. -/
def scrubLine (t p : Nat) : CM Unit := do
  let c ← get
  match Tbl.get 0 (c.tile t).symErr p with
  | 0 => pure ()
  | 1 | 2 => do
    onTileM t fun x => { x with symErr := Tbl.put 0 x.symErr p 0 }
    bumpM R.SPAD_CORRECTED_COUNT (tileOff t)
  | _ => do
    bumpM R.SPAD_UNCORR_COUNT (tileOff t)
    if c.lineVisible t p then raiseTile t 0x11
    else onTileM t fun x =>
      { x with mem := putBytes x.mem (32 * p) zeroLine, symErr := Tbl.put 0 x.symErr p 0 }

/-- SPAD_SCRUB_READ: one line of each bank, in ascending row order, wrapping after row 4,095 (R140); with it the symbol
errors that have struck lines since, and the units whose two tag copies have come to differ. -/
def doSpadScrubRead (t : Nat) (upsets : List (Nat × Nat)) (tagUpsets : List Nat) : CM Unit := do
  onTileM t fun x => { x with symErr := upsets.foldl (fun m u => Tbl.modify 0 m u.1 (· + u.2)) x.symErr,
                              tagSplit := unique (x.tagSplit ++ tagUpsets) }
  let x ← tileM t
  forM_ (upFrom (32 * x.scrubRow) 32) (scrubLine t)
  onTileM t fun y => { y with scrubRow := (x.scrubRow + 1) % 4096 }
  whenM (decide (x.scrubRow + 1 = 4096)) (bumpM R.SPAD_SCRUB_PASSES (tileOff t))

end Sys2Proof.Machine
end

