-- ==== Sys2Proof/Machine/Boards.lean ====
section
/-! DEFINITION. Boards, the welt path and the insole arrays (chapters 3 and 4): plane passes and their defined result
(R63 to R70), saturation and over-range counting (R72, R73), span results, column values (R90, R91) and insole
evaluation (R97 to R102). -/
namespace Sys2Proof.Machine

/-- The run of a board operation (R65): board, first row, rows of a span, spans, rows of a group, formats. -/
structure Run where
  board : Nat
  row0  : Nat
  spanRows : Nat
  spans : Nat
  groupRows : Nat
  afmt  : NFmt
  wfmt  : NFmt
  deriving DecidableEq, Repr

/-- Rows of a group by ROWGROUP code (R62). -/
def groupRows (code : Nat) : Nat :=
  match code with
  | 0 => 16
  | 1 => 32
  | _ => 64

/-- Rows of a scale span by ROWGROUP code (R44). -/
def spanRows (code : Nat) : Nat := if code = 2 then 64 else 32

def nfmtOfBit (b : Bool) : NFmt := if b then .fp4 else .int4

/-- First row of a copy (R77): 0 L, 1 U. -/
def copyBase (u : Bool) : Nat := if u then 512 else 0

/-- The run of spans `span0 … span0+spans-1` of the active copy of a board (R65, R77, R78). -/
def Chip.runOf (c : Chip) (b span0 spans : Nat) (afmt : NFmt) : Run :=
  let o := boardOff b
  let u := c.flag R.ARRAY_CFG_ACTIVE o
  let rg := c.rd R.ARRAY_CFG_ROWGROUP o
  { board := b, row0 := copyBase u + span0 * spanRows rg, spanRows := spanRows rg, spans := spans,
    groupRows := groupRows rg, afmt := afmt,
    wfmt := nfmtOfBit (c.flag (if u then R.ARRAY_CFG_FMT_U else R.ARRAY_CFG_FMT_L) o) }

def Run.rows (r : Run) : Nat := r.spans * r.spanRows
def Run.groups (r : Run) : Nat := r.rows / r.groupRows

/-! ## Row drives (R63, R45) -/

/-- The signed plane integers of a block. -/
def blockInts (f : NFmt) (b : Block) : List Int := b.elems.map (elemInt f)

/-- The drive of each span: its activation scale code and its rows' signed integers.  A G64 span holds two blocks,
aligned (R45). -/
def spanDrives (f : NFmt) : Nat → List Block → FM (List (Nat × List Int))
  | 64, a :: b :: t => do
    let r ← alignPair f a.code b.code (blockInts f a) (blockInts f b)
    let s ← spanDrives f 64 t
    pure ((r.1, r.2.1 ++ r.2.2) :: s)
  | n, a :: t => do let s ← spanDrives f n t; pure ((a.code, blockInts f a) :: s)
  | _, [] => pure []

/-- `s_r × b_p(r)` of a driven row (R64). -/
def planeDrive (p : Nat) (z : Int) : Int := if bit z.natAbs p then (if z < 0 then -1 else 1) else 0

/-! ## Plane passes -/

/-- Pairs of a tile whose intended level reads as their actual level (R94). -/
def Chip.isWaived (c : Chip) (b row col : Nat) : Bool :=
  (c.tile (tileOfBoard b)).waived.contains (localOf b * 524288 + row * 512 + col)

/-- The intended signed level of a pair (R59, R66), a waived pair's actual one (R94). -/
def Chip.intended (c : Chip) (b row col : Nat) : Int :=
  if c.isWaived b row col then c.cell b row col else elemInt (c.rowFmt b row) (Tbl.get 0 (c.board b).codes (row * 512 + col))

/-- One conversion: the plane sum of the intended levels, the reading, its over-range bit, the correction (R66, R70). -/
structure Conv where
  sum  : Int
  read : Int
  ovr  : Bool
  corr : Int
  deriving DecidableEq, Repr

/-- The converter (R68), on a quantity in 1/64 unit: nearest integer, halfway to the smaller magnitude, over-range
strictly beyond 255.5 units. -/
def convert (q : Int) : Int × Bool :=
  let s : Int := if q < 0 then -1 else 1
  if 255 * 64 + 32 < q.natAbs then (s * 255, true) else (s * ((q.natAbs + 31) / 64 : Nat), false)

/-- The reading of a conversion: the actual sum and the column's deviation, with the reference shifted by `shift`
sixty-fourths (R69, R133); any code where the reference has failed (R73). -/
def reading (an : Analogue) (free key : Nat) (actual shift : Int) (col : Nat) : Int × Bool :=
  if an.fails then
    let v := Config.badReading free key
    ((v / 2 % 511 : Nat) - 255, bit v 0)
  else
    let d := match an.dev.find? (fun e => e.1 = col) with
      | some e => e.2
      | none => 0
    convert (64 * actual + d + shift)

/-- The stuck-cell correction of a column in a pass (R70, R88): over the stuck entries of the tile's table. -/
def stuckCorr (table : List WeltEntry) (loc row0 n col : Nat) (drive : List Int) : Int :=
  table.foldl (fun s e =>
    if e.stuck && decide (e.board = loc ∧ e.column = col ∧ row0 ≤ e.row ∧ e.row < row0 + n) then
      s + nth 0 drive (e.row - row0) * e.residual
    else s) 0

/-- The 512 conversions of one plane pass of a row group (R66, R69, R70). -/
def Chip.pass (c : Chip) (an : Analogue) (free : Nat) (shift : Int) (r : Run) (g p : Nat) (drive : List Int) : List Conv :=
  let row0 := r.row0 + g * r.groupRows
  let d := ((drive.drop (g * r.groupRows)).take r.groupRows).map (planeDrive p)
  let table := (c.tile (tileOfBoard r.board)).welt
  (upFrom 0 512).map fun j =>
    let rows := (upFrom row0 r.groupRows).zip d
    let want := rows.foldl (fun s e => s + e.2 * c.intended r.board e.1 j) 0
    let real := rows.foldl (fun s e => s + e.2 * c.cell r.board e.1 j) 0
    let rd := reading an free ((g * 4 + p) * 512 + j) real shift j
    { sum := want, read := rd.1, ovr := rd.2, corr := stuckCorr table (localOf r.board) row0 r.groupRows j d }

/-- A plane pass with its place. -/
structure Pass where
  group : Nat
  plane : Nat
  cols  : List Conv
  deriving DecidableEq, Repr

/-- Every pass of an operation: groups ascending, planes descending (R65). -/
def Chip.passes (c : Chip) (an : Analogue) (free : Nat) (shift : Int) (r : Run) (drive : List Int) : List Pass :=
  (upFrom 0 r.groups).flatMap fun g =>
    (planesOf r.afmt).map fun p => ⟨g, p, c.pass an free shift r g p drive⟩

/-- Clamped to −255…+255 (R66). -/
def clamp255 (z : Int) : Int := max (-255) (min 255 z)

/-- The plane result of R70, or none where it is unresolved. -/
def planeResult (v : Conv) : Option Int :=
  if v.ovr then
    if 0 < v.read then (if 0 ≤ v.corr then some 255 else none)
    else (if v.corr ≤ 0 then some (-255) else none)
  else some (clamp255 (v.read + v.corr))

/-- A plane sum is clamped (R72). -/
def Conv.clamped (v : Conv) : Bool := decide (255 < v.sum.natAbs)

/-- Conversions of a pass in the order of R72: by slot, then by converter. -/
def slotOrder : List Nat := (upFrom 0 4).flatMap fun s => (upFrom 0 128).map fun i => 4 * i + s

def noConv : Conv := ⟨0, 0, false, 0⟩

/-- Converters that report OVR in at least one slot of a pass. -/
def Pass.hot (p : Pass) : List Nat := (upFrom 0 128).filter fun i =>
  (upFrom 0 4).any fun s => (nth noConv p.cols (4 * i + s)).ovr

/-- Converters that report OVR in all four slots of a pass. -/
def Pass.allFour (p : Pass) : List Nat := (upFrom 0 128).filter fun i =>
  (upFrom 0 4).all fun s => (nth noConv p.cols (4 * i + s)).ovr

/-- ARRAY_HOT bits set for a converter (R73). -/
def setHot (b : Nat) (i : Nat) : CM Unit := do
  let o := boardOff b + 4 * (i / 32)
  let h ← rdM R.ARRAY_HOT_HOT o
  whenM (!bit h (i % 32)) (wrM R.ARRAY_HOT_HOT o (h + 2 ^ (i % 32)))

/-- Record a clamped plane result in ARRAY_LAST_SAT (R72). -/
def recordSat (b group plane col : Nat) (neg : Bool) : CM Unit := do
  let o := boardOff b
  wrM R.ARRAY_LAST_SAT_VALID o 1
  wrM R.ARRAY_LAST_SAT_NEG o (b2n neg)
  wrM R.ARRAY_LAST_SAT_PLANE o plane
  wrM R.ARRAY_LAST_SAT_GROUP o group
  wrM R.ARRAY_LAST_SAT_COLUMN o col

/-- Passes, hot bits and all-hot passes that any drive of the board counts (R72, R73, R565). -/
def countDrive (b : Nat) (ps : List Pass) : CM Nat := do
  let o := boardOff b
  bumpM R.ARRAY_PASSES_COUNT o ps.length
  forM_ ps fun p => forM_ p.hot (setHot b)
  let need ← rdM R.ARRAY_ALLHOT_MIN o
  let hot := (ps.filter fun p => decide (need ≤ p.allFour.length)).length
  bumpM R.ARRAY_HOT_PASSES_COUNT o hot
  pure hot

/-- Spend `n` strokes of the mill (R124). -/
def strokes (t n : Nat) : CM Unit := bumpM R.TILE_MILL_STROKES_COUNT (tileOff t) n

/-- Charge strokes to the tile's reserve, where they fit (R128, R131). -/
def chargeReserve (t n : Nat) : CM Bool := do
  let c ← get
  let used := (c.tile t).charged + n
  if used ≤ c.rd R.TILE_STANDIN_CFG_RESERVE (tileOff t) then do
    onTileM t fun x => { x with charged := used }
    strokes t n
    pure true
  else pure false

/-- A run reads a shadow row that holds an uncorrectable line (R255). -/
def Chip.poisoned (c : Chip) (r : Run) : Bool :=
  c.poison.any fun p => decide (p / 1024 = r.board ∧ r.row0 ≤ p % 1024 ∧ p % 1024 < r.row0 + r.rows)

/-- A share of the package is uncovered (R130, R410): the package's own error. -/
def raiseUncovered (t : Nat) : CM Unit := do
  bumpM R.TILE_UNCOVERED_COUNT (tileOff t)
  raise (t / 48) 4 0 0x4A

/-- The plane result supplied for a conversion: R70's, or the mill's where it is unresolved (R131); a mill that meets
poison leaves the board uncovered (R255). -/
def resolve (r : Run) (v : Conv) : CM Int := do
  let b := r.board
  match planeResult v with
  | some d => pure d
  | none => do
    let t := tileOfBoard b
    bumpM R.ARRAY_UNRESOLVED_COUNT (boardOff b)
    let c ← get
    whenM (c.poisoned r) (raiseUncovered t)
    let ok ← chargeReserve t 1
    if ok then do
      bumpM R.TILE_RESOLVED_COUNT (tileOff t)
      pure (clamp255 v.sum)
    else do
      raiseBoard b 0x03
      let f ← freeValue 9
      pure ((f : Int) % 511 - 255)

/-- The span results of an operation from its plane results: `Σ 2^p × D` per column (R66). -/
def spanResults (r : Run) (ds : List (Nat × Nat × List Int)) : List (List Int) :=
  (upFrom 0 r.spans).map fun k =>
    (upFrom 0 512).map fun j =>
      ds.foldl (fun s e =>
        if e.1 * r.groupRows / r.spanRows = k then s + 2 ^ e.2.1 * nth 0 e.2.2 j else s) 0

/-- A board operation that the board itself drives (R65): counts, hot and clamped results, resolutions, span results. -/
def boardOperation (an : Analogue) (r : Run) (drive : List Int) : CM (List (List Int)) := do
  let free ← freeValue 64
  let c ← get
  let ps := c.passes an free 0 r drive
  let hot ← countDrive r.board ps
  let o := boardOff r.board
  let sats := ps.flatMap fun p => (slotOrder.filter fun j => (nth noConv p.cols j).clamped).map fun j => (p, j)
  bumpM R.ARRAY_SAT_CONV_COUNT o sats.length
  bumpM R.ARRAY_SAT_SPANS_COUNT o
    (((upFrom 0 r.spans).flatMap fun k => (upFrom 0 512).filter fun j =>
      sats.any fun e => decide (e.1.group * r.groupRows / r.spanRows = k ∧ e.2 = j)).length)
  match sats.getLast? with
  | some e => recordSat r.board (r.row0 / r.groupRows + e.1.group) e.1.plane e.2 (decide ((nth noConv e.1.cols e.2).sum < 0))
  | none => pure ()
  bumpM R.WELT_CORR_PASSES_COUNT (tileOff (tileOfBoard r.board))
    ((ps.filter fun p => p.cols.any fun v => !decide (v.corr = 0)).length)
  whenM (decide (0 < hot)) (raiseBoard r.board 0x02)
  let ds ← mapM_ ps fun p => do let d ← mapM_ p.cols (resolve r); pure (p.group, p.plane, d)
  pure (spanResults r ds)

/-- The defined span results of R66, as the mill's stand-in and the replica form them (R71, R129). -/
def Chip.definedSpans (c : Chip) (r : Run) (drive : List Int) : List (List Int) :=
  spanResults r ((c.passes {} 0 0 r drive).map fun p => (p.group, p.plane, p.cols.map fun v => clamp255 v.sum))

/-! ## Column values (R91) -/

/-- The scale code of a weight block (R36: a code of 0xFF reads as 0xFE). -/
def Chip.weightScale (c : Chip) (b row col : Nat) : Nat := min 0xFE (Tbl.get 0 (c.board b).scales (row / 32 * 512 + col))

/-- Step 1 of R91 for each column: scaled span results added in ascending span order. -/
def Chip.scaledSums (c : Chip) (r : Run) (codes : List Nat) (spans : List (List Int)) : FM (List Nat) :=
  fmMap (fun j => do
    let vs ← fmMap (fun k =>
      scaleInt (nth 0 (nth [] spans k) j)
        ((c.weightScale r.board (r.row0 + k * r.spanRows) j : Int) + nth 0 codes k - 254
          - (fp4Bit r.wfmt + fp4Bit r.afmt : Nat))) (upFrom 0 r.spans)
    sumInOrder vs) (upFrom 0 512)

/-- Outlier entries of a run, rows ascending (R90). -/
def outliersOf (table : List WeltEntry) (r : Run) : List WeltEntry :=
  sortBy (fun a b => decide (a.row ≤ b.row)) (table.filter fun e =>
    !e.stuck && decide (e.board = localOf r.board ∧ r.row0 ≤ e.row ∧ e.row < r.row0 + r.rows))

/-- The signed integer and scale code of the activation element of a row of the run, as held in scratchpad (R90). -/
def actElem (r : Run) (blocks : List Block) (row : Nat) : Int × Nat :=
  let i := row - r.row0
  let b := nth zeroBlock blocks (i / 32)
  (elemInt r.afmt (nth 0 b.elems (i % 32)), b.code)

/-- Step 2 of R91: outlier terms added in ascending row order; a zero activation contributes nothing (R90). -/
def addOutliers (r : Run) (blocks : List Block) (os : List WeltEntry) (cols : List Nat) : FM (List Nat) :=
  fmMap (fun e : Nat × Nat =>
    fmFold (fun acc (o : WeltEntry) => do
      let a := actElem r blocks o.row
      if o.column = e.1 ∧ a.1 ≠ 0 then do
        let t ← scaleInt (o.residual * a.1) ((o.scale : Int) + a.2 - 254 - (fp4Bit r.afmt : Nat))
        fpAdd acc t
      else pure acc) e.2 os) ((upFrom 0 cols.length).zip cols)

/-- Outlier terms of a vector that are added (counted in WELT_APPLIED, R90). -/
def outlierCount (r : Run) (blocks : List Block) (os : List WeltEntry) : Nat :=
  (os.filter fun o => !decide ((actElem r blocks o.row).1 = 0)).length

/-! ## Insole arrays (R97 to R102) -/

/-- The arrays of a mode, ascending: DOWN where `up` is false (R98). -/
def Chip.arraysOf (c : Chip) (t : Nat) (up : Bool) : List Nat :=
  let m := c.rd R.INSOLE_MODE_UP (tileOff t)
  (upFrom 0 8).filter fun a => bit m a == up

/-- Where a slot index of a mode's slot space lies: array · 32 + position (R98). -/
def Chip.slotPlace (c : Chip) (t : Nat) (up : Bool) (i : Nat) : Nat :=
  let as := c.arraysOf t up
  nth 0 as (i % as.length) * 32 + i / as.length

/-- A descriptor's fields (R100). -/
structure Desc where
  state : Nat
  fmt   : NFmt
  rank  : Nat
  board : Nat
  tenant : Nat
  downFirst : Nat
  downCount : Nat
  upFirst : Nat
  version : Nat
  deriving DecidableEq, Repr

def descOf (w : Nat) : Desc :=
  { state := bits w 63 62, fmt := nfmtOfBit (bit w 61), rank := bits w 59 54 + 1, board := bits w 53 47,
    tenant := bits w 46 37, downFirst := bits w 36 29, downCount := bits w 28 25, upFirst := bits w 24 17,
    version := bits w 7 0 }

def descWord (d : Desc) : Nat :=
  d.state * 2 ^ 62 + (if d.fmt = .fp4 then 2 ^ 61 else 0) + (d.rank - 1) % 64 * 2 ^ 54 + d.board % 128 * 2 ^ 47
    + d.tenant % 1024 * 2 ^ 37 + d.downFirst % 256 * 2 ^ 29 + d.downCount % 16 * 2 ^ 25 + d.upFirst % 256 * 2 ^ 17
    + d.version % 256

def Chip.desc (c : Chip) (t n : Nat) : Desc := descOf (c.rd R.INSOLE_DESC_DESC (tileOff t + 8 * n))
def Chip.setDesc (c : Chip) (t n : Nat) (d : Desc) : Chip := c.wr R.INSOLE_DESC_DESC (tileOff t + 8 * n) (descWord d)

/-- The ACTIVE descriptor of a tenant on a board (R101). -/
def Chip.activeDesc (c : Chip) (t tenant loc : Nat) : Option Desc :=
  ((upFrom 0 64).map (c.desc t)).find? fun d => decide (d.state = 3 ∧ d.tenant = tenant ∧ d.board = loc)

/-- The element code and scale code of A at a row of the copy and a column (R99). -/
def Chip.downCell (c : Chip) (t : Nat) (d : Desc) (row col : Nat) : Int × Nat :=
  let s := c.slotPlace t false (d.downFirst + row / 512 * cdiv d.rank 16 + col / 16)
  let x := c.tile t
  (elemInt d.fmt (Tbl.get 0 x.insole (s * 8192 + row % 512 * 16 + col % 16)),
   Tbl.get 0 x.insoleScale (s * 256 + row % 512 / 32 * 16 + col % 16))

/-- The element code and scale code of B at a row of rank and a weight column (R99). -/
def Chip.upCell (c : Chip) (t : Nat) (d : Desc) (row col : Nat) : Int × Nat :=
  let s := c.slotPlace t true (d.upFirst + col / 128)
  let x := c.tile t
  (elemInt d.fmt (Tbl.get 0 x.insole (s * 8192 + row * 128 + col % 128)),
   Tbl.get 0 x.insoleScale (s * 256 + row / 32 * 128 + col % 128))

/-- Block products of activation blocks with the columns that `cell` gives, added in ascending block order. -/
def columnSum (fa fb : NFmt) (blocks : List Block) (cell : Nat → Int × Nat) : FM Nat := do
  let vs ← fmMap (fun e : Nat × Block =>
    blockProduct fa fb e.2.code (cell (32 * e.1)).2 (blockInts fa e.2) ((upFrom (32 * e.1) 32).map fun i => (cell i).1))
    ((upFrom 0 blocks.length).zip blocks)
  sumInOrder vs

/-- The insole term of each column (R102): down, requantise, up. -/
def Chip.insoleTerms (c : Chip) (t : Nat) (d : Desc) (r : Run) (blocks : List Block) : FM (List Nat) := do
  let first := r.row0 % 512 + (if c.flag R.ARRAY_CFG_DUAL (boardOff r.board) then 0 else r.row0 / 512 * 512)
  let u ← fmMap (fun col => columnSum r.afmt d.fmt blocks fun i => c.downCell t d (first + i) col) (upFrom 0 d.rank)
  let ub ← toBlocks r.afmt u
  fmMap (fun col => columnSum r.afmt d.fmt ub fun i => c.upCell t d i col) (upFrom 0 512)

/-- Step 3 of R91: the insole term of each column, where the vector's tenant has an insole on the board (R101). -/
def addInsole (t : Nat) (r : Run) (tenant : Option Nat) (blocks : List Block) (cols : List Nat) : CM (List Nat) := do
  match tenant with
  | none => pure cols
  | some n => do
    let c ← get
    match c.activeDesc t n (localOf r.board) with
    | none => do
      bumpM R.INSOLE_MISSES_COUNT (tileOff t)
      pure cols
    | some d => do
      bumpM R.INSOLE_VECTORS_COUNT (tileOff t)
      countedM t do
        let ts ← c.insoleTerms t d r blocks
        fmZip fpAdd cols ts

/-- Steps 2 and 3 of R91 on column sums already scaled. -/
def finishColumns (t : Nat) (r : Run) (ins : Bool) (tenant : Option Nat) (blocks : List Block) (cols : List Nat) :
    CM (List Nat) := do
  let c ← get
  let os := outliersOf (c.tile t).welt r
  bumpM R.WELT_APPLIED_COUNT (tileOff t) (outlierCount r blocks os)
  let v ← countedM t (addOutliers r blocks os cols)
  if ins then addInsole t r tenant blocks v else pure v

end Sys2Proof.Machine
end

