-- ==== Sys2Proof/Machine/Codes.lean ====
section
/-! DEFINITION. Check codes: the CRC-32 of IEEE 802.3 and the CRC-8 of SMBus packet error codes, over byte strings. -/
namespace Sys2Proof.Machine

/-- One bit of the reflected CRC-32. -/
def crc32Bit (r : Nat) : Nat := if r % 2 = 1 then (r / 2) ^^^ 0xEDB88320 else r / 2

/-- `n` bits of the reflected CRC-32. -/
def crc32Bits : Nat → Nat → Nat
  | 0, r => r
  | n + 1, r => crc32Bits n (crc32Bit r)

/-- CRC-32 of IEEE 802.3 (R453, R411). -/
def crc32 (b : List Nat) : Nat :=
  (b.foldl (fun r x => crc32Bits 8 (r ^^^ (x % 256))) 0xFFFFFFFF) ^^^ 0xFFFFFFFF

/-- One bit of the CRC-8 with polynomial x⁸ + x² + x + 1. -/
def crc8Bit (r : Nat) : Nat := if 128 ≤ r then (2 * r % 256) ^^^ 0x07 else 2 * r

def crc8Bits : Nat → Nat → Nat
  | 0, r => r
  | n + 1, r => crc8Bits n (crc8Bit r)

/-- CRC-8 of SMBus (R509), initial value 0. -/
def crc8 (b : List Nat) : Nat := b.foldl (fun r x => crc8Bits 8 (r ^^^ (x % 256))) 0

end Sys2Proof.Machine
end

