-- ==== Sys2Proof/Machine/Flags.lean ====
section
/-! DEFINITION. The part's alert flags (R515): what each bit of MGMT_ALERT_STATUS follows.  The part has no arithmetic flags;
the status bits of its units are register fields, set where the units act. -/
namespace Sys2Proof.Machine

/-- Boards with a COUNT of at least `n` (R371). -/
def Chip.wornBoards (c : Chip) (n : Nat) : Nat := (c.wear.filter fun e => decide (n ≤ e.2.count)).length

/-- Alert causes as bits (R515): each follows its source but FAULT. -/
def Chip.alerts (c : Chip) : Nat :=
  let anyDie (f : Fld) : Bool := (upFrom 0 8).any fun d => c.flag f (dieOff d)
  mask [c.flag R.PWR_STATUS_ALERT, c.flag R.TIMEBASE_STATUS_SYNC_LOST, c.flag R.TIMEBASE_STATUS_HOLDOVER,
    c.flag R.TIMEBASE_STATUS_RACK_MISMATCH, anyDie R.MON_LASER_STATUS_HIGH, c.flag R.PWR_STATUS_THERMTRIP,
    c.flag R.FAULT_STATUS_HOLD, c.flag R.MGMT_ALERT_STATUS_FAULT, anyDie R.EVR_STATUS_DROP_SEEN,
    decide (c.rd R.PKG_BOOT_FINAL ≠ 0), anyDie R.EVR_STATUS_WEAR_WARN || decide (c.wornBoards 16000 ≠ 0), c.flag R.PWR_STATUS_PFAIL]

end Sys2Proof.Machine
end

