-- ==== Sys2Proof/Machine/Views.lean ====
section
/-! DEFINITION. What a register field shows: its stored value, or a view of state held elsewhere; the bytes of a recorder
record (R453); and the register that an address names (R17, R516).  Nothing here changes the state. -/
namespace Sys2Proof.Machine

/-! ## Where an offset lies -/

/-- The die of a byte offset. -/
def dieOfOff (o : Nat) : Nat := o / 0x20000000
/-- The tile of a byte offset in a block with tile windows. -/
def tileOfOff (o : Nat) : Nat := dieOfOff o * 48 + o % 0x20000000 / 0x40000
/-- The index of an entry `stride` bytes wide within a tile window. -/
def inTileOff (o stride : Nat) : Nat := o % 0x20000000 % 0x40000 / stride
/-- The board of a byte offset in a block with board windows. -/
def boardOfOff (o : Nat) : Nat := dieOfOff o * 6144 + o % 0x20000000 / 0x800
/-- The master die (R30). -/
def Chip.master (c : Chip) : Nat := if c.flag R.PKG_STRAPS_MASTER_SEL then 7 else 0

/-- An intrusive JTAG instruction is current (R552): EXTEST, CLAMP or HIGHZ. -/
def Chip.intrusive (c : Chip) : Bool := [0x00, 0x03, 0x04].contains (c.rd R.TEST_STATUS_IR)

/-! ## Welt and insole views (R84 to R108) -/

/-- A welt entry as its 64 bits (R85). -/
def WeltEntry.word (e : WeltEntry) : Nat :=
  2 ^ 63 + (if e.stuck then 2 ^ 62 else 0) + e.board % 128 * 2 ^ 55 + e.row % 1024 * 2 ^ 45 + e.column % 512 * 2 ^ 36
    + e.scale % 256 * 2 ^ 8 + trunc 8 e.residual

/-- The magnitude by which entries are ranked (R93), scaled by 2¹²⁷. -/
def WeltEntry.size (e : WeltEntry) : Nat := e.residual.natAbs * 2 ^ e.scale

/-- The held entry of smallest magnitude. -/
def leastEntry : List WeltEntry → Option WeltEntry
  | [] => none
  | e :: t => match leastEntry t with
    | none => some e
    | some f => if e.size ≤ f.size then some e else some f

def descSlots (d : Desc) : Nat := d.downCount + 4
def Chip.descsIn (c : Chip) (t st : Nat) : List Desc :=
  ((upFrom 0 64).map (c.desc t)).filter fun d => decide (d.state = st)

/-! ## Shelving views (R405, R426) -/

/-- The number under which shelving tables list a unit: class · 2²⁰ + its number in the package. -/
def unitKey (cls n : Nat) : Nat := cls * 2 ^ 20 + n

/-- Counted shelvings of a unit within the last 86,400 operating seconds (R406). -/
def Chip.shelvings (c : Chip) (key : Nat) : Nat :=
  ((Tbl.get [] c.shelfTimes key).filter fun s => decide (c.rd R.PKG_OPSEC_SECONDS < s + 86400)).length

def Chip.out (c : Chip) (cls n : Nat) : Bool :=
  if cls = 1 then decide (c.tileState n = tileShelved) else c.outUnits.contains (unitKey cls n)
def Chip.held (c : Chip) (cls n : Nat) : Bool := c.heldUnits.contains (unitKey cls n)

def Chip.boardsIn (c : Chip) (d st : Nat) : Nat :=
  ((upFrom (d * 6144) 6144).filter fun b => decide (c.arrState b = st)).length

def Chip.queueAt (c : Chip) (o : Nat) : Option FaultEntry :=
  (Tbl.get [] c.faultQueue (dieOfOff o))[o % 0x20000000 / 8]?

/-! ## Event recorder records (R453) -/

def noRecorder : Recorder := ⟨[], [], 0, false, 0, false, none⟩
def noSlotLog : LogSlot := ⟨.empty, false, 0⟩
def Chip.recorder (c : Chip) (d : Nat) : Recorder := Tbl.get noRecorder c.recorders d
def Chip.logSlot (c : Chip) (d s : Nat) : LogSlot := Tbl.get noSlotLog c.logbook (d * 8192 + s)
/-- The logbook slots of a die that have ever been written, with their numbers. -/
def Chip.logSlots (c : Chip) (d : Nat) : List (Nat × LogSlot) :=
  (c.logbook.filter fun e => decide (e.1 / 8192 = d)).map fun e => (e.1 % 8192, e.2)

def padTo (n : Nat) (b : List Nat) : List Nat := (b ++ List.replicate n 0).take n

/-- Bytes 0 to 247 of a record. -/
def EvrRecord.body (r : EvrRecord) : List Nat :=
  leBytes 4 r.seq ++ [r.cls % 16, r.severity % 4, r.snapshot.length, r.flags % 256] ++ leBytes 6 r.beat
    ++ [r.die, 0] ++ leBytes 4 r.opsec ++ leBytes 4 r.cycles ++ leBytes 4 r.step ++ leBytes 2 r.job
    ++ [r.replay % 16, 0] ++ padTo 64 r.detail
    ++ padTo 128 (r.snapshot.flatMap fun e => leBytes 4 e.1 ++ leBytes 4 e.2) ++ List.replicate 24 0

/-- The 256 bytes of a record (R453). -/
def EvrRecord.bytes (r : EvrRecord) : List Nat :=
  r.body ++ leBytes 4 (crc32 r.body) ++ leBytes 4 r.seq

/-- Word `w` of the slot under the cursor, as stored (R463). -/
def Chip.windowWord (c : Chip) (d w : Nat) : Nat :=
  let slot := c.rd R.EVR_CURSOR_SLOT (dieOff d)
  if c.flag R.EVR_WINDOW_STATUS_SEEK_BUSY (dieOff d) then 0
  else if c.flag R.EVR_CURSOR_SRC (dieOff d) then
    match (c.logSlot d slot).content with
    | .empty => 0
    | .whole r => le r.bytes (4 * w) 4
    | .torn base => Config.free (base + w) % 2 ^ 32
  else
    match Tbl.find? (c.recorder d).ring slot with
    | none => 0
    | some r => le r.1.bytes (4 * w) 4

/-- Severity of a trigger class (R450). -/
def evrSeverity (cls : Nat) : Nat :=
  match cls with
  | 1 | 6 | 9 | 10 | 11 | 14 => 1
  | 2 | 3 | 13 => 2
  | 4 | 5 | 7 | 8 => 3
  | _ => 0

/-! ## Context store and serving (chapters 10 to 12) -/

def noFrame : Frame := ⟨0, false⟩
def noDesc : CtxDesc := ⟨0, 0, 0, 0, none, 0, [], []⟩
def Chip.ctxDesc (c : Chip) (d i : Nat) : CtxDesc := Tbl.get noDesc c.descs (d * 65536 + i)
/-- Frames of a die that are not zeroed free ones. -/
def Chip.busyFrames (c : Chip) (d : Nat) : List (Nat × Frame) :=
  (c.frames.filter fun e => decide (e.1 / 2 ^ 24 = d)).map fun e => (e.1 % 2 ^ 24, e.2)
def Chip.freeFrames (c : Chip) (d : Nat) : Nat := c.rd R.CTX_FRAMES_TOTAL (dieOff d) - (c.busyFrames d).length
def Chip.dirtyFrames (c : Chip) (d : Nat) : Nat := ((c.busyFrames d).filter (·.2.dirty)).length
def Chip.key (c : Chip) (kind slot : Nat) : Option (List Nat) := Tbl.find? c.keys (kind * 4096 + slot)

/-- What a CTX probe shows (R277): the descriptor that CTX_PROBE_SEL names. -/
def Chip.probedDesc (c : Chip) (d : Nat) : CtxDesc := c.ctxDesc d (c.rd R.CTX_PROBE_SEL_INDEX (dieOff d))

/-- A step of a job runs, or is held between runs: not a job in HOLD, whose steps never commit (R404, R419). -/
def Chip.stepping (c : Chip) : Bool := decide (c.rd R.SEQ_STATE_STATE = seqRunning ∨ c.rd R.SEQ_STATE_STATE = seqStopping)
def Chip.isHead (c : Chip) : Bool := c.flag R.SEQ_STATE_HEAD
def Chip.isTail (c : Chip) : Bool := c.flag R.SEQ_STATE_TAIL

def Chip.request (c : Chip) (i : Nat) : Option Request := Tbl.find? c.serving.requests i
def noTenant : TenantOrder := ⟨false, false, none, 0, 0, 0, 1, 0, 0, 0⟩
def Chip.tenant (c : Chip) (t : Nat) : TenantOrder := (Tbl.find? c.serving.tenants t).getD noTenant
/-- Requests of a tenant in any state (R289). -/
def Chip.tenantActive (c : Chip) (t : Nat) : Nat := (c.serving.requests.filter fun e => decide (e.2.tenant = t)).length
def historyTile (i : Nat) : Nat := i % 384

/-- The request at SERVE_PROBE_SEL, read through a function; 0 when that index is FREE (R317). -/
def Chip.probed (c : Chip) (f : Request → Nat) : Nat := ((c.request (c.rd R.SERVE_PROBE_SEL_INDEX)).map f).getD 0

/-- The tenant at SERVE_TENANT_SEL. -/
def Chip.shownTenant (c : Chip) : TenantOrder := c.tenant (c.rd R.SERVE_TENANT_SEL_TENANT)

/-! ## Where the sampler's state lies (R321) -/

def countLine (x : Nat) : Nat := 256 * (x / 384)
def recordLine (x : Nat) : Nat := 43776 + 8 * (x / 384)

/-- Bytes of a line as a view shows them: those of slot 4 that the slot sees, else zeros (R142, R144). -/
def Chip.samplerByte (c : Chip) (t line off n : Nat) : Nat :=
  let p := c.rd R.SPAD_SLOT_BASE_BASE (slotOff t 4) + line
  if c.slotSees t 4 p then le (lineBytes (c.tile t).mem p) off n else 0

/-- The selected context's tail holds a sampler record (R338). -/
def Chip.samplerHeld (c : Chip) : Bool :=
  let x := c.rd R.SAMPLER_PROBE_SEL_CONTEXT
  c.isTail && c.slotSees (historyTile x) 4 (c.rd R.SPAD_SLOT_BASE_BASE (slotOff (historyTile x) 4) + recordLine x)

/-- `n` bytes at offset `off` of the selected context's record (R320, R321). -/
def Chip.samplerField (c : Chip) (off n : Nat) : Nat :=
  let x := c.rd R.SAMPLER_PROBE_SEL_CONTEXT
  if c.isTail then c.samplerByte (historyTile x) (recordLine x + off / 32) (off % 32) n else 0

/-- Entry BUCKET of the selected context's count table. -/
def Chip.samplerCount (c : Chip) : Nat :=
  let x := c.rd R.SAMPLER_PROBE_SEL_CONTEXT
  let b := c.rd R.SAMPLER_PROBE_SEL_BUCKET
  if c.isTail then c.samplerByte (historyTile x) (countLine x + b / 16) (2 * (b % 16)) 2 else 0

/-! ## Loading and truing (chapters 13 and 14) -/

def noWear : Wear := ⟨0, 0, 0, false, false⟩
def Chip.wearOf (c : Chip) (b : Nat) : Wear := Tbl.get noWear c.wear b
/-- Bytes 16 to 511 of a board's image: its LADDER, PULSE and OFFSET taps (R374). -/
def zeroTaps : List Nat := List.replicate 496 0
def Chip.tapsOf (c : Chip) (b : Nat) : List Nat := Tbl.get zeroTaps c.taps b
/-- The 512 bytes of a board's image, CRC computed over them (R374, R387). -/
def Chip.imageBytes (c : Chip) (b : Nat) : List Nat :=
  let head := leBytes 2 b ++ [Tbl.get 0 c.calTemp b, 0] ++ leBytes 4 (c.rd R.ARRAY_CAL_SECONDS_SECONDS (boardOff b)) ++ [0, 0, 0, 0]
  head ++ leBytes 4 (crc32 (head ++ [0, 0, 0, 0] ++ c.tapsOf b)) ++ c.tapsOf b

/-- The wear record with the highest COUNT, the lowest board of equals. -/
def Chip.mostWorn (c : Chip) : Nat × Nat :=
  (c.wear.map fun e => (e.1, e.2.count)).foldl (fun best x => if best.2 < x.2 then x else best) (0, 0)

/-- The READY board of a die whose last passed truing is oldest, the lowest of equals (R388). -/
def Chip.oldestBoard (c : Chip) (d : Nat) : Option Nat :=
  ((upFrom (d * 6144) 6144).filter fun b => decide (c.arrState b = arrReady)).foldl
    (fun best b => match best with
      | none => some b
      | some a =>
        if c.rd R.ARRAY_CAL_BEAT_BEAT (boardOff b) < c.rd R.ARRAY_CAL_BEAT_BEAT (boardOff a) then some b else some a) none

/-- Word `w` of a board's image: word 0 live, the others as latched (R387). -/
def Chip.imageWord (c : Chip) (b w : Nat) : Nat :=
  if w = 0 then le (c.imageBytes b) 0 4 else le (Tbl.get [] c.imageLatch b) (4 * w) 4

/-- The record that LOAD_STUCK_SEL names (R361, R371). -/
def Chip.stuckShown (c : Chip) (d : Nat) : Nat :=
  nth 0 (Tbl.get [] c.stuckMap (d * 48 + c.rd R.LOAD_STUCK_SEL_TILE (dieOff d))) (c.rd R.LOAD_STUCK_SEL_INDEX (dieOff d))

/-- Keys held in the slots of a kind (R448). -/
def Chip.keysOf (c : Chip) (kind : Nat) : Nat := (c.keys.filter fun e => decide (e.1 / 4096 = kind)).length

/-! ## The views -/

/-- Boards of a die whose row is in its pulse-verify cycle (R475). -/
def Chip.progBoards (c : Chip) (d : Nat) : Nat :=
  (c.loads.map fun l => (l.boards.filter fun e => decide (e.1 / 6144 = d) && e.2.busy).length).foldl (· + ·) 0

/-- Die, channel and value of the hottest diode among some channels: the lower die, then the lower channel, of equals. -/
def Chip.hottest (c : Chip) (ds chs : List Nat) : Nat × Nat × Nat :=
  (ds.flatMap fun d => chs.map fun ch => (d, ch, c.rd R.MON_LAST_VALUE (dieOff d + 4 * ch))).foldl
    (fun best x => match best with
      | none => some x
      | some b => if b.2.2 < x.2.2 then some x else some b) none |>.getD (0, 0, 0)

/-- The half of a diode: half W of its die for channels 14 and 15 (PWR_HOTTEST). -/
def diodeHalf (d ch : Nat) : Nat := if ch = 12 ∨ ch = 13 then 2 * d + 1 else 2 * d

/-- The half that a PWR half window's offset names, and its hotter diode. -/
def Chip.halfHottest (c : Chip) (o : Nat) : Nat × Nat × Nat :=
  let h := o % 0x20000000 / 0x20
  c.hottest [h / 2] [10 + 2 * (h % 2), 11 + 2 * (h % 2)]

/-- A half's effective level (R472). -/
def Chip.level (c : Chip) (h : Nat) : Nat :=
  max (c.rd R.PWR_H_STATE_T_LEVEL (halfWin h)) (c.rd R.PWR_STATUS_P_LEVEL)

/-- A half is below its gear clock (R472, R180). -/
def Chip.belowGear (c : Chip) (h : Nat) : Bool :=
  decide (0 < c.level h ∨ c.rd R.TIMEBASE_HALF_CLK_GEAR (4 * h) ≠ c.rd R.SEQ_STATE_GEAR)

/-- Core cycles per beat of a half at its present clock, rounded down; 0 while the clock is stopped (R472, R478). -/
def Chip.cyclesPerBeat (c : Chip) (h : Nat) : Nat :=
  let g := match c.rd R.TIMEBASE_HALF_CLK_GEAR (4 * h) with
    | 0 => 960
    | 1 => 816
    | _ => 672
  if c.flag R.PWR_H_STATE_TRIPPED (halfWin h) || !(c.flag R.TIMEBASE_STATUS_LOCKED || c.flag R.TIMEBASE_STATUS_HOLDOVER) then 0
  else g * (16 - c.level h) / 16

/-- What a field shows at a byte offset. -/
def Chip.shown (c : Chip) (f : Fld) (o : Nat) : Nat :=
  let x := c.tile (tileOfOff o)
  let d := dieOfOff o
  match f.view with
  | .stored => c.rd f o
  | .shelvings => min 3 (c.shelvings (unitKey 0 (boardOfOff o)))
  | .weltUsed => x.welt.length
  | .weltStaged => b2n x.weltStaged.isSome
  | .weltStuck => (x.welt.filter (·.stuck)).length
  | .weltOutlier => (x.welt.filter (!·.stuck)).length
  | .weltDropped => min x.droppedOutliers 65535
  | .weltWaived => min x.waived.length 65535
  | .weltFloorValid => b2n (decide (4096 ≤ x.welt.length))
  | .weltFloorScale => if 4096 ≤ x.welt.length then ((leastEntry x.welt).map (·.scale)).getD 0 else 0
  | .weltFloorResidual => if 4096 ≤ x.welt.length then ((leastEntry x.welt).map (·.residual.natAbs)).getD 0 else 0
  | .weltEntry => match x.welt[inTileOff o 8]? with
    | none => 0
    | some e => e.word
  | .insoleActive => ((c.descsIn (tileOfOff o) 3).map descSlots).foldl (· + ·) 0
  | .insoleFree => 256 - (((c.descsIn (tileOfOff o) 1 ++ c.descsIn (tileOfOff o) 2 ++ c.descsIn (tileOfOff o) 3).map descSlots).foldl (· + ·) 0)
  | .descLoading => (c.descsIn (tileOfOff o) 1).length
  | .descStandby => (c.descsIn (tileOfOff o) 2).length
  | .descActive => (c.descsIn (tileOfOff o) 3).length
  | .descFree => (c.descsIn (tileOfOff o) 0).length
  | .standinBoards =>
    ([R.TILE_STANDIN_SET_MEMBER0, R.TILE_STANDIN_SET_MEMBER1, R.TILE_STANDIN_SET_MEMBER2, R.TILE_STANDIN_SET_MEMBER3].filter
      fun m => decide (128 ≤ c.rd m o)).length
  | .master => c.master
  | .tackScopes =>
    let waits (s r : Nat) : Bool := c.arrivals.any fun a => decide (a.scope = s ∧ a.root = r)
    let here := decide (d = c.master)
    mask [waits 1 (2 * d), waits 1 (2 * d + 1), waits 2 d, here && waits 3 0, here && (waits 4 0 || !c.jobPegs.isEmpty)]
  | .d2dPresent => b2n (edgeAt d (o % 0x20000000 / 0x100)).isSome
  | .d2dPeer => peerDie d (o % 0x20000000 / 0x100)
  | .tilesOut low held =>
    mask ((upFrom (d * 48 + (if low then 0 else 32)) (if low then 32 else 16)).map fun t =>
      if held then c.held 1 t else c.out 1 t)
  | .halvesOut held => mask ([2 * d, 2 * d + 1].map fun h => if held then c.held 2 h else c.out 2 h)
  | .dieOut held => b2n (if held then c.held 3 d else c.out 3 d)
  | .boardsIn held => c.boardsIn d (if held then arrHeld else arrShelved)
  | .queueFill => (Tbl.get [] c.faultQueue d).length
  | .queueValid => b2n (c.queueAt o).isSome
  | .queueClass => ((c.queueAt o).map (·.cls)).getD 0
  | .queueReplay => ((c.queueAt o).map (·.replay)).getD 0
  | .queueCause => ((c.queueAt o).map (·.cause)).getD 0
  | .queueIndex => ((c.queueAt o).map (·.index)).getD 0
  | .queueStep => ((c.queueAt o).map (·.step)).getD 0
  | .evrUnflushed => ((c.recorder d).ring.filter fun e => !e.2.2).length
  | .evrFill => (c.recorder d).ring.length
  | .evrRetired => ((c.logSlots d).filter fun e => e.2.retired).length
  | .evrUsed => ((c.logSlots d).filter fun e => !e.2.retired && (match e.2.content with | .whole _ => true | _ => false)).length
  | .evrWarn => ((c.logSlots d).filter fun e => decide (16000 ≤ e.2.writes)).length
  | .evrMax => ((c.logSlots d).map (·.2.writes)).foldl max 0
  | .evrSlotRetired => b2n (c.flag R.EVR_CURSOR_SRC (dieOff d) && (c.logSlot d (c.rd R.EVR_CURSOR_SLOT (dieOff d))).retired)
  | .evrSlotWrites =>
    if c.flag R.EVR_CURSOR_SRC (dieOff d) then (c.logSlot d (c.rd R.EVR_CURSOR_SLOT (dieOff d))).writes else 0
  | .evrSeverity => evrSeverity (o % 0x20000000 / 4)
  | .evrWindow => c.windowWord d (o % 0x20000000 / 4)
  | .progBoards => c.progBoards (o % 0x20000000 / 0x10)
  | .hotHalf => let x := c.hottest (upFrom 0 8) (upFrom 10 6); diodeHalf x.1 x.2.1
  | .hotChannel => (c.hottest (upFrom 0 8) (upFrom 10 6)).2.1
  | .hotValue => (c.hottest (upFrom 0 8) (upFrom 10 6)).2.2
  | .halfHotChannel => (c.halfHottest o).2.1
  | .halfHotValue => (c.halfHottest o).2.2
  | .level => c.level (o % 0x20000000 / 0x20)
  | .throttled => b2n (c.belowGear (o % 0x20000000 / 4))
  | .cycPerBeat => c.cyclesPerBeat (o % 0x20000000 / 4)
  | .alertsLo => c.alerts % 128
  | .alertsHi => c.alerts / 256
  | .d2dState => if (edgeAt d (o % 0x20000000 / 0x100)).isSome then c.rd f o else 0
  | .framesFree => c.freeFrames d
  | .framesDirty => c.dirtyFrames d
  | .ctxState => (c.probedDesc d).state
  | .ctxTenant => (c.probedDesc d).tenant
  | .ctxPages => min 0x7FFF (c.probedDesc d).entries.length
  | .ctxCommit => (c.probedDesc d).commit
  | .sessions => c.serving.sessions.length
  | .activeRequests => c.serving.requests.length
  | .probeState => c.probed (·.state)
  | .probePriority => c.probed (·.priority)
  | .probeTenant => c.probed (·.tenant)
  | .probeGapsOver => c.probed fun r => min 0xFFFF r.overN
  | .probeAdmit => c.probed (·.admitBeat)
  | .probeFirst => c.probed fun r => r.firstBeat.getD 0
  | .probeLast => c.probed fun r => r.lastBeat.getD 0
  | .probeGapWorst => c.probed fun r => min (2 ^ 32 - 1) r.worst
  | .tenEnabled => b2n c.shownTenant.enabled
  | .tenPrivileged => b2n c.shownTenant.privileged
  | .tenPolicy => c.shownTenant.policy
  | .tenClass => c.shownTenant.cls
  | .tenActive => c.tenantActive (c.rd R.SERVE_TENANT_SEL_TENANT)
  | .samValid => b2n c.samplerHeld
  | .samSwitch => c.samplerField 2 1 % 2
  | .samDraft => c.samplerField 39 1 % 8
  | .samNgram => c.samplerField 39 1 / 16 % 4
  | .samTurnGen => c.samplerField 4 2
  | .samCount => c.samplerCount
  | .samEmitted => c.samplerField 80 4
  | .stuckRecord => c.stuckShown d
  | .wearWarn => c.wornBoards 16000
  | .wearWorn => c.wornBoards 20000
  | .maxDie => c.mostWorn.1 / 6144
  | .maxBoard => c.mostWorn.1 % 6144
  | .maxCount => c.mostWorn.2
  | .truingDue => ((upFrom (d * 6144) 6144).filter fun b => c.flag R.TRUE_BOARD_STATE_DUE (boardOff b)).length
  | .truingActive => (c.truings.filter fun e => decide (e.1 / 6144 = d ∧ e.2.result = none)).length
  | .oldestAge => match c.oldestBoard d with
    | none => 0
    | some b => min (2 ^ 32 - 1) (c.rd R.TIMEBASE_BEAT_BEAT - c.rd R.ARRAY_CAL_BEAT_BEAT (boardOff b))
  | .oldestValid => b2n (c.oldestBoard d).isSome
  | .oldestBoard => ((c.oldestBoard d).map (· % 6144)).getD 0
  | .trueImage => c.imageWord (boardOfOff o) (o % 0x800 / 4)
  | .loadActive => ((upFrom 0 8).map c.progBoards).foldl (· + ·) 0
  | .keyPresent => b2n (c.key (c.rd R.SEC_KEY_SEL_KIND) (c.rd R.SEC_KEY_SEL_SLOT)).isSome
  | .keysData => c.keysOf 1
  | .keysMac => c.keysOf 3

/-! ## Registers by address -/

/-- Split an offset into instances of a register's windows and index: what is left, none outside them. -/
def splitDims : List (Nat × Nat) → Nat → Option Nat
  | [], r => some r
  | (n, s) :: t, r => if r / s < n then splitDims t (r % s) else none

/-- The word of a register an offset names: none where the offset lies outside it. -/
def Reg.word? (r : Reg) (off : Nat) : Option Nat :=
  if off < r.addr then none
  else match splitDims r.dims (off - r.addr) with
    | none => none
    | some k => if k / 4 < r.words then some (k / 4) else none

/-- Find the register at an offset within die 0's space, with its word. -/
def findReg : List Reg → Nat → Option (Reg × Nat)
  | [], _ => none
  | r :: t, off => match r.word? off with
    | some w => some (r, w)
    | none => findReg t off

/-- A register named by an address (R17): the register, the byte offset of the instance, the word of the value. -/
structure RegAt where
  reg  : Reg
  off  : Nat
  word : Nat
  deriving DecidableEq, Repr

/-- The register at an address; none where the address is unmapped (R22, R517). -/
def regAt (a : Nat) : Option RegAt :=
  let a := a % 2 ^ 32 / 4 * 4
  let low := a % 0x20000000
  match findReg (regsOf (low / 0x1000000)) low with
  | none => none
  | some (r, w) => some ⟨r, low - r.addr - 4 * w + (if r.perDie then a / 0x20000000 * 0x20000000 else 0), w⟩

/-- The group of a TORUS register is UNUSED, so it reads 0 (R249). -/
def Chip.groupUnused (c : Chip) (r : Reg) (o : Nat) : Bool :=
  decide (0xa000100 ≤ r.addr ∧ r.addr < 0xa000180) && decide (c.rd R.TORUS_GRP_STATE_STATE (o / 0x80 * 0x80) = 0)

/-- The whole value of a register as it stands: WO fields read 0 (R18). -/
def Chip.value (c : Chip) (r : Reg) (o : Nat) : Nat :=
  if c.groupUnused r o then 0
  else (r.fields.map fun f => match f.acc with
    | .wo => 0
    | _ => c.shown f o % 2 ^ f.width * 2 ^ f.lsb).foldl (· + ·) 0

/-- A word as a read would return it, without the side effects of the read: the lowest word live, an upper word from
the shadow (R21, R451). -/
def Chip.peek (c : Chip) (a : Nat) : Nat :=
  match regAt a with
  | none => 0
  | some x =>
    if x.word = 0 then c.value x.reg x.off % 2 ^ 32
    else Tbl.get 0 c.shadows (x.reg.addr + x.off) / 2 ^ (32 * (x.word - 1)) % 2 ^ 32

/-- The two words of a WIDE capture: live where the first is the lowest word of a value (R451). -/
def Chip.peekWide (c : Chip) (a : Nat) : Nat × Nat :=
  match regAt a with
  | none => (0, c.peek (a + 4))
  | some x =>
    if x.word = 0 ∧ 1 < x.reg.words then
      (c.value x.reg x.off % 2 ^ 32, c.value x.reg x.off / 2 ^ 32 % 2 ^ 32)
    else (c.peek a, c.peek (a + 4))

end Sys2Proof.Machine
end

