-- ==== Sys2Proof/Machine/Recorder.lean ====
section
/-! DEFINITION. The event recorder and the logbook (chapter 17): triggers and their snapshots (R449 to R454), the buffer
(R455, R456), flushes and slot choice (R457 to R460), the start-up scan (R462), the cursor and seek (R463, R465). -/
namespace Sys2Proof.Machine

def Chip.setRecorder (c : Chip) (d : Nat) (r : Recorder) : Chip :=
  { c with recorders := Tbl.put noRecorder c.recorders d r }
def onRecorder (d : Nat) (f : Recorder → Recorder) : CM Unit := modify fun c => c.setRecorder d (f (c.recorder d))
def setLogSlot (d s : Nat) (v : LogSlot) : CM Unit :=
  modify fun c => { c with logbook := Tbl.put noSlotLog c.logbook (d * 8192 + s) v }

/-! ## Triggers (R450 to R454) -/

/-- Classes that record whatever their ENABLE bit says (R450). -/
def evrAlways (cls : Nat) : Bool := [4, 5, 7, 8, 13, 15].contains cls

/-- The slots of a snapshot: the entries of the class's list, the die field replaced, WIDE entries as two slots where
they fit, 16 slots at most (R451). -/
def Chip.snapshotFrom (c : Chip) (d cls : Nat) : Nat → Nat → List (Nat × Nat) → List (Nat × Nat)
  | 0, _, acc => acc
  | n + 1, e, acc =>
    let o := dieOff d + 64 * cls + 4 * e
    let a := c.rd R.EVR_LIST_ADDRESS o * 4 + dieOff d
    let wide := c.flag R.EVR_LIST_WIDE o
    if 16 ≤ acc.length then acc
    else if wide ∧ acc.length ≤ 14 then
      let v := c.peekWide a
      c.snapshotFrom d cls n (e + 1) (acc ++ [(a, v.1), (a + 4, v.2)])
    else c.snapshotFrom d cls n (e + 1) (acc ++ [(a, if wide then (c.peekWide a).1 else c.peek a)])

/-- The record a trigger captures, unnumbered. -/
def Chip.capture (c : Chip) (d cls sev : Nat) (overflow : Bool) (detail : List Nat) : EvrRecord :=
  let job := decide (1 ≤ c.rd R.SEQ_STATE_STATE)
  { seq := 0, cls := cls, severity := sev,
    flags := 4 * c.rd R.TIMEBASE_STATUS_HOLDOVER + 8 * b2n overflow,
    beat := c.rd R.TIMEBASE_BEAT_BEAT, die := d, opsec := c.rd R.PKG_OPSEC_SECONDS,
    cycles := c.rd R.SEC_CHALLENGE_CYCLES, step := if job then c.rd R.SEQ_STEP_STEP else 0,
    job := if job then 2 ^ 15 + c.rd R.SEQ_JOB_JOB else 0, replay := c.rd R.FAULT_STATUS_REPLAY,
    detail := detail,
    snapshot := c.snapshotFrom d cls (c.rd R.EVR_CLASS_COUNT (dieOff d + 4 * cls)) 0 [] }

/-- A trigger with a severity of its own: refused in PFAIL_MODE and by a full staging queue, both counted in
EVR_TRIG_LOST (R452, R460); a disabled class takes no record and counts nothing (R450). -/
def takeRecordSev (d cls sev : Nat) (overflow : Bool) (detail : List Nat) : CM Unit := do
  let c ← get
  if !evrAlways cls && !c.flag R.EVR_CLASS_ENABLE (dieOff d + 4 * cls) then pure ()
  else if c.flag R.EVR_STATUS_PFAIL_MODE (dieOff d) || decide (8 ≤ (c.recorder d).staging.length) then
    bumpM R.EVR_TRIG_LOST_COUNT (dieOff d)
  else onRecorder d fun r => { r with staging := r.staging ++ [c.capture d cls sev overflow detail] }

/-- A trigger of a class at its severity (R450). -/
def takeRecord (d cls : Nat) (detail : List Nat) : CM Unit := takeRecordSev d cls (evrSeverity cls) false detail

/-- TRIGGER: a MANUAL record of the severity written (R450). -/
def doTrigger (d sev : Nat) : CM Unit := do
  let v ← rdM R.EVR_MANUAL_VALUE (dieOff d)
  takeRecordSev d 15 (sev % 4) false (leBytes 4 v)

/-! ## The buffer and flushes (R455, R456, R459) -/

/-- Start a flush, or join the one that runs (R459). -/
def startFlush (d : Nat) (pfail : Bool) : CM Unit := do
  let c ← get
  if c.flag R.EVR_STATUS_FLUSHING (dieOff d) then
    whenM pfail (onRecorder d fun r => { r with pfail := true })
  else do
    wrM R.EVR_STATUS_FLUSHING (dieOff d) 1
    onRecorder d fun r => { r with stored := 0, pfail := pfail }

/-- FLUSH: EVR_CTRL.FLUSH starts a flush (R459). -/
def doFlush (d : Nat) : CM Unit := startFlush d false

/-- The number after a record's, 0 skipped (R455). -/
def nextSeq (n : Nat) : Nat := if (n + 1) % 2 ^ 32 = 0 then 1 else (n + 1) % 2 ^ 32

/-- A sequence number precedes another in serial order (R455). -/
def seqBefore (a b : Nat) : Bool := decide (1 ≤ (b + 2 ^ 32 - a) % 2 ^ 32 ∧ (b + 2 ^ 32 - a) % 2 ^ 32 < 2 ^ 31)

/-- RECORD_ENTRY: the oldest staged snapshot takes a number and enters the buffer; before SCAN_DONE it waits (R452,
R455, R456, R462). -/
def doRecordEntry (d : Nat) : CM Unit := do
  let c ← get
  let r := c.recorder d
  match r.staging with
  | [] => pure ()
  | s :: rest =>
    if !c.flag R.EVR_STATUS_SCAN_DONE (dieOff d) then pure ()
    else do
      let n := c.rd R.EVR_SEQ_NEXT (dieOff d)
      let put : CM Unit := do
        wrM R.EVR_SEQ_NEXT (dieOff d) (nextSeq n)
        onRecorder d fun r => { r with
          staging := rest
          ring := Tbl.insert r.next ({ s with seq := n }, false) r.ring
          next := (r.next + 1) % 1024 }
        whenM (decide (2 ≤ s.severity)) (startFlush d false)
      match Tbl.find? r.ring r.next with
      | none => put
      | some old =>
        if old.2 then put
        else if c.flag R.EVR_STATUS_FLUSHING (dieOff d) then do
          bumpM R.EVR_DROPPED_COUNT (dieOff d)
          wrM R.EVR_STATUS_DROP_SEEN (dieOff d) 1
          onRecorder d fun r => { r with staging := rest, gap := true }
        else do
          bumpM R.EVR_BUF_LOST_COUNT (dieOff d)
          onRecorder d fun r => { r with gap := true }
          put

/-! ## Storing a record (R457, R458) -/

/-- Of numbered things, the one that a strict order puts first. -/
def firstBy {α : Type} (before : α → α → Bool) : List α → Option α
  | [] => none
  | a :: t => match firstBy before t with
    | none => some a
    | some b => if before b a then some b else some a

/-- The empty or torn slot with the fewest writes, ties to the lowest (R457 item 1). -/
def Chip.freshSlot (c : Chip) (d : Nat) : Option Nat :=
  let used := c.logSlots d
  let open_ := used.filter fun e => !e.2.retired && (match e.2.content with | .whole _ => false | _ => true)
  let never := (upFrom 0 8192).find? fun s => !(used.any fun e => decide (e.1 = s))
  match never with
  | some s => match firstBy (fun (a b : Nat × LogSlot) => decide (a.2.writes < b.2.writes)) (open_.filter fun e => decide (e.2.writes = 0 ∧ e.1 < s)) with
    | some e => some e.1
    | none => some s
  | none => (firstBy (fun (a b : Nat × LogSlot) => decide (a.2.writes < b.2.writes)) open_).map (·.1)

/-- The slot of the oldest whole record whose severity is not above the new one's (R457 item 2). -/
def Chip.oldestSlot (c : Chip) (d sev : Nat) : Option Nat :=
  let whole := (c.logSlots d).filterMap fun e => if e.2.retired then none else match e.2.content with
    | .whole r => if r.severity ≤ sev then some (e.1, r.seq) else none
    | _ => none
  (firstBy (fun (a b : Nat × Nat) => seqBefore a.2 b.2) whole).map (·.1)

def Chip.chooseSlot (c : Chip) (d sev : Nat) : Option Nat :=
  match c.freshSlot d with
  | some s => some s
  | none => c.oldestSlot d sev

/-- A slot holds words that make no whole record: 64 free ones (R461). -/
def tearSlot (d s : Nat) (retired : Bool) (writes : Nat) : CM Unit := do
  let c ← get
  modify fun c => { c with fresh := c.fresh + 64 }
  setLogSlot d s ⟨.torn c.fresh, retired, writes⟩

/-- Store a record: choose a slot, count the write; a slot that fails verification is retired and the record goes to the
next; a slot that reaches 20,000 writes is retired after the write (R458).  `fails` slots fail verification; true where
the record was stored. -/
def storeRecord (d : Nat) (r : EvrRecord) : Nat → Nat → CM Bool
  | 0, _ => pure false
  | n + 1, fails => do
    let c ← get
    match c.chooseSlot d r.severity with
    | none => pure false
    | some s => do
      let w := (c.logSlot d s).writes + 1
      whenM (decide (16000 ≤ w)) (wrM R.EVR_STATUS_WEAR_WARN (dieOff d) 1)
      if 0 < fails then do
        tearSlot d s true w
        storeRecord d r n (fails - 1)
      else do
        setLogSlot d s ⟨.whole r, decide (20000 ≤ w), w⟩
        pure true

/-- The unflushed record of lowest number, with its ring slot (R459). -/
def Recorder.unflushed (r : Recorder) : Option (Nat × EvrRecord) :=
  firstBy (fun (a b : Nat × EvrRecord) => seqBefore a.2.seq b.2.seq)
    ((r.ring.filter fun e => !e.2.2).map fun e => (e.1, e.2.1))

/-- The flush ends: durations and counts (R459, R460). -/
def endFlush (d us : Nat) : CM Unit := do
  let c ← get
  let r := c.recorder d
  wrM R.EVR_STATUS_FLUSHING (dieOff d) 0
  bumpM R.EVR_FLUSHES_ALL (dieOff d)
  whenM r.pfail (bumpM R.EVR_FLUSHES_PFAIL (dieOff d))
  wrM R.EVR_LAST_FLUSH_RECORDS (dieOff d) (min r.stored 65535)
  wrM R.EVR_LAST_FLUSH_US (dieOff d) (min us 65535)
  onRecorder d fun r => { r with stored := 0, pfail := false }
  whenM (!c.flag R.PWR_STATUS_PFAIL) (wrM R.EVR_STATUS_PFAIL_MODE (dieOff d) 0)

/-- VAUX fails while a record is being stored: the slot chosen for it is torn (R461). -/
def tearStore (d : Nat) : CM Unit := do
  let c ← get
  if c.flag R.EVR_STATUS_FLUSHING (dieOff d) then
    match (c.recorder d).unflushed with
    | none => pure ()
    | some (_, e) =>
      match c.chooseSlot d e.severity with
      | none => pure ()
      | some s => tearSlot d s (c.logSlot d s).retired ((c.logSlot d s).writes + 1)
  else pure ()

/-- FLUSH_STORE: the running flush stores its next record, or ends when none is left; `fails` slots fail verification
on the way, and `us` is the flush's duration so far (R457 to R459). -/
def doFlushStore (d fails us : Nat) : CM Unit := do
  let c ← get
  let r := c.recorder d
  if !c.flag R.EVR_STATUS_FLUSHING (dieOff d) then pure ()
  else match r.unflushed with
    | none => if r.staging.isEmpty then endFlush d us else pure ()
    | some (i, e) => do
      let flags := e.flags + b2n r.pfail + 2 * b2n r.gap
      let ok ← storeRecord d { e with flags := flags } 8193 fails
      onRecorder d fun r => { r with ring := Tbl.insert i (e, true) r.ring }
      if ok then onRecorder d fun r => { r with stored := r.stored + 1, gap := false }
      else do
        bumpM R.EVR_DROPPED_COUNT (dieOff d)
        wrM R.EVR_STATUS_DROP_SEEN (dieOff d) 1
        onRecorder d fun r => { r with gap := true }

/-! ## Start-up scan (R455, R462) -/

/-- The latest number in a logbook in serial order. -/
def Chip.latestSeq (c : Chip) (d : Nat) : Option Nat :=
  firstBy (fun a b => seqBefore b a) ((c.logSlots d).filterMap fun e => if e.2.retired then none else match e.2.content with
    | .whole r => some r.seq
    | _ => none)

/-- Torn slots of a die. -/
def Chip.tornSlots (c : Chip) (d : Nat) : Nat :=
  ((c.logSlots d).filter fun e => !e.2.retired && (match e.2.content with | .torn _ => true | _ => false)).length

/-- The scan of one die: torn slots, the number to go on from, SCAN_DONE, the START record (R462). -/
def scanDie (d kind : Nat) : CM Unit := do
  let c ← get
  wrM R.EVR_TORN_COUNT (dieOff d) (c.tornSlots d)
  wrM R.EVR_SEQ_NEXT (dieOff d) (match c.latestSeq d with
    | none => 1
    | some n => nextSeq n)
  wrM R.EVR_STATUS_SCAN_DONE (dieOff d) 1
  let c ← get
  takeRecord d 0 (leBytes 4 (c.peek R.SEC_BOOT_VALID.addr) ++ leBytes 4 (c.peek R.SEC_LC_STATE.addr)
    ++ [c.peek R.PKG_STRAPS_MASTER_SEL.addr % 256, kind, 0, 0] ++ leBytes 4 (c.tornSlots d))

/-! ## The cursor (R463, R465) -/

/-- SEEK: a search of the logbook starts (R465). -/
def doSeek (d n : Nat) : CM Unit := do
  wrM R.EVR_WINDOW_STATUS_SEEK_BUSY (dieOff d) 1
  onRecorder d fun r => { r with seek := some (n % 2 ^ 32) }

/-- SEEK_DONE: SRC is 1, and SLOT that of the earliest whole record not before the number sought, where there is one (R465). -/
def doSeekDone (d : Nat) : CM Unit := do
  let c ← get
  match (c.recorder d).seek with
  | none => pure ()
  | some n => do
    let whole := (c.logSlots d).filterMap fun e => if e.2.retired then none else match e.2.content with
      | .whole r => if seqBefore r.seq n then none else some (e.1, r.seq)
      | _ => none
    onRecorder d fun r => { r with seek := none }
    wrM R.EVR_WINDOW_STATUS_SEEK_BUSY (dieOff d) 0
    wrM R.EVR_CURSOR_SRC (dieOff d) 1
    match firstBy (fun (a b : Nat × Nat) => seqBefore a.2 b.2) whole with
    | none => wrM R.EVR_WINDOW_STATUS_FOUND (dieOff d) 0
    | some e => do
      wrM R.EVR_CURSOR_SLOT (dieOff d) e.1
      wrM R.EVR_WINDOW_STATUS_FOUND (dieOff d) 1

/-- A write of EVR_CURSOR during a seek ends it (R465). -/
def endSeek (d : Nat) : CM Unit := do
  wrM R.EVR_WINDOW_STATUS_SEEK_BUSY (dieOff d) 0
  onRecorder d fun r => { r with seek := none }

/-- After a read of EVR_WINDOW_63: with AUTO set the cursor moves on, modulo the slots of its source (R463). -/
def windowAdvance (d : Nat) : CM Unit := do
  let c ← get
  if c.flag R.EVR_CURSOR_AUTO (dieOff d) then
    wrM R.EVR_CURSOR_SLOT (dieOff d) ((c.rd R.EVR_CURSOR_SLOT (dieOff d) + 1) %
      (if c.flag R.EVR_CURSOR_SRC (dieOff d) then 8192 else 1024))
  else pure ()

/-! ## PFAIL (R460) -/

/-- PFAIL_N asserts: the PFAIL record, a flush, PFAIL_MODE; a second assertion before the flush ends takes no record
(R460, R466). -/
def pfailRecord (d : Nat) : CM Unit := do
  let c ← get
  if c.flag R.EVR_STATUS_PFAIL_MODE (dieOff d) then pure ()
  else do
    takeRecord d 8 (leBytes 4 (c.peek (R.MON_LAST_VALUE.addr + 28 + dieOff d))
      ++ leBytes 2 (((c.recorder d).ring.filter fun e => !e.2.2).length))
    wrM R.EVR_STATUS_PFAIL_MODE (dieOff d) 1
    startFlush d true

end Sys2Proof.Machine
end

