-- ==== Sys2Proof/Machine/Programs.lean ====
section
/-! DEFINITION. What a tile's program says without running it: its ARR instructions with their address registers, and the
stand-in set with its costs (R128, R129). -/
namespace Sys2Proof.Machine

/-- The word at a place of a program bank. -/
def Tile.word (x : Tile) (bank pc : Nat) : Nat := Tbl.get 0 x.prog (bank * 16384 + pc)

/-- The stand-in set holds a board: the valid MEMBER fields of TILE_STANDIN_SET (R128). -/
def Chip.members (c : Chip) (t : Nat) : List (Fld × Nat) :=
  [R.TILE_STANDIN_SET_MEMBER0, R.TILE_STANDIN_SET_MEMBER1, R.TILE_STANDIN_SET_MEMBER2, R.TILE_STANDIN_SET_MEMBER3].map
    fun f => (f, c.rd f (tileOff t))

def Chip.inStandin (c : Chip) (t loc : Nat) : Bool := (c.members t).any fun m => decide (m.2 = 128 + loc)

/-- Strokes of a stand-in ARR (R129): `⌈VCOUNT × planes × 512 × (rows / segment rows) / 250⌉`. -/
def standinStrokes (vcount : Nat) (r : Run) : Nat :=
  cdiv (vcount * (planesOf r.afmt).length * 512 * (r.rows / (if r.groupRows = 16 then 16 else 32))) 250

/-- An ARR of a program with its address register values, which follow from the program alone (R112). -/
structure CheckArr where
  loc : Nat
  span : Nat
  spans : Nat
  afmt : NFmt
  vcount : Nat
  src : Nat
  stride : Nat
  deriving DecidableEq, Repr

/-- The ARRs of a program from an index on, with the address registers as the program sets them. -/
def arrsOf (x : Tile) (bank : Nat) : Nat → Nat → Map Nat → List CheckArr
  | 0, _, _ => []
  | n + 1, pc, xs =>
    match decodeWord (x.word bank pc) with
    | some (.setx xd imm) => arrsOf x bank n (pc + 1) (Tbl.put 0 xs xd imm)
    | some (.addx xd imm) => arrsOf x bank n (pc + 1) (Tbl.put 0 xs xd ((Tbl.get 0 xs xd + imm) % 2 ^ 32))
    | some (.arr _ b span sM1 afmt _ vM1 src _ _ _) =>
      ⟨b, span, sM1 + 1, nfmtOfBit afmt, vM1 + 1, Tbl.get 0 xs src % 2 ^ 17, Tbl.get 0 xs src / 2 ^ 17 % 2 ^ 15⟩
        :: arrsOf x bank n (pc + 1) xs
    | _ => arrsOf x bank n (pc + 1) xs

/-- A board's stand-in cost: the strokes its ARR instructions in a bank would take (R128). -/
def Chip.standinCost (c : Chip) (t bank loc : Nat) : Nat :=
  (((arrsOf (c.tile t) bank (c.rd R.TILE_PROG_LEN_LEN (tileOff t + 4 * bank)) 0 []).filter fun a => decide (a.loc = loc)).map
    fun a => standinStrokes a.vcount (c.runOf (boardOf t loc) a.span a.spans a.afmt)).foldl (· + ·) 0

/-- Admit a board that has left service to its tile's stand-in set where it fits (R128). -/
def admitStandin (b : Nat) : CM Unit := do
  let c ← get
  let t := tileOfBoard b
  let bank := c.rd R.TILE_STATE_BANK (tileOff t)
  let valid := (c.members t).filter fun m => decide (128 ≤ m.2)
  let costs := ((valid.map fun m => c.standinCost t bank (m.2 - 128)) ++ [c.standinCost t bank (localOf b)]).foldl (· + ·) 0
  if c.inStandin t (localOf b) then pure ()
  else if costs ≤ c.rd R.TILE_STANDIN_CFG_RESERVE (tileOff t) then
    match (c.members t).find? fun m => decide (m.2 < 128) with
    | none => pure ()
    | some m => wrM m.1 (tileOff t) (128 + localOf b)
  else pure ()

/-- A board that is READY again leaves the stand-in set (R128). -/
def leaveStandin (b : Nat) : CM Unit := do
  let c ← get
  let t := tileOfBoard b
  match (c.members t).find? fun m => decide (m.2 = 128 + localOf b) with
  | none => pure ()
  | some m => wrM m.1 (tileOff t) 0

/-- Put a board in a state; one that becomes READY leaves the stand-in set. -/
def setBoardState (b st : Nat) : CM Unit := do
  wrM R.ARRAY_STATE_STATE (boardOff b) st
  whenM (decide (st = arrReady)) (leaveStandin b)

end Sys2Proof.Machine
end

