-- ==== Sys2Proof/Machine/FaultOps.lean ====
section
/-! DEFINITION. The one response to a detected error (R399 to R406): shelving a unit with what it contains, the fault
queue, FAULT_LAST and the notice to the head, the REPORT and recorder records. -/
namespace Sys2Proof.Machine

/-! ## The job, the head, messages -/

/-- Node of a package index of the job. -/
def Chip.jobNode (c : Chip) (i : Nat) : Nat := ((c.seq.jobs[i]?).map (·.node)).getD 0
def Chip.headNode (c : Chip) : Nat := c.jobNode c.seq.headIx
def Chip.tailNode (c : Chip) : Nat := c.jobNode c.seq.tailIx
/-- The packages of the job but this one. -/
def Chip.others (c : Chip) : List Nat := (c.seq.jobs.map (·.node)).filter fun n => !decide (n = c.rd R.PKG_NODE_NODE)

/-- Queue a flit on the lane group of a route (R239). -/
def noLink : Link :=
  { queue := [], unacked := [], resend := [], txSeq := 0, rxSeq := 0, credit := [32, 512, 512, 256], owed := [0, 0, 0, 0],
    turn := 0, left := 0, nak := false, ackDue := false, failing := 0, fails := 0, trainFails := 0, rejoin := false,
    echoes := [], peer := none, count := 0, line := none }
def Chip.link (c : Chip) (g : Nat) : Link := Tbl.get noLink c.links g
def onLink (g : Nat) (f : Link → Link) : CM Unit :=
  modify fun c => { c with links := Tbl.put noLink c.links g (f (c.link g)) }

/-- The lane group, as port · 4 + group, that the accepted list routes a node on (R237). -/
def Chip.routeOf (c : Chip) (node : Nat) : Option Nat :=
  if c.flag R.TORUS_PATH_VALID (4 * node) then
    some (c.rd R.TORUS_PATH_PORT (4 * node) * 4 + c.rd R.TORUS_PATH_GROUP (4 * node))
  else none

/-- Queue a flit toward its destination; one without a route has no group to leave by. -/
def enqueue (f : Flit) : CM Unit := do
  let c ← get
  match c.routeOf f.dest with
  | none => pure ()
  | some g => onLink g fun l => { l with queue := l.queue ++ [f] }

/-- Send a CTRL message on VL0 (R228, R424). -/
def sendCtrl (dest : Nat) (m : Ctrl) : CM Unit := do
  let c ← get
  enqueue ⟨dest, c.rd R.SEQ_JOB_JOB, 0, .ctrl m⟩

/-! ## Records -/

/-- UNIT of a fault record (R424): the die over the index within the die. -/
def unitWord (die idx : Nat) : Nat := die * 2 ^ 29 + idx

def report (r : Report) : CM Unit := modify fun c => { c with reports := c.reports ++ [r] }

/-- The 16 bytes of a record (R425). -/
def Report.bytes (r : Report) : List Nat :=
  [r.event, r.cls, r.cause, 0] ++ leBytes 4 r.unit ++ leBytes 4 r.step ++ leBytes 4 r.detail

/-- A load event: its load record for the next REPORT and the recorder (R352, R450). -/
def loadEvent (event kind code object index detail : Nat) : CM Unit := do
  let c ← get
  let r : Report := ⟨event, kind, code, object, index, detail⟩
  report r
  takeRecord c.master 12 r.bytes

/-- A queue entry as its 64 bits (R426). -/
def FaultEntry.word (e : FaultEntry) : Nat :=
  2 ^ 63 + e.cls % 8 * 2 ^ 60 + e.replay % 16 * 2 ^ 56 + e.cause % 256 * 2 ^ 48 + e.index % 8192 * 2 ^ 35 + e.step % 2 ^ 32

/-- The recorder class of a detected error by its unit class (R450). -/
def faultClass (cls : Nat) : Nat :=
  match cls with
  | 0 => 1
  | 1 | 2 => 2
  | _ => 3

/-! ## Shelving (R405, R406) -/

/-- Causes whose shelving orders no replay (R400). -/
def noReplay (cause : Nat) : Bool := [0x04, 0x05, 0x46].contains cause

/-- Count a shelving of a unit; true where it is the third within 86,400 operating seconds (R406). -/
def countShelving (cls n : Nat) : CM Bool := do
  let c ← get
  let now := c.rd R.PKG_OPSEC_SECONDS
  let key := unitKey cls n
  let recent := (Tbl.get [] c.shelfTimes key).filter fun s => decide (now < s + 86400)
  set { c with shelfTimes := Tbl.put [] c.shelfTimes key (recent ++ [now]) }
  pure (decide (2 ≤ recent.length))

/-- A unit becomes HELD: its HELD record and report (R406, R425, R450). -/
def becomeHeld (cls die idx n cause : Nat) : CM Unit := do
  let c ← get
  let r : Report := ⟨0x12, cls, cause, unitWord die idx, c.rd R.SEQ_STEP_STEP, c.shelvings (unitKey cls n)⟩
  report r
  takeRecord die 4 r.bytes

/-- Take a board out of service (R80, R566): an EMPTY board stays EMPTY, one already out stays out. -/
def shelveBoard (b cause : Nat) (counted alone : Bool) : CM Unit := do
  let c ← get
  let st := c.arrState b
  if st = arrReady ∨ st = arrProgram ∨ st = arrTruing then do
    let held ← if counted then countShelving 0 b else pure false
    setBoardState b (if held then arrHeld else arrShelved)
    modify fun c => { c with truings := Tbl.erase b c.truings }
    modify fun c => { c with shelvedWith :=
      if alone then c.shelvedWith.filter (· != b) else c.shelvedWith.filter (· != b) ++ [b] }
    admitStandin b
    whenM held (becomeHeld 0 (b / 6144) (b % 6144) b cause)
  else pure ()

/-- Take a tile out of service with its boards (R405). -/
def shelveTile (t cause : Nat) : CM Unit := do
  wrM R.TILE_STATE_STATE (tileOff t) tileShelved
  forM_ (upFrom 0 128) fun l => shelveBoard (boardOf t l) cause true false

/-- Tiles of a half. -/
def halfTiles (h : Nat) : List Nat := upFrom (h / 2 * 48 + h % 2 * 24) 24

def bitOr (n i : Nat) : Nat := if bit n i then n else n + 2 ^ i
def bitClear (n i : Nat) : Nat := if bit n i then n - 2 ^ i else n

/-- Record a die as lost for data transit, or no longer so (R218). -/
def showLostDie (x : Nat) (lost : Bool) : CM Unit :=
  forM_ (upFrom 0 8) fun d => do
    let l ← rdM R.MESH_STATUS_LOST_DIES (dieOff d)
    let l' := if lost then bitOr l x else bitClear l x
    wrM R.MESH_STATUS_LOST_DIES (dieOff d) l'
    let e ← rdM R.MESH_STATUS_LOST_EDGES (dieOff d)
    wrM R.MESH_STATUS_DETOUR (dieOff d) (b2n (decide (0 < l' + e)))

/-- Shelve a unit with everything that goes with it, and count the shelving of the unit named (R405, R406). -/
def shelveUnit (cls die idx cause : Nat) : CM Unit := do
  bumpM R.FAULT_CAUSE_COUNT (4 * cause)
  let tileHeld (t : Nat) : CM Unit := do
    let held ← countShelving 1 t
    whenM held do
      modify fun c => { c with heldUnits := c.heldUnits ++ [unitKey 1 t] }
      becomeHeld 1 die idx t cause
  match cls with
  | 0 => shelveBoard (die * 6144 + idx) cause true true
  | 1 => do
    shelveTile (die * 48 + idx) cause
    tileHeld (die * 48 + idx)
  | 2 => do
    let h := die * 2 + idx
    forM_ (halfTiles h) fun t => shelveTile t cause
    modify fun c => { c with outUnits := c.outUnits ++ [unitKey 2 h] }
    let held ← countShelving 2 h
    whenM held do
      modify fun c => { c with heldUnits := c.heldUnits ++ [unitKey 2 h] }
      becomeHeld 2 die idx h cause
      whenM (decide (cause = 0x20)) (showLostDie die true)
  | 3 => do
    forM_ (halfTiles (2 * die) ++ halfTiles (2 * die + 1)) fun t => shelveTile t cause
    modify fun c => { c with outUnits := c.outUnits ++ [unitKey 2 (2 * die), unitKey 2 (2 * die + 1), unitKey 3 die] }
    let held ← countShelving 3 die
    whenM held do
      modify fun c => { c with heldUnits := c.heldUnits ++ [unitKey 3 die] }
      becomeHeld 3 die idx die cause
  | _ => do
    modify fun c => { c with pkgCauses := c.pkgCauses ++ [cause] }
    let held ← countShelving 4 0
    whenM held (modify fun c => { c with holdCause := if c.holdCause = 0 then 2 else c.holdCause })

/-! ## Taking a fault (R402 to R404) -/

/-- A unit is out of service, or lies inside one that is (R404). -/
def Chip.outOrInside (c : Chip) (cls die idx : Nat) : Bool :=
  let tileOut (t : Nat) := c.out 1 t || c.out 2 (halfOfTile t) || c.out 3 (t / 48)
  match cls with
  | 0 => decide (c.arrState (die * 6144 + idx) = arrShelved ∨ c.arrState (die * 6144 + idx) = arrHeld)
      || tileOut (tileOfBoard (die * 6144 + idx))
  | 1 => tileOut (die * 48 + idx)
  | 2 => c.out 2 (die * 2 + idx) || c.out 3 die
  | 3 => c.out 3 die
  | _ => false

/-- How a unit's share of the replay is covered, as far as the shelving shows (R425). -/
def Chip.cover (c : Chip) (cls die idx : Nat) : Nat :=
  match cls with
  | 0 =>
    let b := die * 6144 + idx
    if c.arrState b = arrEmpty then 0
    else if c.inStandin (tileOfBoard b) (localOf b) then 1
    else if c.flag R.FAULT_REPLICA_VALID then 2 else 3
  | 1 | 2 | 3 => 3
  | _ => 0

/-- The head's own notice, or a FAULT_NOTICE on VL0 (R403). -/
def sendNotice (n : Notice) : CM Unit := do
  let c ← get
  if c.isHead then modify fun c => { c with notices := c.notices ++ [n] }
  else sendCtrl c.headNode (.notice n)

/-- What a new entry and an error without a job have in common: the counts, FAULT_LAST, the alert and the records. -/
def recordFault (die : Nat) (e : FaultEntry) (queued overflow job : Bool) : CM Unit := do
  let c ← get
  whenM (!overflow) (bumpM R.FAULT_DETECTED_COUNT)
  wrM R.FAULT_LAST_ENTRY 0 (e.word + die * 2 ^ 32)
  whenM (!overflow) (wrM R.MGMT_ALERT_STATUS_FAULT 0 1)
  let r : Report := ⟨0x10, e.cls, e.cause, unitWord die e.index, e.step,
    e.replay + (if job then c.cover e.cls die e.index * 256 else 0)⟩
  report r
  takeRecordSev die (faultClass e.cls) (evrSeverity (faultClass e.cls)) overflow
    (r.bytes ++ (if queued then leBytes 8 e.word else []))

/-- A die controller takes a fault: absorbed; or shelved, and entered, or counted as an overflow, or, with no job,
recorded alone (R402 to R404). -/
def takeFault (die cls idx replay cause : Nat) : CM Unit := do
  let c ← get
  let late := c.arrived
  let boundary := c.seq.next.isSome && c.flag R.SEQ_LAST_VALID
  let step := if c.stepping then (c.rd R.SEQ_STEP_STEP + b2n (late || boundary)) % 2 ^ 32 else 0
  let run := if late || boundary then 0 else replay
  let e : FaultEntry := ⟨cls, idx, run, cause, step⟩
  let q := Tbl.get [] c.faultQueue die
  if c.outOrInside cls die idx
      || q.any (fun x => decide (x.cls = cls ∧ x.index = idx ∧ x.step = step ∧ x.replay = run)) then
    bumpM R.FAULT_ABSORBED_COUNT
  else do
    shelveUnit cls die idx cause
    if !c.stepping then recordFault die e false false false
    else do
      whenM (!noReplay cause) (modify fun c => if late then { c with nextFault := true } else { c with runFault := true })
      whenM (decide (cause = 0x46)) (modify fun c => { c with holdCause := if c.holdCause = 0 then 5 else c.holdCause })
      if 16 ≤ q.length then do
        bumpM R.FAULT_QUEUE_STATUS_OVERFLOWS (dieOff die)
        modify fun c => { c with holdCause := if c.holdCause = 0 then 1 else c.holdCause }
        recordFault die e false true true
      else do
        modify fun c => { c with faultQueue := Tbl.put [] c.faultQueue die (q ++ [e]) }
        recordFault die e true false true
        sendNotice ⟨c.rd R.PKG_NODE_NODE, cls, cause, run, step, unitWord die idx⟩

/-- A detected error of the package, raised at the package controller itself (R403). -/
def raisePackage (cause : Nat) : CM Unit := do
  let c ← get
  takeFault c.master 4 0 (c.rd R.FAULT_STATUS_REPLAY) cause

/-- FAULT: a FAULT tack message reaches its die controller (R403). -/
def doFault (die : Nat) : CM Unit := do
  let c ← get
  match c.tack.find? fun m => match m with | .fault d _ _ _ _ => decide (d = die) | _ => false with
  | some (.fault d cls unit replay cause) => do
    modify fun c => { c with tack := dropFirst (fun m => match m with | .fault d _ _ _ _ => decide (d = die) | _ => false) c.tack }
    bumpM R.TACK_FAULTS_COUNT (dieOff d)
    bumpM R.TACK_WORDS_COUNT (dieOff d) 2
    takeFault d cls unit replay cause
  | _ => pure ()

/-- The LINK record (R450, R454): kind 0 torus group or 1 die-to-die edge. -/
def linkRecord (die kind port group state owner job : Nat) : CM Unit :=
  takeRecord die 10 ([kind, port, group, state, owner, 0] ++ leBytes 2 job)

end Sys2Proof.Machine
end

