-- ==== Sys2Proof/Machine/Engine.lean ====
section
/-! DEFINITION. The engine of a tile: fetch and issue in program order (R112, R114), board operations (R117, R128 to
R131), vector operations (R118, R563), moves, waits, sends, receives, pegs, the sampled check (R132 to R134) and
retention (R135).  An engine command carries the tile; the instruction is the word at the tile's PC in its program bank. -/
namespace Sys2Proof.Machine

/-! ## Fetch, address registers, interlocks -/

/-- The instruction a tile issues next: none where it does not run, has issued CHK DONE, or its issue is held. -/
def Chip.fetch (c : Chip) (t : Nat) : Option EInstr :=
  let x := c.tile t
  let bank := c.rd R.TILE_STATE_BANK (tileOff t)
  let pc := c.rd R.TILE_STATE_PC (tileOff t)
  if c.running t && !x.ending && decide (x.hold = .none) && decide (pc < c.rd R.TILE_PROG_LEN_LEN (tileOff t + 4 * bank)) then
    decodeWord (x.word bank pc)
  else none

def Tile.xreg (x : Tile) (i : Nat) : Nat := Tbl.get 0 x.xregs i
/-- LINE of an address register (R110). -/
def Tile.line (x : Tile) (i : Nat) : Nat := x.xreg i % 2 ^ 17
/-- STRIDE of an address register (R110). -/
def Tile.stride (x : Tile) (i : Nat) : Nat := x.xreg i / 2 ^ 17 % 2 ^ 15
/-- Line of vector v (R110). -/
def Tile.vline (x : Tile) (i v : Nat) : Nat := x.line i + v * x.stride i
/-- Batch slot number of an address register (R110). -/
def Tile.slotNo (x : Tile) (i : Nat) : Nat := x.xreg i % 2 ^ 11

/-- The range from the first vector's first line to the last vector's last line (R114). -/
def Tile.range (x : Tile) (i vectors lines : Nat) : LineRange := ⟨x.line i, (vectors - 1) * x.stride i + lines⟩

def LineRange.meets (a b : LineRange) : Bool := decide (a.first < b.first + b.count ∧ b.first < a.first + a.count)

/-- The batch slot of a number; an all-zero slot beyond COUNT (R298). -/
def noSlot : BatchSlot := ⟨0, 0, 0, false, false, false, false, 0, 0⟩
def Tile.slot (x : Tile) (s : Nat) : BatchSlot := Tbl.get noSlot x.batch s

/-- Element format of a VEC FMT field. -/
def fmtOfCode (k : Nat) : NFmt :=
  match k with
  | 0 => .int4
  | 1 => .fp4
  | _ => .fp8

def headDim (hd : Nat) : Nat := 64 * 2 ^ hd

/-- Lines of the operands of a VEC operation: A, B and D (R111, R118). -/
def vecLines (op len : Nat) (f : NFmt) (aux : Nat) : Nat × Nat × Nat :=
  let n := fpLines len
  match op with
  | 0x0 | 0x1 | 0xA | 0xB => (n, n, n)
  | 0x2 | 0x6 | 0x7 => (n, 1, n)
  | 0x3 | 0x4 | 0x5 => (n, 0, 1)
  | 0x8 => (1, 0, 1)
  | 0x9 => (n, fpLines (headDim (bits aux 5 4) / 2), n)
  | 0xC => (n, 0, narrowLines f (cdiv len 32))
  | 0xD => (narrowLines f (cdiv len 32), 0, n)
  | _ => (n, 0, fpLines (2 * (aux % 16 + 1)))

/-- Lines an instruction touches: address register, vectors, lines of each (R110). -/
structure Access1 where
  reg     : Nat
  vectors : Nat
  lines   : Nat
  deriving DecidableEq, Repr

/-- The range of an access, as R114 compares it. -/
def Tile.rangeOf (x : Tile) (a : Access1) : LineRange := x.range a.reg a.vectors a.lines
/-- The lines of each vector of an access. -/
def Tile.each (x : Tile) (a : Access1) : List LineRange := (upFrom 0 a.vectors).map fun v => ⟨x.vline a.reg v, a.lines⟩

/-- What an instruction claims at issue: its unit, the lines it reads and writes, the receive it waits for. -/
structure Claim where
  unit   : Option EUnit
  reads  : List Access1
  writes : List Access1
  needs  : Option Nat
  deriving DecidableEq, Repr

def Chip.claim (c : Chip) (t : Nat) (x : Tile) (i : EInstr) : Claim :=
  match i with
  | .arr add b _ spansM1 afmt _ vM1 src dst _ _ =>
    let rows := (spansM1 + 1) * spanRows (c.rd R.ARRAY_CFG_ROWGROUP (boardOff (boardOf t b)))
    let d : Access1 := ⟨dst, vM1 + 1, 64⟩
    ⟨some (.board b), ⟨src, vM1 + 1, narrowLines (nfmtOfBit afmt) (rows / 32)⟩ :: (if add then [d] else []), [d], none⟩
  | .copy src dst lM1 vM1 => ⟨some .mover, [⟨src, vM1 + 1, lM1 + 1⟩], [⟨dst, vM1 + 1, lM1 + 1⟩], none⟩
  | .zero dst lM1 vM1 => ⟨some .mover, [], [⟨dst, vM1 + 1, lM1 + 1⟩], none⟩
  | .setx _ _ | .addx _ _ => ⟨none, [], [], none⟩
  | .vec op a b d lenM1 f vM1 aux =>
    let l := vecLines op (lenM1 + 1) (fmtOfCode f) aux
    ⟨some .vector, ⟨a, vM1 + 1, l.1⟩ :: (if l.2.1 = 0 then [] else [⟨b, vM1 + 1, l.2.1⟩]), [⟨d, vM1 + 1, l.2.2⟩], none⟩
  | .attn a d _ hd gM1 _ _ vM1 =>
    let g := gM1 + 1
    ⟨some .mill, [⟨a, vM1 + 1, narrowLines .fp4 (g * headDim hd / 32)⟩], [⟨d, vM1 + 1, fpLines (g * headDim hd)⟩], none⟩
  | .scrub b _ _ => ⟨some (.board b), [], [], none⟩
  | .red op a d tag lenM1 vM1 =>
    let len := lenM1 + 1
    let la := if op = 0 then narrowLines .fp8 (cdiv len 32) else fpLines len
    ⟨some .vector, [⟨a, vM1 + 1, la⟩, ⟨d, vM1 + 1, fpLines len⟩], [⟨d, vM1 + 1, fpLines len⟩], some tag⟩
  | .send a lM1 vM1 _ _ _ _ _ => ⟨some .send, [⟨a, vM1 + 1, lM1 + 1⟩], [], none⟩
  | .route a b lM1 vM1 _ _ _ =>
    ⟨some .send, [⟨a, vM1 + 1, lM1 + 1⟩, ⟨b, vM1 + 1, fpLines (Tbl.get 0 x.topk (x.line b))⟩], [], none⟩
  | .ret a lM1 tag =>
    let n := match x.recvs.find? (fun r => r.tag = tag) with
      | some r => r.cap
      | none => 1
    ⟨some .send, [⟨a, n, lM1 + 1⟩], [], none⟩
  | .post d lM1 _ _ => ⟨some .receive, [], [⟨d, 1, lM1 + 1⟩], none⟩
  | .gather d lM1 _ _ capM1 _ => ⟨some .receive, [], [⟨d, capM1 + 1, lM1 + 1⟩], none⟩
  | .wait _ | .peg _ _ | .waitBeat _ | .waitCycles _ | .sample | .retain _ _ | .done => ⟨none, [], [], none⟩

/-- Lines a posted receive holds (R114, R123). -/
def Recv.range (r : Recv) : LineRange :=
  if r.gather then ⟨r.line, (r.cap - 1) * r.stride + r.lines⟩ else ⟨r.line, r.lines⟩

/-- Issue is held under R114: a full queue, an interlock, or a receive that has not completed. -/
def Tile.blocked (x : Tile) (k : Claim) : Bool :=
  let reads := k.reads.map x.rangeOf
  let writes := k.writes.map x.rangeOf
  (match k.unit with
    | none => false
    | some u => decide (8 ≤ (x.issued.filter fun i => i.unit = u).length))
  || x.issued.any (fun i =>
      i.writes.any (fun w => reads.any w.meets || writes.any w.meets)
        || i.reads.any (fun r => writes.any r.meets))
  || x.recvs.any (fun r => !r.done && (reads.any (r.range).meets || decide (k.needs = some r.tag)))

/-- Issue the next instruction of a tile where `sel` takes it: count a held cycle (TILE_STALLS), or advance the PC,
enter it in its unit's queue, and do what it does. -/
def issue (t : Nat) (sel : EInstr → Option (Nat → CM Unit)) : CM Unit := do
  let c ← get
  match c.fetch t with
  | none => pure ()
  | some i =>
    match sel i with
    | none => pure ()
    | some act =>
      let x := c.tile t
      let k := c.claim t x i
      if x.blocked k then bumpM R.TILE_STALLS_COUNT (tileOff t)
      else do
        let pc := c.rd R.TILE_STATE_PC (tileOff t)
        wrM R.TILE_STATE_PC (tileOff t) (pc + 1)
        match k.unit with
        | none => pure ()
        | some u => onTileM t fun x =>
            { x with issued := x.issued ++
              [{ unit := u, index := pc, reads := k.reads.map x.rangeOf, writes := k.writes.map x.rangeOf, replica := false }] }
        act pc

/-! ## Packets (R200) -/

def Chip.node (c : Chip) : Nat := c.rd R.PKG_NODE_NODE
def Chip.place (c : Chip) (t : Nat) : Place := ⟨c.node, t / 48, t % 48⟩

/-- Packets of up to 16 lines (R200). -/
def packetsOf (mk : Nat → List (List Nat) → Packet) : Nat → Nat → List (List Nat) → List Packet
  | 0, _, _ => []
  | n + 1, first, ls => match ls with
    | [] => []
    | _ => mk first (ls.take 16) :: packetsOf mk n (first + 16) (ls.drop 16)

/-- Inject packets into the mesh. -/
def inject (ps : List Packet) : CM Unit := modify fun c => { c with flight := c.flight ++ ps }

/-- The step and replay count a tile's packets carry. -/
def Chip.stepNow (c : Chip) : Nat := c.rd R.SEQ_STEP_STEP
def Chip.replayNow (c : Chip) : Nat := c.rd R.FAULT_STATUS_REPLAY

/-! ## Board operations (R117, R128 to R131) -/

/-- The tenant whose insole a vector is evaluated against: none for an empty gather slot or a slot that is not valid. -/
def Chip.vectorTenant (c : Chip) (t src seq v : Nat) (gslot : Bool) : Option Nat :=
  let x := c.tile t
  if gslot then
    match x.recvs.find? (fun r => r.gather && decide (r.line = x.line src)) with
    | none => none
    | some r =>
      match r.placed[v]? with
      | none => none
      | some g => if (x.slot g.slot).valid then some (x.slot g.slot).tenant else none
  else
    let s := x.slot (x.slotNo seq + v)
    if s.valid then some s.tenant else none

/-- An ARR whose source is ready, for one vector: how the span results come (board, stand-in), then R91, then the
destination (R117). -/
def arrVector (an : Analogue) (t : Nat) (add ins : Bool) (r : Run) (src dst seq : Nat) (gslot standin : Bool) (v : Nat) :
    CM Unit := do
  let x ← tileM t
  let blocks ← readNarrow t r.afmt (x.vline src v) (r.rows / 32)
  let drives ← countedM t (spanDrives r.afmt r.spanRows blocks)
  let drive := drives.flatMap (·.2)
  let spans ← if standin then do let c ← get; pure (c.definedSpans r drive) else boardOperation an r drive
  let c ← get
  let cols ← countedM t (c.scaledSums r (drives.map (·.1)) spans)
  let vals ← finishColumns t r ins (c.vectorTenant t src seq v gslot) blocks cols
  if add then do
    let old ← readFp t (x.vline dst v) 512
    let sums ← countedM t (fmZip fpAdd old vals)
    writeFp t (x.vline dst v) sums
  else writeFp t (x.vline dst v) vals

/-- Ask the replica for an ARR: REPLICA_REQ, then the source vectors into its TRUING slot (R412). -/
def askReplica (t idx loc : Nat) (r : Run) (src vcount : Nat) : CM Unit := do
  let c ← get
  let x := c.tile t
  let node := c.rd R.FAULT_REPLICA_NODE
  bumpM R.FAULT_REPLICA_SENT_COUNT
  modify fun c => { c with replicaOut := c.replicaOut ++ [⟨t, idx, c.rd R.TIMEBASE_BEAT_BEAT, x.xregs⟩] }
  sendCtrl node (.replicaReq ⟨c.node, t / 48, t % 48, c.replayNow, c.stepNow, idx, vcount, c.rd R.FAULT_SHARE_CRC_CRC, t % 48 * 128 + loc⟩)
  let ls ← mapM_ (upFrom 0 vcount) fun v => mapM_ (upFrom (x.vline src v) (narrowLines r.afmt (r.rows / 32))) (readLine t 0)
  inject (packetsOf (fun first data =>
    { src := c.place t, dest := ⟨node, t / 48, t % 48⟩, step := c.stepNow, replay := c.replayNow, index := idx
      total := ls.flatten.length, vl := 1, detour := false, body := .lines 2 0 first true 0 data }) (ls.flatten.length + 1) 0 ls.flatten)

/-- A board that can neither compute nor be stood in for asks the replica (R130, R412), or is uncovered. -/
def arrUncovered (t idx loc : Nat) (r : Run) (src vcount : Nat) : CM Unit := do
  let c ← get
  if c.flag R.FAULT_REPLICA_VALID then do
    onTileM t fun x => { x with issued := amend (fun i => i.index = idx) (fun i => { i with replica := true }) x.issued }
    askReplica t idx loc r src vcount
  else do
    onTileM t fun x => { x with issued := dropFirst (fun i => i.index = idx) x.issued }
    raiseUncovered t

/-- ARR (R117, R128 to R130). -/
def doArr (add : Bool) (an : Analogue) (t : Nat) : CM Unit :=
  issue t fun i =>
    match i with
    | .arr a loc span spansM1 afmt ins vM1 src dst seq gslot =>
      if a = add then some fun idx => do
        let c ← get
        let b := boardOf t loc
        let r := c.runOf b span (spansM1 + 1) (nfmtOfBit afmt)
        if c.arrState b = arrReady then
          forM_ (upFrom 0 (vM1 + 1)) (arrVector an t add ins r src dst seq gslot false)
        else if c.inStandin t loc && !c.poisoned r then do
          let n := standinStrokes (vM1 + 1) r
          strokes t n
          onTileM t fun x => { x with charged := x.charged + n }
          forM_ (upFrom 0 (vM1 + 1)) (arrVector an t add ins r src dst seq gslot true)
        else arrUncovered t idx loc r src (vM1 + 1)
      else none
    | _ => none

/-! ## Moves (R116) -/

def doMovCopy (t : Nat) : CM Unit :=
  issue t fun i =>
    match i with
    | .copy src dst lM1 vM1 => some fun _ => do
      let x ← tileM t
      forM_ (upFrom 0 (vM1 + 1)) fun v => do
        let b ← readLines t 0 (x.vline src v) (lM1 + 1)
        writeLines t 0 (x.vline dst v) (lM1 + 1) b
    | _ => none

def doMovZero (t : Nat) : CM Unit :=
  issue t fun i =>
    match i with
    | .zero dst lM1 vM1 => some fun _ => do
      let x ← tileM t
      forM_ (upFrom 0 (vM1 + 1)) fun v => writeLines t 0 (x.vline dst v) (lM1 + 1) []
    | _ => none

def doMovSetx (t : Nat) : CM Unit :=
  issue t fun i =>
    match i with
    | .setx xd imm => some fun _ => onTileM t fun x => { x with xregs := Tbl.put 0 x.xregs xd imm }
    | _ => none

def doMovAddx (t : Nat) : CM Unit :=
  issue t fun i =>
    match i with
    | .addx xd imm => some fun _ =>
      onTileM t fun x => { x with xregs := Tbl.put 0 x.xregs xd ((x.xreg xd + imm) % 2 ^ 32) }
    | _ => none

/-! ## Vector operations (R118) -/

/-- The operands of one vector of a VEC operation. -/
structure VecIn where
  a     : List Nat
  b     : List Nat
  scalar : Nat
  pos   : Nat
  len   : Nat
  aux   : Nat
  deriving DecidableEq, Repr

/-- The rotary embedding of one vector (R118). -/
def ropeVector (n : VecIn) : FM (List Nat) := do
  let hd := headDim (bits n.aux 5 4)
  let half := hd / 2
  let posw ← fpOfBin false n.pos 0
  let cs ← fmMap (fun f => do
    let th ← fpMul posw f
    let c ← fpCos th
    let s ← fpSin th
    pure (c, s)) (n.b.take half)
  fmMap (fun i => do
    let base := i / hd * hd
    let k := i - base
    let j := k % half
    let ai := nth 0 n.a (base + j)
    let aj := nth 0 n.a (base + j + half)
    let cs := nth (0, 0) cs j
    if k < half then do
      let p ← fpMul ai cs.1
      let q ← fpMul aj cs.2
      fpSub p q
    else do
      let p ← fpMul ai cs.2
      let q ← fpMul aj cs.1
      fpAdd p q) (upFrom 0 n.len)

/-- What an FP32-valued VEC operation computes for one vector (R118). -/
def vecResult (op : Nat) (n : VecIn) : FM (List Nat) :=
  match op with
  | 0x0 => fmZip fpAdd n.a n.b
  | 0x1 => fmZip fpMul n.a n.b
  | 0x2 => fmMap (fun x => fpMul x n.scalar) n.a
  | 0x3 => do
    let sq ← fmMap (fun x => fpMul x x) n.a
    let s ← fpSum sq
    pure [s]
  | 0x4 => do let m ← fpMaximum n.a; pure [m]
  | 0x5 => do let s ← fpSum n.a; pure [s]
  | 0x6 => fmMap (fun x => do let d ← fpSub x n.scalar; fpExp d) n.a
  | 0x7 => fmMap (fun x => fpDiv x n.scalar) n.a
  | 0x8 => do
    let l ← fpOfBin false n.len 0
    let q ← fpDiv (nth 0 n.a 0) l
    let e ← fpOfBin false 1 ((min 0xFE (n.aux % 256) : Nat) - 127)
    let s ← fpAdd q e
    let r ← fpRsqrt s
    pure [r]
  | 0x9 => ropeVector n
  | 0xA => fmZip (fun x y => do let s ← fpSilu x; fpMul s y) n.a n.b
  | 0xB => fmZip (fun x y => do let g ← fpGelu x; fpMul g y) n.a n.b
  | _ => do
    let r ← fpRanked n.a
    let top := r.take (n.aux % 16 + 1)
    pure (top.map (·.1) ++ top.map (·.2))

/-- One VEC operation on one vector: read the operands, compute, write D. -/
def vecVector (t op a b d len : Nat) (f : NFmt) (aux v : Nat) : CM Unit := do
  let x ← tileM t
  let al := x.vline a v
  let bl := x.vline b v
  let dl := x.vline d v
  match op with
  | 0xC => do
    let w ← readFp t al len
    let bs ← countedM t (toBlocks f w)
    writeNarrow t f dl bs
  | 0xD => do
    let bs ← readNarrow t f al (cdiv len 32)
    let ws ← countedM t (fmMap (fun k : Block => fmMap (widen f k.code) k.elems) bs)
    writeFp t dl (ws.flatten.take len)
  | _ => do
    let wa ← readFp t al (if op = 0x8 then 1 else len)
    let wb ← match op with
      | 0x0 | 0x1 | 0xA | 0xB => readFp t bl len
      | 0x2 | 0x6 | 0x7 => readFp t bl 1
      | 0x9 => readFp t bl (headDim (bits aux 5 4) / 2)
      | _ => pure []
    let pos := (x.slot (x.slotNo (aux % 16) + v)).position
    let r ← countedM t (vecResult op { a := wa, b := wb, scalar := nth 0 wb 0, pos := pos, len := len, aux := aux })
    writeFp t dl r
    if op = 0xE then onTileM t fun x => { x with topk := Tbl.put 0 x.topk dl (aux % 16 + 1) } else pure ()

/-- The VEC instruction with a given OP. -/
def doVec (op : Nat) (t : Nat) : CM Unit :=
  issue t fun i =>
    match i with
    | .vec o a b d lenM1 f vM1 aux =>
      if o = op then some fun _ =>
        forM_ (upFrom 0 (vM1 + 1)) (vecVector t op a b d (lenM1 + 1) (fmtOfCode f) aux)
      else none
    | _ => none

/-- RED (R563): the receive named by TAG has completed (the issue stage has held for it); add or compare elementwise. -/
def redVector (t op a d len v : Nat) : CM Unit := do
  let x ← tileM t
  let acc ← readFp t (x.vline d v) len
  match op with
  | 0 => do
    let bs ← readNarrow t .fp8 (x.vline a v) (cdiv len 32)
    let r ← countedM t do
      let ws ← fmMap (fun k : Block => fmMap (widen .fp8 k.code) k.elems) bs
      fmZip fpAdd acc ws.flatten
    writeFp t (x.vline d v) r
  | 1 => do
    let w ← readFp t (x.vline a v) len
    let r ← countedM t (fmZip fpAdd acc w)
    writeFp t (x.vline d v) r
  | _ => do
    let w ← readFp t (x.vline a v) len
    let r ← countedM t (fmZip fpMaxStep acc w)
    writeFp t (x.vline d v) r

def doRed (op : Nat) (t : Nat) : CM Unit :=
  issue t fun i =>
    match i with
    | .red o a d _ lenM1 vM1 =>
      if o = op then some fun _ => forM_ (upFrom 0 (vM1 + 1)) (redVector t op a d (lenM1 + 1)) else none
    | _ => none

/-! ## Sends (R123, R265, R200) -/

/-- Lines sent to a place as one access, awaiting its acknowledgement (R154). -/
def expectAck (t idx : Nat) (dest : Place) (lines : Nat) : CM Unit :=
  onTileM t fun x => { x with sends := x.sends ++ [⟨idx, dest, lines⟩] }

/-- The vectors of a send as lines, in vector order. -/
def sendLines (t a vcount lines : Nat) : CM (List (List Nat)) := do
  let x ← tileM t
  let vs ← mapM_ (upFrom 0 vcount) fun v => mapM_ (upFrom (x.vline a v) lines) (readLine t 0)
  pure vs.flatten

/-- SND SEND, and appends where TILE is 0x3F (R265). -/
def doSend (t : Nat) : CM Unit :=
  issue t fun i =>
    match i with
    | .send a lM1 vM1 node die tile vl seq => some fun idx => do
      let c ← get
      let x := c.tile t
      let tag := Tbl.get 0 x.sendTag (c.rd R.TILE_STATE_BANK (tileOff t) * 16384 + idx)
      if tile = 0x3F then
        forM_ (upFrom 0 (vM1 + 1)) fun v => do
          let s := x.slot (x.slotNo seq + v)
          let b ← readLines t 0 (x.vline a v) (lM1 + 1)
          if s.valid then do
            expectAck t idx ⟨c.node, die, 0x3F⟩ 1
            inject [{ src := c.place t, dest := ⟨c.node, die, 0x3F⟩, step := c.stepNow, replay := c.replayNow,
                      index := idx, total := 1, vl := vl, detour := false,
                      body := .append (tag % 2048) (bit tag 11) s b }]
          else pure ()
      else do
        let ls ← sendLines t a (vM1 + 1) (lM1 + 1)
        expectAck t idx ⟨node, die, tile⟩ ls.length
        inject (packetsOf (fun first data =>
          { src := c.place t, dest := ⟨node, die, tile⟩, step := c.stepNow, replay := c.replayNow, index := idx,
            total := ls.length, vl := vl, detour := false, body := .lines 0 tag first false 0 data })
          (ls.length + 1) 0 ls)
    | _ => none

/-- SND ROUTE (R123): one copy per list entry, then an end marker to every tile of the map. -/
def doRoute (t : Nat) : CM Unit :=
  issue t fun i =>
    match i with
    | .route a b lM1 vM1 map vl seq => some fun idx => do
      let c ← get
      let x := c.tile t
      let tag := Tbl.get 0 x.sendTag (c.rd R.TILE_STATE_BANK (tileOff t) * 16384 + idx)
      let experts := nth [] c.experts map
      let first := x.slotNo seq
      forM_ (upFrom 0 (vM1 + 1)) fun v => do
        let k := Tbl.get 0 x.topk (x.vline b v)
        let list ← readFp t (x.vline b v) k
        let data ← readLines t 0 (x.vline a v) (lM1 + 1)
        forM_ ((upFrom 0 list.length).zip list) fun e => do
          let dest := nth (c.place t) experts e.2
          expectAck t idx dest (lM1 + 1)
          inject [{ src := c.place t, dest := dest, step := c.stepNow, replay := c.replayNow, index := idx,
                    total := lM1 + 1, vl := vl, detour := false,
                    body := .copy tag (first + v) e.1 (v * k + e.1) data }]
      forM_ (unique experts) fun dest =>
        inject [{ src := c.place t, dest := dest, step := c.stepNow, replay := c.replayNow, index := idx, total := 0,
                  vl := vl, detour := false, body := .endMark tag }]
    | _ => none

/-- SND RETURN (R123): one result to the origin of each copy, zero blocks for a dropped one. -/
def doReturn (t : Nat) : CM Unit :=
  issue t fun i =>
    match i with
    | .ret a lM1 tag => some fun idx => do
      let c ← get
      let x := c.tile t
      match x.recvs.find? (fun r => r.tag = tag) with
      | none => pure ()
      | some r =>
        let back := fun (g : GatherCopy) (data : List (List Nat)) => do
          expectAck t idx g.origin data.length
          inject (packetsOf (fun first d =>
            { src := c.place t, dest := g.origin, step := c.stepNow, replay := c.replayNow, index := idx,
              total := data.length, vl := 1, detour := false,
              body := .lines 0 tag (g.back * (lM1 + 1) + first) false 0 d }) (data.length + 1) 0 data)
        forM_ ((upFrom 0 r.placed.length).zip r.placed) fun e => do
          let data ← mapM_ (upFrom (x.vline a e.1) (lM1 + 1)) (readLine t 0)
          back e.2 data
        forM_ r.dropped fun g => back g (List.replicate (lM1 + 1) zeroLine)
    | _ => none

/-! ## Receives (R123, R135, R136, R152) -/

/-- Lines retained at this moment (R135). -/
def Tile.retainedLines (x : Tile) : Nat :=
  x.retained.foldl (fun n r => n + r.lines) 0
    + (x.recvs.filter (·.retain)).foldl (fun n r => n + (r.range).count) 0

def showRetained (t : Nat) : CM Unit := do
  let x ← tileM t
  wrM R.TILE_RETAINED_LINES (tileOff t) x.retainedLines

/-- Post a receive.  In a replay, a retained receive that has completed completes at once (R136). -/
def postRecv (t : Nat) (r : Recv) : CM Unit := do
  let c ← get
  let x := c.tile t
  if x.recvs.any (fun q => decide (q.tag = r.tag) && q.done && q.retain) && decide (c.tileState t = tileReplay) then pure ()
  else onTileM t fun x => { x with recvs := x.recvs.filter (fun q => q.tag != r.tag) ++ [r] }
  showRetained t

def doPost (t : Nat) : CM Unit :=
  issue t fun i =>
    match i with
    | .post d lM1 tag retain => some fun idx => do
      let c ← get
      postRecv t { tag := tag, line := (c.tile t).line d, lines := lM1 + 1, stride := 0,
                   gen := c.rd R.SPAD_SLOT_GEN_GEN (slotOff t 0), retain := retain, gather := false, cap := 1, sources := 0, arrived := [], copies := [], ends := [],
                   placed := [], dropped := [], done := false }
      onTileM t fun x => { x with issued := dropFirst (fun i => i.index = idx) x.issued }
    | _ => none

def doGather (t : Nat) : CM Unit :=
  issue t fun i =>
    match i with
    | .gather d lM1 tag retain capM1 sM1 => some fun idx => do
      let c ← get
      postRecv t { tag := tag, line := (c.tile t).line d, lines := lM1 + 1, stride := (c.tile t).stride d,
                   gen := c.rd R.SPAD_SLOT_GEN_GEN (slotOff t 0), retain := retain, gather := true, cap := capM1 + 1, sources := sM1 + 1, arrived := [], copies := [],
                   ends := [], placed := [], dropped := [], done := false }
      onTileM t fun x => { x with issued := dropFirst (fun i => i.index = idx) x.issued }
    | _ => none

def setHold (t : Nat) (h : Hold) : CM Unit := onTileM t fun x => { x with hold := h }

/-- RCV WAIT holds issue until the receive completes (R121). -/
def doRcvWait (t : Nat) : CM Unit :=
  issue t fun i =>
    match i with
    | .wait tag => some fun _ => do
      let x ← tileM t
      whenM (x.recvs.any fun r => decide (r.tag = tag) && !r.done) (setHold t (.recv tag))
    | _ => none

/-- Every line of a receive, or every end marker of a gather, has arrived. -/
def Recv.full (r : Recv) : Bool :=
  if r.gather then decide (r.sources ≤ r.ends.length) else (upFrom 0 r.lines).all r.arrived.contains

/-- Copies in ascending order of batch slot, then of choice index (R123). -/
def copyLe (a b : GatherCopy) : Bool := decide (a.slot < b.slot ∨ (a.slot = b.slot ∧ a.choice ≤ b.choice))

/-- RECEIVE_COMPLETE (R152, R123): a gather places its copies, drops those beyond CAP, fills empty positions with zero
blocks; an RCV WAIT on the receive resumes. -/
def doReceiveComplete (t tag : Nat) : CM Unit := do
  let x ← tileM t
  match x.recvs.find? (fun r => decide (r.tag = tag) && !r.done) with
  | none => pure ()
  | some r =>
    if r.full then do
      let ordered := sortBy copyLe r.copies
      let r' := { r with done := true, placed := ordered.take r.cap, dropped := ordered.drop r.cap }
      onTileM t fun x => { x with
        recvs := amend (fun q => q.tag = tag) (fun _ => r') x.recvs
        hold := if x.hold = .recv tag then .none else x.hold }
      if r.gather then do
        forM_ (upFrom 0 r.cap) fun v =>
          writeLines t 0 (r.line + v * r.stride) r.lines (match r'.placed[v]? with
            | some g => g.bytes
            | none => [])
        bumpM R.TILE_MILL_CFG_ROUTE_DROPS (tileOff t) r'.dropped.length
      else pure ()
    else pure ()

/-! ## Waits (R122) -/

/-- The local beat has passed the start of an offset of the run. -/
def Chip.passed (c : Chip) (offset : Nat) : Bool :=
  let b := c.rd R.TIMEBASE_BEAT_BEAT
  decide (c.runStart + offset < b ∨ (c.runStart + offset = b ∧ 0 < c.refcyc))

/-- The tile awaits replica service in this run (R413). -/
def Chip.awaitsReplica (c : Chip) (t : Nat) : Bool := c.replicaOut.any fun r => decide (r.tile = t)

/-- WAIT BEAT: hold until the offset begins; a late arrival is LATE on a slowed half, else a deadline miss (R122). -/
def doWaitBeat (t : Nat) : CM Unit :=
  issue t fun i =>
    match i with
    | .waitBeat off => some fun _ => do
      let c ← get
      if c.passed off then
        if c.flag R.TIMEBASE_HALF_CLK_SLOWED (4 * halfOfTile t) || c.awaitsReplica t then do
          bumpM R.TILE_LATE_COUNT (tileOff t)
          modify fun c => { c with tack := c.tack ++ [.late (t / 48) t (c.stepNow % 65536)] }
        else do
          bumpM R.TILE_DEADLINE_COUNT (tileOff t)
          raiseTile t 0x10
      else if c.rd R.TIMEBASE_BEAT_BEAT < c.runStart + off then setHold t (.beat off)
      else pure ()
    | _ => none

/-- WAIT_BEAT_RELEASE: the named offset has begun and issue resumes. -/
def doWaitBeatRelease (t : Nat) : CM Unit := do
  let c ← get
  match (c.tile t).hold with
  | .beat off => do
    reachBeat (c.runStart + off)
    setHold t .none
  | _ => pure ()

def doWaitCycles (t : Nat) : CM Unit :=
  issue t fun i =>
    match i with
    | .waitCycles n => some fun _ => if n = 0 then pure () else setHold t (.cycles n)
    | _ => none

/-! ## Pegs (R155, R208) -/

/-- A send's destination lies within a scope of the issuing tile (R155). -/
def Chip.within (c : Chip) (t scope : Nat) (p : Place) : Bool :=
  match scope with
  | 0 => decide (p = c.place t)
  | 1 => decide (p.node = c.node ∧ p.die = t / 48 ∧ (p.tile < 24 ↔ t % 48 < 24))
  | 2 => decide (p.node = c.node ∧ p.die = t / 48)
  | 3 => decide (p.node = c.node)
  | _ => true

/-- The tile has drained for a scope: nothing in flight in its units, no send within the scope unacknowledged, no
append out (R155). -/
def Chip.drained (c : Chip) (t scope : Nat) : Bool :=
  let x := c.tile t
  x.issued.isEmpty && x.sends.all fun s => !(c.within t scope s.dest || decide (s.dest.tile = 0x3F))

/-- The ordinal of a peg among the pegs of its scope in the program (R208). -/
def Chip.pegOrdinal (c : Chip) (t scope pc : Nat) : Nat :=
  let bank := c.rd R.TILE_STATE_BANK (tileOff t)
  ((upFrom 0 pc).filter fun k =>
    match decodeWord ((c.tile t).word bank k) with
    | some (.peg s _) => decide (s = scope)
    | _ => false).length

/-- The 7-bit check of an arrival (R208). -/
def pegCheck (step replay n : Nat) : Nat := 16 * (step % 8) + 4 * (replay % 4) + n % 4

/-- The root of a scope as seen from a tile: half, die, package (R206). -/
def pegRoot (t scope : Nat) : Nat :=
  match scope with
  | 1 => halfOfTile t
  | 2 => t / 48
  | _ => 0

/-- A peg completes at a tile: issue resumes and SPAD_PEG_LAST records it. -/
def pegComplete (t scope pegId : Nat) : CM Unit := do
  setHold t .none
  wrM R.SPAD_PEG_LAST_VALID (tileOff t) 1
  wrM R.SPAD_PEG_LAST_SCOPE (tileOff t) scope
  wrM R.SPAD_PEG_LAST_PEG_ID (tileOff t) pegId

/-- Post the arrival of a held peg once its tile has drained; a TILE peg then completes alone (R155). -/
def tryArrive (t : Nat) : CM Unit := do
  let c ← get
  match (c.tile t).hold with
  | .peg scope pegId false =>
    if c.drained t scope then
      if scope = 0 then pegComplete t 0 pegId
      else do
        setHold t (.peg scope pegId true)
        let pc := c.rd R.TILE_STATE_PC (tileOff t) - 1
        modify fun c => { c with upTree := c.upTree ++
          [⟨scope, pegRoot t scope, t, pegCheck c.stepNow c.replayNow (c.pegOrdinal t scope pc)⟩] }
    else pure ()
  | _ => pure ()

/-- PEG of a scope: hold issue, drain, post the arrival. -/
def doPeg (scope : Nat) (t : Nat) : CM Unit :=
  issue t fun i =>
    match i with
    | .peg s pegId =>
      if s = scope then some fun _ => do
        setHold t (.peg scope pegId false)
        tryArrive t
      else none
    | _ => none

/-! ## Completion (R112, R121) -/

/-- INSTRUCTION_COMPLETION: the oldest instruction in a unit's queue completes, unless it awaits replica service. -/
def doInstructionCompletion (t : Nat) (u : Option EUnit) : CM Unit := do
  match u with
  | none => do
    let x ← tileM t
    match x.hold with
    | .cycles _ => setHold t .none
    | _ => pure ()
  | some u => do
    let x ← tileM t
    match x.issued.find? (fun i => i.unit = u) with
    | none => pure ()
    | some i =>
      if i.replica then pure ()
      else onTileM t fun x => { x with issued := dropFirst (fun i => i.unit = u) x.issued }
  tryArrive t

/-- CHK DONE ends the program for the step (R112). -/
def doChkDone (t : Nat) : CM Unit :=
  issue t fun i =>
    match i with
    | .done => some fun _ => onTileM t fun x => { x with ending := true }
    | _ => none

/-- TILE_DONE: CHK DONE has issued and everything before it has completed (R112). -/
def doTileDone (t : Nat) : CM Unit := do
  let c ← get
  if c.running t && (c.tile t).ending && (c.tile t).issued.isEmpty then
    wrM R.TILE_STATE_STATE (tileOff t) tileDone
  else pure ()

/-! ## The sampled check (R132 to R134, R565) -/

/-- The (board, row group) pairs an ARR drives; groups are numbered within the board (R132). -/
def Chip.groupsOf (c : Chip) (t : Nat) (a : CheckArr) : List (Nat × Nat) :=
  let r := c.runOf (boardOf t a.loc) a.span a.spans a.afmt
  (upFrom (r.row0 / r.groupRows) r.groups).map fun g => (a.loc, g)

/-- The tile's check list (R132): every pair some ARR drives, in ascending order, once. -/
def Chip.checkList (c : Chip) (t : Nat) (arrs : List CheckArr) : List (Nat × Nat) :=
  sortBy (fun a b => decide (a.1 < b.1 ∨ (a.1 = b.1 ∧ a.2 ≤ b.2))) (unique (arrs.flatMap (c.groupsOf t)))

/-- Mismatches of the drives of a check; an unresolved result is not compared (R133, R565). -/
def mismatches (ps : List Pass) : Nat :=
  (ps.flatMap fun p => p.cols.filter fun v =>
    match planeResult v with
    | none => false
    | some d => !decide (d = clamp255 v.sum)).length

/-- The columns with a mismatch in some pass of a drive. -/
def missedColumns (ps : List Pass) : List Nat := (upFrom 0 512).filter fun j => ps.any fun p =>
  match p.cols[j]? with
  | none => false
  | some v => match planeResult v with
    | none => false
    | some d => !decide (d = clamp255 v.sum)

/-- The sampled check of one pair with one vector. -/
def runCheck (an : Analogue) (t : Nat) (a : CheckArr) (group vector : Nat) : CM Unit := do
  let c ← get
  let b := boardOf t a.loc
  let o := tileOff t
  let whole := c.runOf b a.span a.spans a.afmt
  let blocks ← readNarrow t a.afmt (a.src + vector * a.stride) (whole.rows / 32)
  let drives ← countedM t (spanDrives a.afmt whole.spanRows blocks)
  let off := group * whole.groupRows - whole.row0
  let r := { whole with row0 := group * whole.groupRows, spanRows := whole.groupRows, spans := 1 }
  let drive := ((drives.flatMap (·.2)).drop off).take whole.groupRows
  let free ← freeValue 64
  let margin : Int := c.rd R.TILE_CHK_CFG_MARGIN o
  let c ← get
  let nominal := c.passes an free 0 r drive
  let plus := c.passes an (free + 1) margin r drive
  let minus := c.passes an (free + 2) (-margin) r drive
  let _ ← countDrive b (nominal ++ plus ++ minus)
  let segs := if whole.groupRows = 64 then 2 else 1
  strokes t (cdiv (512 * segs * (planesOf a.afmt).length) 250)
  let n := mismatches nominal
  let m := mismatches plus + mismatches minus
  let fault := decide (1 ≤ n ∨ c.rd R.TILE_CHK_CFG_FAULT_MIN o ≤ m)
  let drift := !fault && decide (c.rd R.TILE_CHK_CFG_DRIFT_MIN o ≤ m)
  wrM R.TILE_CHK_LAST_VALID o 1
  wrM R.TILE_CHK_LAST_RESULT o (if fault then 2 else if drift then 1 else 0)
  wrM R.TILE_CHK_LAST_BOARD o a.loc
  wrM R.TILE_CHK_LAST_GROUP o group
  wrM R.TILE_CHK_LAST_VECTOR o vector
  wrM R.TILE_CHK_MISMATCH_NOMINAL o (min n 65535)
  wrM R.TILE_CHK_MISMATCH_MARGIN o (min m 65535)
  bumpM R.TILE_CHK_CNT_COUNT o
  whenM drift do
    bumpM R.TILE_CHK_CNT_COUNT (o + 4)
    wrM R.TRUE_BOARD_STATE_DUE (boardOff b) 1
    onTileM t fun x => { x with driftMarks := x.driftMarks.filter (fun k => k.loc != a.loc) ++
      [⟨a.loc, missedColumns plus, missedColumns minus⟩] }
  whenM fault do
    bumpM R.TILE_CHK_CNT_COUNT (o + 8)
    raiseBoard b 0x01

/-- CHK SAMPLE (R132): entry k mod n of the check list in step k; skipped where its board is not READY. -/
def doChkSample (an : Analogue) (t : Nat) : CM Unit :=
  issue t fun i =>
    match i with
    | .sample => some fun _ => do
      let c ← get
      let bank := c.rd R.TILE_STATE_BANK (tileOff t)
      let arrs := arrsOf (c.tile t) bank (c.rd R.TILE_PROG_LEN_LEN (tileOff t + 4 * bank)) 0 []
      let list := c.checkList t arrs
      let k := c.stepNow
      match list[k % list.length]? with
      | none => pure ()
      | some e =>
        let o := boardOff (boardOf t e.1)
        let probe : Run := { (c.runOf (boardOf t e.1) 0 1 .fp4) with
          row0 := e.2 * groupRows (c.rd R.ARRAY_CFG_ROWGROUP o), spanRows := groupRows (c.rd R.ARRAY_CFG_ROWGROUP o) }
        if c.arrState (boardOf t e.1) = arrReady && !c.poisoned probe then
          match arrs.find? (fun a => (c.groupsOf t a).contains e) with
          | none => pure ()
          | some a => runCheck an t a e.2 (k / list.length % a.vcount)
        else bumpM R.TILE_CHK_CNT_COUNT (tileOff t + 12)
    | _ => none

/-- CHK RETAIN (R135): a range is retained until the step commits. -/
def doChkRetain (t : Nat) : CM Unit :=
  issue t fun i =>
    match i with
    | .retain a lM1 => some fun _ => do
      onTileM t fun x => { x with retained := x.retained ++ [⟨x.line a, lM1 + 1⟩] }
      showRetained t
    | _ => none

end Sys2Proof.Machine
end

