-- ==== Sys2Proof/Machine/Fabric.lean ====
section
/-! DEFINITION. The on-package fabric (chapter 8): routes and detours (R216, R218), mesh packets (R200 to R202),
deliveries (R147), tack messages (R206, R207), pegs on the tree (R208, R209) and die-to-die edges (R214, R215). -/
namespace Sys2Proof.Machine

/-! ## Edges and routes -/

def edgeUp : Nat := 3
def edgeDegraded : Nat := 4
def edgeTraining : Nat := 2
def edgeFailed : Nat := 5

/-- Write a field of both ends of an edge. -/
def wrEdge (f : Fld) (e v : Nat) : CM Unit := do
  let x := edgeEnds e
  wrM f (edgeOff x.1.1 x.1.2) v
  wrM f (edgeOff x.2.1 x.2.2) v

def bumpEdge (f : Fld) (e n : Nat) : CM Unit := do
  let x := edgeEnds e
  bumpM f (edgeOff x.1.1 x.1.2) n
  bumpM f (edgeOff x.2.1 x.2.2) n

def Chip.edgeState (c : Chip) (e : Nat) : Nat :=
  c.rd R.D2D_STATUS_STATE (edgeOff (edgeEnds e).1.1 (edgeEnds e).1.2)

/-- An edge carries traffic of the routes: UP or DEGRADED, and not waiting to rejoin (R214). -/
def Chip.edgeOpen (c : Chip) (e : Nat) : Bool := !bit (c.rd R.MESH_STATUS_LOST_EDGES) e

def Chip.dieLost (c : Chip) (d : Nat) : Bool := bit (c.rd R.MESH_STATUS_LOST_DIES) d

/-- Dies passed along a row from column `a` to column `b`, the last included. -/
def rowPath (row a b : Nat) : List Nat :=
  if a ≤ b then (upFrom (a + 1) (b - a)).map (row * 4 + ·)
  else ((upFrom b (a - b)).reverse).map (row * 4 + ·)

/-- The dies a packet passes after its own (R216): along its row, then across. -/
def directPath (a b : Nat) : List Nat :=
  rowPath (a / 4) (a % 4) (b % 4) ++ (if a / 4 = b / 4 then [] else [b])

/-- The dies of the detour (R218): across at the source column, along the other row, back where needed. -/
def detourPath (a b : Nat) : List Nat :=
  let o := 1 - a / 4
  [o * 4 + a % 4] ++ rowPath o (a % 4) (b % 4) ++ (if b / 4 = o then [] else [b])

/-- The edge between two neighbouring dies. -/
def edgeBetween (a b : Nat) : Nat :=
  match indexOf (fun e =>
    let x := edgeEnds e
    (x.1.1 == a && x.2.1 == b) || (x.1.1 == b && x.2.1 == a)) (upFrom 0 10) with
  | some e => e
  | none => 10

/-- Every edge of a path is open, and no die passed through is lost (R218). -/
def Chip.pathOpen (c : Chip) (a : Nat) (p : List Nat) : Bool :=
  ((a :: p).zip p).all (fun e => c.edgeOpen (edgeBetween e.1 e.2)) && p.dropLast.all (fun d => !c.dieLost d)

/-- How a packet gets from die to die: directly, by the detour, or not at all (R216, R218). -/
def Chip.route (c : Chip) (a b : Nat) : Option (Bool × List Nat) :=
  if c.pathOpen a (directPath a b) then some (false, directPath a b)
  else if c.pathOpen a (detourPath a b) then some (true, detourPath a b)
  else none

/-- Flits that carry `n` lines across an edge (R213). -/
def d2dFlits (n : Nat) : Nat := max 1 (cdiv n 6)

/-- Count a packet's flits on every edge it crosses. -/
def countCrossing : Nat → List Nat → Nat → CM Unit
  | _, [], _ => pure ()
  | a, b :: t, n => do
    let e := edgeBetween a b
    let x := edgeEnds e
    let fwd := decide (x.1.1 = a)
    bumpM R.D2D_FLITS_TX_COUNT (if fwd then edgeOff x.1.1 x.1.2 else edgeOff x.2.1 x.2.2) (d2dFlits n)
    bumpM R.D2D_FLITS_RX_COUNT (if fwd then edgeOff x.2.1 x.2.2 else edgeOff x.1.1 x.1.2) (d2dFlits n)
    countCrossing b t n

/-! ## Packets (R200 to R202, R217) -/

def PktBody.lineCount (b : PktBody) : Nat :=
  match b with
  | .lines _ _ _ _ _ d => d.length
  | .append _ _ _ d => cdiv d.length 32
  | .copy _ _ _ _ d => cdiv d.length 32
  | .endMark _ => 0

def PktBody.tag (b : PktBody) : Nat :=
  match b with
  | .lines _ t _ _ _ _ => t
  | .append p _ _ _ => p
  | .copy t _ _ _ _ => t
  | .endMark t => t

/-- Return a delivery acknowledgement to its sender: over the tack network, or as an ACKD record (R154, R231). -/
def sendAck (a : AckRec) : CM Unit := modify fun c =>
  if a.dst.node = c.node then { c with tack := c.tack ++ [.ack a] } else { c with ackOut := c.ackOut ++ [a] }

/-- `n` lines of a send have been taken at the receiver: acknowledge it once all have. -/
def tookLines (t : Nat) (src : Place) (sender tag total replay n : Nat) : CM Unit := do
  let c ← get
  let x := c.tile t
  let same := fun (p : Partial) => decide (p.src = src ∧ p.index = sender)
  let so := match x.partials.find? same with
    | some p => p.lines
    | none => 0
  if total ≤ so + n then do
    onTileM t fun x => { x with partials := dropFirst same x.partials }
    sendAck { dst := src, src := c.place t, index := sender, tag := tag, step := c.stepNow, replay := replay }
  else onTileM t fun x => { x with partials := dropFirst same x.partials ++ [⟨src, sender, so + n⟩] }

/-- Keep SPAD_STATUS.DELIV_FILL at the lines in the delivery buffer. -/
def showFill (t : Nat) : CM Unit := do
  let x ← tileM t
  wrM R.SPAD_STATUS_DELIV_FILL (tileOff t) x.buffer.length

/-- A tile's receive of a tag. -/
def Tile.recvOf (x : Tile) (tag : Nat) : Option Recv := x.recvs.find? fun r => r.tag = tag

/-- A tile with its receive of a tag changed. -/
def Tile.onRecv (x : Tile) (tag : Nat) (f : Recv → Recv) : Tile :=
  { x with recvs := amend (fun q => q.tag = tag) f x.recvs }

/-- A packet reaches its destination tile's port (R151, R217, R408). -/
def reachTile (holder : Nat) (p : Packet) : CM Unit := do
  let t := p.dest.die * 48 + p.dest.tile
  let c ← get
  if c.tileState t = tileShelved then do
    bumpM R.MESH_SHELVED_DISCARD_COUNT (dieOff p.dest.die)
    tookLines t p.src p.index p.body.tag p.total p.replay p.body.lineCount
  else if c.jobRuns && decide (p.replay < c.replayNow) then bumpM R.TILE_DUP_DISCARD_COUNT (tileOff t)
  else match p.body with
    | .lines slot tag first direct gen data => do
      onTileM t fun x => { x with buffer := x.buffer ++ ((upFrom first data.length).zip data).map fun e =>
        { slot := slot, tag := tag, index := e.1, gen := gen, direct := direct, src := p.src, sender := p.index,
          total := p.total, replay := p.replay, holder := holder, bytes := e.2 } }
      showFill t
    | .copy tag slot choice back data => do
      let g : GatherCopy := ⟨slot, choice, back, p.src, p.index, data⟩
      match (c.tile t).recvOf tag with
      | none => pure ()
      | some r =>
        if r.done then bumpM R.TILE_DUP_DISCARD_COUNT (tileOff t)
        else onTileM t fun x => x.onRecv tag fun q => { q with copies := q.copies ++ [g] }
      tookLines t p.src p.index tag p.total p.replay p.body.lineCount
    | .endMark tag =>
      onTileM t fun x => x.onRecv tag fun q => if q.done then q else { q with ends := q.ends ++ [p.src] }
    | .append _ _ _ _ => pure ()

/-- A packet that is where its destination die is: a tile port, or a CTX station for an append. -/
def reachDie (holder : Nat) (p : Packet) : CM Unit :=
  match p.body with
  | .append _ _ _ _ => modify fun c => { c with appends := c.appends ++ [p] }
  | _ => reachTile holder p

/-- A packet injected on a die travels to its destination (R216, R218), or to a torus station when it leaves the
package. -/
def carry (fromDie : Nat) (p : Packet) : CM Unit := do
  let c ← get
  if p.dest.node ≠ c.node then modify fun c => { c with stationOut := c.stationOut ++ [p] }
  else if p.dest.die = fromDie then reachDie 8 p
  else match c.route fromDie p.dest.die with
    | none => do
      bumpM R.MESH_UNREACHABLE_COUNT (dieOff fromDie)
      raisePackage 0x20
    | some (det, path) => do
      whenM det (bumpM R.MESH_DETOURED_COUNT (dieOff fromDie))
      countCrossing fromDie path p.body.lineCount
      reachDie 0 { p with detour := det }

/-- MESH_PACKET: a router receives the k-th packet in flight and checks its header (R200, R202). -/
def doMeshPacket (k : Nat) (headerOk : Bool) (half : Nat) : CM Unit := do
  let c ← get
  match c.flight[k]? with
  | none => pure ()
  | some p => do
    modify fun c => { c with flight := c.flight.eraseIdx k }
    if headerOk then carry p.src.die p
    else do
      bumpM R.MESH_HDR_ERR_COUNT (dieOff (half / 2))
      raiseHalf half 0x20

/-- Lines leave a tile's buffer: credit returns to an off-die holder (R203). -/
def returnCredit (t holder : Nat) : CM Unit :=
  if holder < 8 then modify fun c => { c with tack := c.tack ++ [.credit t holder 1] } else pure ()

/-- DELIVERY: the k-th line of a tile's delivery buffer is written if its generation still matches (R147). -/
def doDelivery (t k : Nat) : CM Unit := do
  let c ← get
  let x := c.tile t
  match x.buffer[k]? with
  | none => pure ()
  | some b =>
    let gone := do
      onTileM t fun x => { x with buffer := x.buffer.eraseIdx k }
      showFill t
      returnCredit t b.holder
    if b.direct then do
      gone
      if b.gen = c.rd R.SPAD_SLOT_GEN_GEN (slotOff t b.slot) then writeLine t b.slot b.index b.bytes
      else bumpM R.SPAD_LATE_DELIV_COUNT (tileOff t)
    else match x.recvOf b.tag with
      | none => pure ()
      | some r =>
        if r.done then do
          gone
          bumpM R.TILE_DUP_DISCARD_COUNT (tileOff t)
          tookLines t b.src b.sender b.tag b.total b.replay 1
        else if r.gen ≠ c.rd R.SPAD_SLOT_GEN_GEN (slotOff t 0) then do
          gone
          bumpM R.SPAD_LATE_DELIV_COUNT (tileOff t)
        else do
          gone
          writeLine t 0 (r.line + b.index) b.bytes
          onTileM t fun x => x.onRecv b.tag fun q => { q with arrived := q.arrived ++ [b.index] }
          tookLines t b.src b.sender b.tag b.total b.replay 1

/-! ## Tack messages (R206, R207) -/

/-- Take the first tack message that `p` picks. -/
def takeTack (p : TackMsg → Bool) : CM (Option TackMsg) := do
  let c ← get
  match c.tack.find? p with
  | none => pure none
  | some m => do
    modify fun c => { c with tack := dropFirst p c.tack }
    pure (some m)

/-- ACK: a send's delivery is reported to the sending tile; a peg held on it may then arrive. -/
def doAck (die : Nat) : CM Unit := do
  let m ← takeTack fun m => match m with
    | .ack a => decide (a.dst.die = die)
    | _ => false
  match m with
  | some (.ack a) => do
    let t := a.dst.die * 48 + a.dst.tile
    bumpM R.TACK_ACKS_COUNT (dieOff die)
    bumpM R.TACK_WORDS_COUNT (dieOff die) 2
    onTileM t fun x => { x with sends := dropFirst (fun s => decide (s.index = a.index ∧ s.dest = a.src)) x.sends }
    tryArrive t
  | _ => pure ()

/-- CREDIT: delivery-buffer lines return to an off-die holder (R203). -/
def doCredit (die : Nat) : CM Unit := do
  let m ← takeTack fun m => match m with
    | .credit t _ _ => decide (t / 48 = die)
    | _ => false
  match m with
  | some (.credit t h n) => do
    bumpM R.TACK_CREDITS_COUNT (dieOff die)
    bumpM R.TACK_WORDS_COUNT (dieOff die) 2
    modify fun c => { c with credit := Tbl.modify 0 c.credit (t * 16 + h) (· - n) }
  | _ => pure ()

/-- LATE: a tile's late WAIT BEAT reaches the die controller (R122, R207). -/
def doLate (die : Nat) : CM Unit := do
  let m ← takeTack fun m => match m with
    | .late d _ _ => decide (d = die)
    | _ => false
  match m with
  | some (.late _ _ _) => do
    bumpM R.TACK_LATE_MSGS_COUNT (dieOff die)
    bumpM R.TACK_WORDS_COUNT (dieOff die) 2
    modify fun c => { c with lateStep := true }
  | _ => pure ()

/-- ORDER: an order of the die controller reaches a tile (R207).  The spec gives no order codes. -/
def doOrder (die : Nat) : CM Unit := do
  let m ← takeTack fun m => match m with
    | .order d _ _ _ => decide (d = die)
    | _ => false
  match m with
  | some _ => bumpM R.TACK_WORDS_COUNT (dieOff die) 2
  | none => pure ()

/-- TACK_PARITY_ERROR: a tack word is dropped, counted, and a detected error of the die raised (R206). -/
def doTackParityError (die k : Nat) : CM Unit := do
  modify fun c => { c with tack := c.tack.eraseIdx k }
  bumpM R.TACK_PARITY_COUNT (dieOff die)
  raiseDie die 0x30

/-! ## Pegs on the tree (R208, R209) -/

/-- The tiles that take part in a scope at a root (R156). -/
def participants (scope root : Nat) : List Nat :=
  match scope with
  | 1 => upFrom (root / 2 * 48 + root % 2 * 24) 24
  | 2 => upFrom (root * 48) 48
  | _ => upFrom 0 384

/-- Every participant has arrived, or is SHELVED (R156). -/
def Chip.scopeComplete (c : Chip) (scope root : Nat) : Bool :=
  (participants scope root).all fun t =>
    c.tileState t = tileShelved || c.arrivals.any fun a => decide (a.scope = scope ∧ a.root = root ∧ a.tile = t)

/-- The PEG_ID a tile holds at a scope. -/
def Chip.heldPeg (c : Chip) (t scope : Nat) : Option Nat :=
  match (c.tile t).hold with
  | .peg s id _ => if s = scope then some id else none
  | _ => none

/-- JOB pegs of a tile's program from the PC on: none left makes the held one the commit peg (R171). -/
def Chip.lastJobPeg (c : Chip) (t : Nat) : Bool :=
  let bank := c.rd R.TILE_STATE_BANK (tileOff t)
  let pc := c.rd R.TILE_STATE_PC (tileOff t)
  let len := c.rd R.TILE_PROG_LEN_LEN (tileOff t + 4 * bank)
  !(upFrom pc (len - pc)).any fun k =>
    match decodeWord ((c.tile t).word bank k) with
    | some (.peg 4 _) => true
    | _ => false

/-- At the arrival at the commit peg the package latches θ; the arrival carries SLIP where θ is off by more than 48
reference cycles (R167). -/
def Chip.latchTheta (c : Chip) : Chip :=
  let theta := if c.isHead then 0 else sext 24 (c.rd R.TIMEBASE_THETA_THETA)
  let off := theta - 64 * sext 16 (c.rd R.TIMEBASE_THETA_APPLIED_BEATS)
  { c with seq := { c.seq with latched := theta, slip := decide (48 < off.natAbs) } }

/-- The scope is complete at its root: a DONE word down the tree, or at JOB scope the package's own arrival. -/
def scopeDone (scope root : Nat) : CM Unit := do
  let c ← get
  if c.scopeComplete scope root then
    match (participants scope root).find? fun t => c.arrivals.any fun a => decide (a.scope = scope ∧ a.root = root ∧ a.tile = t) with
    | none => pure ()
    | some t => do
      modify fun c => { c with arrivals := c.arrivals.filter fun a => !decide (a.scope = scope ∧ a.root = root) }
      if scope = 4 then do
        let last := c.lastJobPeg t
        modify fun c => { c with jobPegs := c.jobPegs ++ [(c.heldPeg t 4).getD 0], arrived := c.arrived || last }
        whenM last (modify fun c => c.latchTheta)
      else modify fun c => { c with downDone := c.downDone ++ [(scope, root)] }
  else pure ()

/-- PEG_ARRIVAL: the k-th arrival on the up-tree wires reaches its root (R209).  Differing checks are a detected error
of the die. -/
def doPegArrival (k : Nat) : CM Unit := do
  let c ← get
  match c.upTree[k]? with
  | none => pure ()
  | some a => do
    let die := if a.scope = 1 then a.root / 2 else if a.scope = 2 then a.root else c.rd R.MESH_ROOTS_MASTER
    let differ := c.arrivals.any fun b => decide (b.scope = a.scope ∧ b.root = a.root ∧ b.check ≠ a.check)
    modify fun c => { c with upTree := c.upTree.eraseIdx k, arrivals := c.arrivals ++ [a] }
    if differ then do
      bumpM R.TACK_MISMATCH_COUNT (dieOff die)
      raiseDie die 0x31
    else scopeDone a.scope a.root

/-- Complete the pegs of a scope at every tile of its root that waits there. -/
def completeScope (scope root : Nat) : CM Unit := do
  forM_ (participants scope root) fun t => do
    let c ← get
    match (c.tile t).hold with
    | .peg s id true => if s = scope then pegComplete t s id else pure ()
    | _ => pure ()

/-- PEG_DONE: the oldest DONE word completes the outstanding pegs of its scope (R208). -/
def doPegDone : CM Unit := do
  let c ← get
  match c.downDone with
  | [] => pure ()
  | (scope, root) :: rest => do
    modify fun c => { c with downDone := rest }
    completeScope scope root

/-! ## Die-to-die edges (R214, R215) -/

/-- Record an edge as in or out of the routes on every die (R218). -/
def showEdge (e : Nat) (lost : Bool) : CM Unit :=
  forM_ (upFrom 0 8) fun d => do
    let m ← rdM R.MESH_STATUS_LOST_EDGES (dieOff d)
    let m' := if lost then bitOr m e else bitClear m e
    wrM R.MESH_STATUS_LOST_EDGES (dieOff d) m'
    let l ← rdM R.MESH_STATUS_LOST_DIES (dieOff d)
    wrM R.MESH_STATUS_DETOUR (dieOff d) (b2n (decide (0 < m' + l)))

def noEdge : Edge := ⟨0, false⟩

/-- The LINK records of an edge that has left UP or DEGRADED, on the dies of its two ends (R450, R454). -/
def edgeRecords (e : Nat) : CM Unit := forM_ [(edgeEnds e).1, (edgeEnds e).2] fun x => linkRecord x.1 1 x.2 0 edgeTraining 0 0

/-- D2D_EDGE_DOWN: the edge leaves UP or DEGRADED and retrains; its retry buffer's packets are lost (R214). -/
def doD2dEdgeDown (e : Nat) (lost : List Nat) : CM Unit := do
  let c ← get
  if c.edgeState e = edgeUp ∨ c.edgeState e = edgeDegraded then do
    bumpEdge R.D2D_DOWNS_COUNT e 1
    wrEdge R.D2D_STATUS_STATE e edgeTraining
    wrEdge R.D2D_STATUS_MODULES e 0
    wrEdge R.D2D_STATUS_SLOW e 0
    showEdge e true
    edgeRecords e
    modify fun c => { c with
      edges := Tbl.put noEdge c.edges e noEdge
      flight := ((upFrom 0 c.flight.length).zip c.flight).filterMap fun p => if lost.contains p.1 then none else some p.2 }
  else pure ()

/-- D2D_TRAINING_DONE: a training attempt ends with the modules that came up, those at 16 GT/s, its duration and the
lanes repaired; none up is a failure, the third in a row fails the edge (R214). -/
def doD2dTrainingDone (e modules slow us lanes : Nat) : CM Unit := do
  let c ← get
  if c.edgeState e = edgeTraining then do
    bumpEdge R.D2D_TRAIN_TRAINS e 1
    wrEdge R.D2D_TRAIN_LAST_US e (min us 65535)
    let x := Tbl.get noEdge c.edges e
    if modules % 16 = 0 then
      if 2 ≤ x.fails then do
        wrEdge R.D2D_STATUS_STATE e edgeFailed
        modify fun c => { c with edges := Tbl.put noEdge c.edges e noEdge }
      else modify fun c => { c with edges := Tbl.put noEdge c.edges e { x with fails := x.fails + 1 } }
    else do
      wrEdge R.D2D_STATUS_MODULES e modules
      wrEdge R.D2D_STATUS_SLOW e slow
      wrEdge R.D2D_STATUS_TACK_MODULE e ((indexOf (bit modules) (upFrom 0 4)).getD 0)
      wrEdge R.D2D_REPAIRS_LANES e lanes
      wrEdge R.D2D_STATUS_STATE e (if modules % 16 = 15 ∧ slow % 16 = 0 then edgeUp else edgeDegraded)
      if c.jobRuns then modify fun c => { c with edges := Tbl.put noEdge c.edges e ⟨0, true⟩ }
      else do
        modify fun c => { c with edges := Tbl.put noEdge c.edges e noEdge }
        showEdge e false
  else pure ()

/-- Edges that came up again rejoin the routes at a step boundary (R214). -/
def rejoinEdges : CM Unit :=
  forM_ (upFrom 0 10) fun e => do
    let c ← get
    if (Tbl.get noEdge c.edges e).rejoin then do
      modify fun c => { c with edges := Tbl.put noEdge c.edges e noEdge }
      showEdge e false
    else pure ()

/-- Start a training of an edge. -/
def trainEdge (e : Nat) : CM Unit := do
  let c ← get
  whenM (decide (c.edgeState e = edgeUp ∨ c.edgeState e = edgeDegraded)) do
    bumpEdge R.D2D_DOWNS_COUNT e 1
    edgeRecords e
  wrEdge R.D2D_STATUS_STATE e edgeTraining
  wrEdge R.D2D_STATUS_MODULES e 0
  modify fun c => { c with edges := Tbl.put noEdge c.edges e noEdge }
  showEdge e true

/-- D2D_RETRAIN: D2D_CTRL.RETRAIN retrains the edge while no job runs; else it counts as a clamped field (R215). -/
def retrainEdge (src die side : Nat) : CM Unit := do
  let c ← get
  if c.jobRuns then clampEvent src 0 (R.D2D_CTRL_RETRAIN.addr + edgeOff die side)
  else match edgeAt die side with
    | none => pure ()
    | some e => trainEdge e

end Sys2Proof.Machine
end

