-- ==== Sys2Proof/Machine/Context.lean ====
section
/-! DEFINITION. The context store (chapter 10): regions, codewords, frames and page tables, appends, attention's reads
(R125), encryption (R269, R270), paging (R271 to R273) and the patrol scrub (R275). -/
namespace Sys2Proof.Machine

/-! ## Regions and addresses (R253, R256) -/

/-- BASE and LINES of a region. -/
def regionFlds (n : Nat) : Fld × Fld :=
  match n with
  | 0 => (R.CTX_RGN0_BASE_BASE, R.CTX_RGN0_LINES_LINES)
  | 1 => (R.CTX_RGN1_BASE_BASE, R.CTX_RGN1_LINES_LINES)
  | 2 => (R.CTX_RGN2_BASE_BASE, R.CTX_RGN2_LINES_LINES)
  | 3 => (R.CTX_RGN3_BASE_BASE, R.CTX_RGN3_LINES_LINES)
  | 4 => (R.CTX_RGN4_BASE_BASE, R.CTX_RGN4_LINES_LINES)
  | 5 => (R.CTX_RGN5_BASE_BASE, R.CTX_RGN5_LINES_LINES)
  | _ => (R.CTX_RGN6_BASE_BASE, R.CTX_RGN6_LINES_LINES)

def Chip.regionBase (c : Chip) (d n : Nat) : Nat := c.rd (regionFlds n).1 (dieOff d)
def Chip.regionLines (c : Chip) (d n : Nat) : Nat := c.rd (regionFlds n).2 (dieOff d)

/-- The region that holds a die-local line. -/
def Chip.regionOf (c : Chip) (d line : Nat) : Option Nat :=
  (upFrom 0 7).find? fun n => decide (c.regionBase d n ≤ line ∧ line < c.regionBase d n + c.regionLines d n)

/-- Lines of a stack (R252), access units of a stack (R275). -/
def stackLines : Nat := 1000000000
def stackUnits : Nat := 62500000

def globalLine (d line : Nat) : Nat := d * 2 ^ 30 + line

/-- Region bases in die-local address order, KV last and taking what is left (R256). -/
def layoutRegions (d : Nat) : CM Unit := do
  let next ← foldM_ 0 [0, 1, 3, 4, 5, 6] fun at_ n => do
    let c ← get
    let lines := match n with
      | 0 => 0x3400000
      | _ => Tbl.get (c.regionLines d n) c.regionNext (d * 8 + n)
    wrM (regionFlds n).1 (dieOff d) at_
    wrM (regionFlds n).2 (dieOff d) lines
    pure (at_ + lines)
  wrM (regionFlds 2).1 (dieOff d) next
  wrM (regionFlds 2).2 (dieOff d) (stackLines - next)

/-- A written region size: clamped to its range, then rounded down to 16 lines, in force at the next reset (R257). -/
def writeRegion (src d n v : Nat) : CM Unit := do
  let f := (regionFlds n).2
  let lim := match n with
    | 1 => (2097152, 67108864)
    | 5 => (0, 16777216)
    | 6 => (1048576, 67108864)
    | _ => (0, 67108864)
  let w := max lim.1 (min lim.2 v)
  whenM (decide (w ≠ v)) (clampEvent src 0 (f.addr + dieOff d))
  modify fun c => { c with regionNext := Tbl.insert (d * 8 + n) (w / 16 * 16) c.regionNext }

/-! ## Frames and pages (R261 to R263, R267, R268) -/

def pageLines (hd : Nat) : Nat := cdiv (2 * hd + hd / 8) 16 * 16
def Chip.headDim (c : Chip) (d : Nat) : Nat := 64 * 2 ^ c.rd R.CTX_FRAME_CFG_HD (dieOff d)
def Chip.pairs (c : Chip) (d : Nat) : List (Nat × Nat) := Tbl.get [] c.kvMap d

def Chip.frame (c : Chip) (d f : Nat) : Frame := Tbl.get noFrame c.frames (d * 2 ^ 24 + f)
def setFrame (d f : Nat) (x : Frame) : CM Unit :=
  modify fun c => { c with frames := Tbl.put noFrame c.frames (d * 2 ^ 24 + f) x }

def setDesc (d i : Nat) (x : CtxDesc) : CM Unit :=
  modify fun c => { c with descs := Tbl.put noDesc c.descs (d * 65536 + i) x }
def onDesc (d i : Nat) (f : CtxDesc → CtxDesc) : CM Unit := do
  let c ← get
  setDesc d i (f (c.ctxDesc d i))

/-- Descriptor states (R263). -/
def ctxFree : Nat := 0
def ctxResident : Nat := 1
def ctxPagingOut : Nat := 2
def ctxRemote : Nat := 3
def ctxPagingIn : Nat := 4
def ctxLost : Nat := 5

/-- The lowest zeroed free frame of a die. -/
def Chip.freeFrame (c : Chip) (d : Nat) : Option Nat :=
  (upFrom 0 (min (c.rd R.CTX_FRAMES_TOTAL (dieOff d)) ((c.busyFrames d).length + 1))).find? fun f => decide (c.frame d f = noFrame)

/-- Page-table blocks in use on a die, and the lowest free one. -/
def Chip.freeBlock (c : Chip) (d : Nat) : Nat :=
  let used := (c.descs.filter fun e => decide (e.1 / 65536 = d)).flatMap fun e => e.2.blocks.map (·.2)
  ((upFrom 0 (used.length + 1)).find? fun b => !used.contains b).getD 0

/-- First die-local line of a page of a frame. -/
def Chip.pageLine (c : Chip) (d f pair : Nat) : Nat :=
  c.regionBase d 2 + f * c.rd R.CTX_FRAME_CFG_FRAME_LINES (dieOff d) + pair * pageLines (c.headDim d)

/-- Release one holder of a frame; the last one leaves it to be zeroed (R267). -/
def releaseFrame (d f : Nat) : CM Unit := do
  let c ← get
  let x := c.frame d f
  if x.refs ≤ 1 then setFrame d f ⟨0, true⟩ else setFrame d f ⟨x.refs - 1, false⟩

/-- Release the frames and blocks a context holds on a die. -/
def releasePages (d i : Nat) : CM Unit := do
  let c ← get
  forM_ (c.ctxDesc d i).entries fun e => releaseFrame d e.2.frame
  onDesc d i fun x => { x with entries := [], blocks := [] }

/-- End a request's context on every die (R267). -/
def endContext (i : Nat) : CM Unit := forM_ (upFrom 0 8) fun d => do
  releasePages d i
  setDesc d i noDesc
  modify fun c => { c with pagings := Tbl.erase (d * 65536 + i) c.pagings }

/-- Give a page of a context a frame on a die, and its page-table block. -/
def allocatePage (d i page : Nat) (prefill : Bool) : CM Unit := do
  let c ← get
  match c.freeFrame d with
  | none => pure ()
  | some f => do
    setFrame d f ⟨1, false⟩
    let blk := c.freeBlock d
    onDesc d i fun x => { x with
      entries := Tbl.insert page ⟨f, false, x.group.isSome && (match Tbl.find? c.promptBlocks i with
        | some n => decide (page < n)
        | none => prefill)⟩ x.entries
      blocks := if (Tbl.find? x.blocks (page / 256)).isSome then x.blocks else Tbl.insert (page / 256) blk x.blocks }

/-- FRAME_ZEROED: the lowest dirty frame of a die has been written with zeros and returns to the free list (R267). -/
def doFrameZeroed (d : Nat) : CM Unit := do
  let c ← get
  match (c.busyFrames d).find? (·.2.dirty) with
  | none => pure ()
  | some (f, _) => do
    let first := globalLine d (c.pageLine d f 0)
    let n := c.rd R.CTX_FRAME_CFG_FRAME_LINES (dieOff d)
    modify fun c => { c with
      kv := Tbl.keep (fun a => !decide (first * 32 ≤ a ∧ a < (first + n) * 32)) c.kv
      ctxErr := Tbl.keep (fun a => !decide (first ≤ a ∧ a < first + n)) c.ctxErr }
    setFrame d f noFrame

/-! ## Keys (R269, R270) -/

def keyTenantData : Nat := 1
def keyGroupData : Nat := 2
def keyTenantMac : Nat := 3
def keyPrefixSalt : Nat := 4
def keyGateway : Nat := 5
def keyOrch : Nat := 6
def keyLink : Nat := 7
def keyMacsec : Nat := 8

/-- The key of a context's page: the group's for a shared frame of a request with GROUP, else the tenant's. -/
def Chip.pageKey (c : Chip) (x : CtxDesc) (e : PageEntry) : Option (List Nat) :=
  match e.shared || e.grouped, x.group with
  | true, some g => c.key keyGroupData g
  | _, _ => c.key keyTenantData x.tenant

/-- An access whose key slot is empty (R270). -/
def keyMiss (d : Nat) : CM Unit := do
  bumpM R.CTX_KEY_MISS_COUNT (dieOff d)
  raisePackage 0x45

/-! ## Codewords (R254, R255) -/

/-- A request of every descriptor of a die that `p` picks becomes LOST there, and the package faults (R255). -/
def loseContexts (d : Nat) (p : Nat → CtxDesc → Bool) : CM Unit := do
  let c ← get
  forM_ (c.descs.filter fun e => decide (e.1 / 65536 = d) && decide (e.2.state ≠ ctxFree) && p (e.1 % 65536) e.2) fun e =>
    onDesc d (e.1 % 65536) fun x => { x with state := ctxLost }
  raisePackage 0x42

/-- REFETCH of a SHADOW or EMBED line: the object's generation and the byte offset within its container (R362). -/
def refetch (offset : Nat) : CM Unit := do
  let c ← get
  loadEvent 6 1 0 (c.rd R.LOAD_GEN_ACTIVE_GEN) 0 (offset % 2 ^ 32)

/-- A SHADOW line of a board: lines 0 to 8191 of the board's elements, or its scales (R256). -/
def shadowLost (d line : Nat) : CM Unit := do
  let c ← get
  if line < 50331648 then do
    let b := d * 6144 + line / 8192
    modify fun c => { c with poison := c.poison.filter (· != b * 1024 + line % 8192 / 8) ++ [b * 1024 + line % 8192 / 8] }
    refetch (Tbl.get 0 c.bodyAt b + 16 + line % 8192 * 32)
  else if line < 53477376 then do
    let s := line - 50331648
    let b := d * 6144 + s / 512
    let blk := s % 512 / 16
    let rows := (upFrom (32 * blk) 32).map (b * 1024 + ·)
    modify fun c => { c with poison := c.poison.filter (fun r => !rows.contains r) ++ rows }
    let r := if c.flag R.ARRAY_CFG_DUAL (boardOff b) then 512 else 1024
    refetch (Tbl.get 0 c.bodyAt b + 16 + 256 * r + s % 512 * 32 % (16 * r))
  else pure ()

/-- Remove a prefix entry and release its frames (R268). -/
def dropPrefix (id : Nat) : CM Unit := do
  let c ← get
  match Tbl.find? c.prefixes id with
  | none => pure ()
  | some e => do
    forM_ e.frames fun f => releaseFrame f.1 f.2
    modify fun c => { c with prefixes := Tbl.erase id c.prefixes }

/-- The line is rewritten with zero data and valid check bytes. -/
def zeroCtxLine (d line : Nat) : CM Unit := modify fun c => { c with
  kv := Tbl.keep (fun a => decide (a / 32 ≠ globalLine d line)) c.kv
  ctxErr := Tbl.erase (globalLine d line) c.ctxErr }

/-- What follows an uncorrectable codeword, by region (R255). -/
def uncorrectable (d line : Nat) : CM Unit := do
  let c ← get
  bumpM R.CTX_UNCORR_COUNT (dieOff d)
  let n := c.regionOf d line
  wrM R.CTX_LAST_UNCORR_VALID (dieOff d) 1
  wrM R.CTX_LAST_UNCORR_REGION (dieOff d) (n.getD 0)
  wrM R.CTX_LAST_UNCORR_LINE (dieOff d) line
  let off := line - c.regionBase d (n.getD 0)
  match n with
  | some 0 => shadowLost d off
  | some 1 =>
    if off < 1048576 then
      if (c.ctxDesc d (off / 16)).state = ctxFree then zeroCtxLine d line
      else loseContexts d fun i _ => decide (i = off / 16)
    else
      let blk := (off - 1048576) / 32
      if c.descs.any fun e => decide (e.1 / 65536 = d) && e.2.blocks.any fun b => decide (b.2 = blk) then
        loseContexts d fun _ x => x.blocks.any fun b => decide (b.2 = blk)
      else zeroCtxLine d line
  | some 2 =>
    let fl := c.rd R.CTX_FRAME_CFG_FRAME_LINES (dieOff d)
    let f := off / fl
    if fl = 0 ∨ (c.frame d f).refs = 0 then zeroCtxLine d line
    else loseContexts d fun _ x => x.entries.any fun e => decide (e.2.frame = f)
  | some 3 => do
    raisePackage 0x42
    refetch (c.embedAt + (off / 16 * 8 + d) * 512 + off % 16 * 32)
  | some 5 => dropPrefix ((off / 16 * 8 + d) * 8 + off % 16 / 2)
  | some _ => pure ()
  | none => zeroCtxLine d line

/-- The codeword check of a read (R255): false where the line's data is lost. -/
def ctxCheck (d line : Nat) : CM Bool := do
  let c ← get
  match Tbl.get 0 c.ctxErr (globalLine d line) with
  | 0 => pure true
  | 1 | 2 => do
    modify fun c => { c with ctxErr := Tbl.erase (globalLine d line) c.ctxErr }
    bumpM R.CTX_CORRECTED_COUNT (dieOff d)
    pure true
  | _ => do
    uncorrectable d line
    pure false

/-- The stored bytes of a KV line. -/
def Chip.kvBytes (c : Chip) (d line : Nat) : List Nat := lineBytes c.kv (globalLine d line)

/-- The data of a KV line under a key; zeros where its codeword is lost. -/
def kvRead (d line : Nat) (key : List Nat) : CM (List Nat) := do
  let ok ← ctxCheck d line
  let c ← get
  if ok then pure (xts true key (globalLine d line) (c.kvBytes d line)) else pure zeroLine

/-- Bytes written into a KV line at an offset; fewer than 32 by read, modify and write (R254). -/
def kvWrite (d line off : Nat) (key bytes : List Nat) : CM Unit := do
  let old ← if off = 0 ∧ bytes.length = 32 then pure zeroLine else kvRead d line key
  let data := (old.take off ++ bytes ++ old.drop (off + bytes.length)).take 32
  modify fun c => { c with
    kv := putBytes c.kv (32 * globalLine d line) (xts false key (globalLine d line) data)
    ctxErr := Tbl.erase (globalLine d line) c.ctxErr }

/-! ## Step start: allocation (R264) -/

/-- Pages that the batch's positions need on a die and its contexts do not hold. -/
def Chip.pagesNeeded (c : Chip) (d : Nat) (slots : List BatchSlot) : List (Nat × Nat) :=
  unique ((slots.filter fun s => s.valid && (Tbl.find? (c.ctxDesc d s.context).entries (s.position / 64)).isNone).map
    fun s => (s.context, s.position / 64))

/-- A position of a page is prefilled in the batch. -/
def prefills (slots : List BatchSlot) (i page : Nat) : Bool :=
  slots.any fun s => s.valid && s.prefill && decide (s.context = i ∧ s.position / 64 = page)

/-- The allocation of a step start on every die that homes pairs. -/
def allocateStep (slots : List BatchSlot) : CM Unit := forM_ (upFrom 0 8) fun d => do
  let c ← get
  if (c.pairs d).isEmpty then pure ()
  else do
    let bad := slots.any fun s => s.valid && decide ((c.ctxDesc d s.context).state ≠ ctxResident)
    whenM bad (raisePackage 0x44)
    let c ← get
    let need := (c.pagesNeeded d slots).filter fun p => decide ((c.ctxDesc d p.1).state = ctxResident)
    if c.freeFrames d < need.length then do
      bumpM R.CTX_NOFRAME_COUNT (dieOff d)
      raisePackage 0x43
    else forM_ need fun p => allocatePage d p.1 p.2 (prefills slots p.1 p.2)

/-! ## Appends (R265, R266) -/

/-- An append is complete: its acknowledgement (R154). -/
def ackAppend (p : Packet) : CM Unit := do
  let c ← get
  sendAck { dst := p.src, src := ⟨c.node, p.dest.die, 0x3F⟩, index := p.index, tag := p.body.tag, step := p.step,
            replay := p.replay }

/-- Write an entry's elements and scale bytes into its page (R262, R266). -/
def writeEntry (d page0 : Nat) (hd tok : Nat) (value : Bool) (key data : List Nat) : CM Unit := do
  let area := page0 + (if value then hd + hd / 16 else 0)
  forM_ (upFrom 0 (hd / 64)) fun i =>
    kvWrite d (area + tok * (hd / 64) + i) 0 key ((data.drop (32 * i)).take 32)
  let s := tok * (hd / 32)
  kvWrite d (area + hd + s / 32) (s % 32) key ((data.drop (hd / 2)).take (hd / 32))

/-- APPEND: the `k`-th append that waits at a CTX station is performed or refused (R266). -/
def doAppend (k : Nat) : CM Unit := do
  let c ← get
  match c.appends[k]? with
  | none => pure ()
  | some p => do
    modify fun c => { c with appends := c.appends.eraseIdx k }
    match p.body with
    | .append pair value slot data => do
      let d := p.dest.die
      let x := c.ctxDesc d slot.context
      let entry := Tbl.find? x.entries (slot.position / 64)
      let refuse := bumpM R.CTX_APPEND_REFUSED_COUNT (dieOff d)
      (match entry with
        | none => refuse
        | some e =>
          if slot.position < x.commit ∨ 1048575 < slot.position ∨ e.shared = true then refuse
          else match c.pageKey x e with
            | none => keyMiss d
            | some key => do
              writeEntry d (c.pageLine d e.frame pair) (c.headDim d) (slot.position % 64) value key data
              bumpM R.CTX_APPENDS_COUNT (dieOff d))
      ackAppend p
    | _ => pure ()

end Sys2Proof.Machine
end

