-- ==== Sys2Proof/Machine/Front.lean ====
section
/-! DEFINITION. Messages on the front ports: what is sent (R280 to R285), the reliable streams (R284), and the reports of
the control stream (R425). -/
namespace Sys2Proof.Machine

/-! ## Sending (R280, R281) -/

/-- Body bytes of a message (R285, R290, R294, R309, R313 to R315, R411, R425). -/
def TnpBody.len (b : TnpBody) : Nat :=
  match b with
  | .open_ _ | .unpin _ | .resend _ _ | .gear _ _ | .transit _ _ _ _ _ | .pageIn _ => 8
  | .close | .cancel | .query | .streamAck => 0
  | .submit s => 104 + 4 * s.tokens.length
  | .ack _ | .epoch _ | .release _ _ => 4
  | .opened _ _ _ => 24
  | .admitted _ _ _ => 16
  | .step _ es => 16 + (es.map fun e => 8 + 4 * e.tokens.length + (if e.handle.isSome then 8 else 0)).foldl (· + ·) 0
  | .status _ _ q => if q.isSome then 48 else 4
  | .start _ _ _ _ => 16
  | .stop _ _ => 8
  | .tenant _ => 32
  | .pageOut _ _ => 16
  | .replica _ rows => 8 + 8 * rows.length
  | .report rs => 8 + 16 * rs.length
  | .shard _ _ d => 32 + d.length
  | .put _ im tg | .data _ im tg => 16 + im.length + tg.length
  | .putAck _ _ => 24
  | .get _ => 16

/-- Segments of a message (R283). -/
def segments (len : Nat) : Nat := max 1 (cdiv len 8192)

/-- Byte offset of a front port's window. -/
def frontOff (f : Nat) : Nat := f * 0x100

/-- A front port can send: its link is up and its transmit SA not exhausted (R279). -/
def Chip.frontSends (c : Chip) (f : Nat) : Bool :=
  c.flag R.FRONT_STATUS_LINK_UP (frontOff f) && !c.flag R.FRONT_STATUS_PN_END (frontOff f)

/-- The packet numbers of a transmit SA (R279): 2³² without XPN, 2⁶⁴ with it. -/
def Chip.pnRange (c : Chip) (f : Nat) : Nat := if c.flag R.FRONT_CFG_XPN (frontOff f) then 2 ^ 64 else 2 ^ 32

/-- Frames leave a front port: counted, and under a SAK each takes a packet number (R279). -/
def countFrames (f n : Nat) : CM Unit := do
  bumpM R.FRONT_FRAMES_TX (frontOff f) n
  let c ← get
  if c.flag R.FRONT_STATUS_SAK (frontOff f) then do
    let pn := Tbl.get 1 c.txPn f + n
    modify fun c => { c with txPn := Tbl.insert f pn c.txPn }
    whenM (decide (c.pnRange f / 8 * 7 < pn)) (wrM R.FRONT_STATUS_PN_WARN (frontOff f) 1)
    whenM (decide (c.pnRange f ≤ pn)) (wrM R.FRONT_STATUS_PN_END (frontOff f) 1)
  else pure ()

/-- Put a message on a front port's wire; while the port cannot send, or the part zeroises (R443), it goes nowhere. -/
def sendTnp (dest : Peer) (m : Tnp) : CM Unit := do
  let c ← get
  if c.frontSends dest.front && !c.flag R.SEC_ZEROISE_ACTIVE then do
    modify fun c => { c with sent := c.sent ++ [.tnp dest m] }
    countFrames dest.front (segments m.body.len)
  else pure ()

/-- FRONT_LINK_UP and FRONT_LINK_DOWN: PCS alignment and FEC lock come and go (R316). -/
def doFrontLinkUp (f : Nat) : CM Unit := wrM R.FRONT_STATUS_LINK_UP (frontOff f) 1
def doFrontLinkDown (f : Nat) : CM Unit := wrM R.FRONT_STATUS_LINK_UP (frontOff f) 0

/-! ## Streams (R284) -/

def noStream : Stream := ⟨0, [], 0, [], false⟩
def ctrlSession : Nat := 0xFFFF
def pagingSession : Nat := 0xFFFE

def onServing (f : Serving → Serving) : CM Unit := modify fun c => { c with serving := f c.serving }

def noSession : Session := ⟨⟨0, 0, 0⟩, 0, noStream⟩

/-- The stream of a session, or of control, with where it goes. -/
def Chip.stream (c : Chip) (s : Nat) : Option (Peer × Stream) :=
  if s = ctrlSession then c.serving.orch.map fun p => (p, c.serving.control)
  else (Tbl.find? c.serving.sessions s).map fun x => (x.peer, x.stream)

def setStream (s : Nat) (x : Stream) : CM Unit := onServing fun v =>
  if s = ctrlSession then { v with control := x }
  else match Tbl.find? v.sessions s with
    | none => v
    | some e => { v with sessions := Tbl.insert s { e with stream := x } v.sessions }

/-- Send a stream message of a session: it takes the next SEQ, carries the current ACK, and is kept until acknowledged. -/
def sendStream (s tenant request : Nat) (b : TnpBody) : CM Unit := do
  let c ← get
  match c.stream s with
  | none => pure ()
  | some (p, x) => do
    let m : Tnp := ⟨s, tenant, x.txNext, (x.rxNext + 2 ^ 32 - 1) % 2 ^ 32, request, b⟩
    setStream s { x with txNext := (x.txNext + 1) % 2 ^ 32, unacked := x.unacked ++ [(m, 0)], ackDue := false }
    sendTnp p m

/-- Answer an order with STATUS on its stream (R285). -/
def answer (i : TnpIn) (typ status : Nat) : CM Unit :=
  sendStream i.session i.tenant i.request (.status typ status none)

/-- The stream messages a message's ACK field acknowledges leave the list. -/
def Stream.acked (x : Stream) (ack : Nat) : Stream :=
  { x with unacked := x.unacked.filter fun u => !decide ((ack + 2 ^ 32 - u.1.seq) % 2 ^ 32 < 2 ^ 31) }

/-- STREAM_ACK: an arrival on a stream is acknowledged when no message was due (R284). -/
def doStreamAck (s : Nat) : CM Unit := do
  let c ← get
  match c.stream s with
  | none => pure ()
  | some (p, x) =>
    if x.ackDue then do
      setStream s { x with ackDue := false }
      sendTnp p ⟨s, 0, x.txNext, (x.rxNext + 2 ^ 32 - 1) % 2 ^ 32, 0, .streamAck⟩
    else pure ()

/-! ## Reports (R425) -/

/-- Send what the package holds as REPORT messages of at most 511 records. -/
def sendReports : Nat → CM Unit
  | 0 => pure ()
  | n + 1 => do
    let c ← get
    if c.reports.isEmpty then pure ()
    else do
      modify fun c => { c with reports := c.reports.drop 511 }
      sendStream ctrlSession 0 0 (.report (c.reports.take 511))
      sendReports n

/-- Send every waiting record; without a control stream they wait (R500). -/
def flushReports : CM Unit := do
  let c ← get
  whenM c.serving.orch.isSome (sendReports (c.reports.length + 1))

end Sys2Proof.Machine
end

