-- ==== Sys2Proof/Machine/Attention.lean ====
section
/-! DEFINITION. MIL ATTN (R125, R126): attention over a request's KV pages, in chunks of 256 keys; and what the context
store's own engines do: paging (R271 to R273) and the patrol scrub (R275). -/
namespace Sys2Proof.Machine

/-- The running state of one query head: maximum, sum, output. -/
structure AttnAcc where
  m : Nat
  l : Nat
  o : List Nat
  deriving DecidableEq, Repr

/-- FP4 elements and scale codes of one token's key or value: HD/32 blocks. -/
abbrev Entry := List Block

/-- Score of one key: block products along the head dimension, added in ascending block order. -/
def keyScore (q k : Entry) : FM Nat := do
  let ps ← fmMap (fun e : Block × Block =>
    blockProduct .fp4 .fp4 e.1.code e.2.code (e.1.elems.map (elemInt .fp4)) (e.2.elems.map (elemInt .fp4))) (q.zip k)
  sumInOrder ps

/-- FP32 word of a scale 2^(code − 127). -/
def scaleWord (code : Nat) : FM Nat := fpOfBin false 1 ((code : Int) - 127)

/-- P·V of one chunk for one 32-element block of the head dimension: the folded, requantised weights of each 32-key block
against the value elements (R46). -/
def chunkValues (es : List Nat) (vs : List Block) : FM (List Nat) := do
  let folded ← fmMap (fun e : Nat × Block => do
    let s ← scaleWord (min 0xFE e.2.code)
    fpMul e.1 s) (es.zip vs)
  let pad := cdiv folded.length 32 * 32
  let ps ← toBlocks .fp4 (folded ++ List.replicate (pad - folded.length) 0)
  fmMap (fun d => do
    let ts ← fmMap (fun b : Nat × Block => do
      let vals := (upFrom (32 * b.1) 32).map fun t => match vs[t]? with
        | none => 0
        | some v => elemInt .fp4 (nth 0 v.elems d)
      blockProduct .fp4 .fp4 b.2.code 127 (b.2.elems.map (elemInt .fp4)) vals)
      ((upFrom 0 ps.length).zip ps)
    sumInOrder ts) (upFrom 0 32)

/-- One chunk of keys and values (R125, steps 1 to 5). -/
def attnChunk (q : Entry) (ks vs : List Entry) (a : AttnAcc) : FM AttnAcc := do
  let s ← fmMap (keyScore q) ks
  let m' ← fmFold fpMaxStep a.m s
  let d ← fpSub a.m m'
  let alpha ← fpExp d
  let es ← fmMap (fun x => do
    let t ← fpSub x m'
    fpExp t) s
  let la ← fpMul a.l alpha
  let se ← fpSum es
  let l' ← fpAdd la se
  let u ← fmMap (fun b => chunkValues es (vs.map fun v => nth zeroBlock v b)) (upFrom 0 q.length)
  let o' ← fmZip (fun o u => do
    let x ← fpMul o alpha
    fpAdd x u) a.o u.flatten
  pure ⟨m', l', o'⟩

/-- Chunks of 256 in ascending order. -/
def attnChunks (q : Entry) : Nat → List Entry → List Entry → AttnAcc → FM AttnAcc
  | 0, _, _, a => pure a
  | n + 1, ks, vs, a =>
    if ks.isEmpty then pure a
    else do
      let a' ← attnChunk q (ks.take 256) (vs.take 256) a
      attnChunks q n (ks.drop 256) (vs.drop 256) a'

/-- One query head over all its keys. -/
def attnHead (hd : Nat) (ks vs : List Entry) (q : Entry) : FM (List Nat) := do
  let a ← attnChunks q (ks.length + 1) ks vs ⟨0xFF7FFFFF, 0, List.replicate hd 0⟩
  fmMap (fun o => fpDiv o a.l) a.o

/-- The key or value entry of one position of a context on a die; zero blocks where no page holds it. -/
def readEntry (d : Nat) (x : CtxDesc) (pair pos : Nat) (value : Bool) : CM Entry := do
  let c ← get
  let hd := c.headDim d
  match Tbl.find? x.entries (pos / 64) with
  | none => pure (List.replicate (hd / 32) zeroBlock)
  | some e =>
    match c.pageKey x e with
    | none => do
      keyMiss d
      pure (List.replicate (hd / 32) zeroBlock)
    | some key => do
      let area := c.pageLine d e.frame pair + (if value then hd + hd / 16 else 0)
      let tok := pos % 64
      let el ← mapM_ (upFrom (area + tok * (hd / 64)) (hd / 64)) fun l => kvRead d l key
      let sc ← kvRead d (area + hd + tok * (hd / 32) / 32) key
      let bytes := el.flatten
      pure ((upFrom 0 (hd / 32)).map fun b =>
        ⟨nth 0 sc (tok * (hd / 32) % 32 + b), unpackElems .fp4 ((bytes.drop (16 * b)).take 16)⟩)

/-- MIL ATTN (R125).  A slot that is not valid has no request to attend over: its output is free. -/
def doMilAttn (t : Nat) : CM Unit :=
  issue t fun i =>
    match i with
    | .attn a d seq hd gM1 kvh layer vM1 => some fun _ => do
      let c ← get
      let x := c.tile t
      let g := gM1 + 1
      let h := Machine.headDim hd
      let die := t / 48
      let pair := (indexOf (fun p => decide (p = (layer, kvh))) (c.pairs die)).getD 0
      forM_ (upFrom 0 (vM1 + 1)) fun v => do
        let s := x.slot (x.slotNo seq + v)
        if s.valid then do
          let qs ← readNarrow t .fp4 (x.vline a v) (g * h / 32)
          let desc := c.ctxDesc die s.context
          let ks ← mapM_ (upFrom 0 (s.position + 1)) fun p => readEntry die desc pair p false
          let vs ← mapM_ (upFrom 0 (s.position + 1)) fun p => readEntry die desc pair p true
          let o ← countedM t (fmMap (fun k => attnHead h ks vs ((qs.drop (k * (h / 32))).take (h / 32))) (upFrom 0 g))
          writeFp t (x.vline d v) o.flatten
        else do
          let o ← mapM_ (upFrom 0 (g * h)) fun _ => freeValue 32
          writeFp t (x.vline d v) o
    | _ => none

/-! ## Paging (R271 to R274) -/

/-- Where paging messages go (R315). -/
def Chip.remotePeer (c : Chip) : Peer :=
  let w (n : Nat) := c.rd R.FRONT_REMOTE_ADDR (4 * n)
  ⟨c.rd R.FRONT_REMOTE_IF_PORT, ((w 0 * 2 ^ 32 + w 1) * 2 ^ 32 + w 2) * 2 ^ 32 + w 3, c.rd R.FRONT_UDP_REMOTE_PORT⟩

/-- The tweak of an image line (R273). -/
def imageTweak (handle node die k : Nat) : Nat := handle * 2 ^ 64 + node % 4096 * 2 ^ 52 + die % 8 * 2 ^ 49 + k

/-- A page's image: each line decrypted and encrypted again under its image tweak, with the tag (R273).  A page of a
shared frame goes out under the tenant's own key, as a private copy (R271). -/
def pageImage (d i page : Nat) : CM (Option (List Nat × List Nat)) := do
  let c ← get
  let x := c.ctxDesc d i
  let n := c.rd R.CTX_FRAME_CFG_FRAME_LINES (dieOff d)
  match Tbl.find? x.entries page, c.key keyTenantData x.tenant, c.key keyTenantMac x.tenant with
  | some e, some own, some mac =>
    match c.pageKey x e with
    | none => pure none
    | some key => do
      let lines ← mapM_ (upFrom 0 n) fun l => do
        let b ← kvRead d (c.pageLine d e.frame 0 + l) key
        pure (xts false own (imageTweak x.handle c.node d (page * n + l)) b)
      let im := lines.flatten
      pure (some (im, cmac mac im))
  | _, _, _ => pure none

/-- Pages of a context up to its commit length. -/
def commitPages (x : CtxDesc) : Nat := cdiv x.commit 64

def noPaging : Paging := ⟨false, [], [], 0⟩
def Chip.paging (c : Chip) (d i : Nat) : Option Paging := Tbl.find? c.pagings (d * 65536 + i)
def setPaging (d i : Nat) (p : Option Paging) : CM Unit := modify fun c => { c with
  pagings := match p with
    | none => Tbl.erase (d * 65536 + i) c.pagings
    | some x => Tbl.insert (d * 65536 + i) x c.pagings }

def imageId (c : Chip) (d i page : Nat) : ImageId := ⟨(c.ctxDesc d i).handle, c.node, d, page⟩

/-- Send the image of a page, or ask for it. -/
def pageMessage (d i page : Nat) : CM Unit := do
  let c ← get
  let x := c.ctxDesc d i
  match c.paging d i with
  | none => pure ()
  | some p =>
    if p.out then do
      let im ← pageImage d i page
      match im with
      | none => keyMiss d
      | some (b, tg) => sendTnp c.remotePeer ⟨pagingSession, x.tenant, 0, 0, x.request, .put (imageId c d i page) b tg⟩
    else sendTnp c.remotePeer ⟨pagingSession, x.tenant, 0, 0, x.request, .get (imageId c d i page)⟩

/-- A page-out ends on a die once every image is stored: the frames go, the state is REMOTE (R271). -/
def pageOutDone (d i : Nat) : CM Unit := do
  setPaging d i none
  releasePages d i
  onDesc d i fun x => { x with state := ctxRemote }
  bumpM R.CTX_PAGE_OUT_COUNT (dieOff d)

/-- A page-in ends on a die once every image is in place (R272). -/
def pageInDone (d i : Nat) : CM Unit := do
  setPaging d i none
  onDesc d i fun x => { x with state := ctxResident }
  bumpM R.CTX_PAGE_IN_COUNT (dieOff d)

/-- Start a page-out of a context on every die that holds it RESIDENT and outside the batches (R271). -/
def startPageOut (i handle : Nat) (inBatch : Bool) : CM Unit := forM_ (upFrom 0 8) fun d => do
  let c ← get
  let x := c.ctxDesc d i
  if inBatch ∨ x.state ≠ ctxResident then pure ()
  else do
    let n := if (c.pairs d).isEmpty then 0 else commitPages x
    setDesc d i { x with state := ctxPagingOut, handle := handle }
    setPaging d i (some ⟨true, upFrom 0 n, [], n⟩)
    forM_ (upFrom 0 n) (pageMessage d i)
    whenM (decide (n = 0)) (pageOutDone d i)

/-- Start a page-in of a context on every die where it is REMOTE and fits (R272). -/
def startPageIn (i : Nat) : CM Unit := forM_ (upFrom 0 8) fun d => do
  let c ← get
  let x := c.ctxDesc d i
  let n := if (c.pairs d).isEmpty then 0 else commitPages x
  if x.state ≠ ctxRemote ∨ c.freeFrames d < n then pure ()
  else do
    forM_ (upFrom 0 n) fun p => allocatePage d i p false
    onDesc d i fun x => { x with state := ctxPagingIn }
    setPaging d i (some ⟨false, upFrom 0 n, [], n⟩)
    forM_ (upFrom 0 n) (pageMessage d i)
    whenM (decide (n = 0)) (pageInDone d i)

/-- A paging that cannot be completed makes the request LOST on the die and releases its frames (R272). -/
def pagingLost (d i : Nat) : CM Unit := do
  setPaging d i none
  releasePages d i
  onDesc d i fun x => { x with state := ctxLost }
  bumpM R.CTX_PAGE_FAIL_LOST (dieOff d)

/-- An image fails or does not come: it is sent or fetched again, up to PAGE_RETRIES times (R272). -/
def retryPage (d i page : Nat) : CM Unit := do
  let c ← get
  match c.paging d i with
  | none => pure ()
  | some p =>
    if c.rd R.CTX_PAGE_CFG_PAGE_RETRIES (dieOff d) ≤ Tbl.get 0 p.retries page then pagingLost d i
    else do
      setPaging d i (some { p with retries := Tbl.modify 0 p.retries page (· + 1) })
      bumpM R.CTX_PAGE_FAIL_REFETCH (dieOff d)
      pageMessage d i page

/-- The die's context that a paging message of a tenant and request is about. -/
def Chip.pagedContext (c : Chip) (id : ImageId) (request : Nat) : Option Nat :=
  if id.node ≠ c.node then none
  else (c.pagings.find? fun e => decide (e.1 / 65536 = id.die)
      && decide ((c.ctxDesc id.die (e.1 % 65536)).request = request ∧ (c.ctxDesc id.die (e.1 % 65536)).handle = id.handle)
      && e.2.waiting.contains id.page).map (·.1 % 65536)

/-- PUT_ACK: the remote tier has stored an image, or refuses it (R271, R315). -/
def doPutAck (id : ImageId) (request status : Nat) : CM Unit := do
  let c ← get
  match c.pagedContext id request with
  | none => pure ()
  | some i =>
    match c.paging id.die i with
    | none => pure ()
    | some p =>
      if !p.out then retryPage id.die i id.page
      else if status = 0x40 then do
        let w := p.waiting.filter (· != id.page)
        setPaging id.die i (some { p with waiting := w })
        whenM w.isEmpty (pageOutDone id.die i)
      else retryPage id.die i id.page

/-- PAGING_DATA: an image arrives for a page-in; its tag is checked before it is written (R272, R273). -/
def doPagingData (id : ImageId) (request : Nat) (image tag : List Nat) : CM Unit := do
  let c ← get
  match c.pagedContext id request with
  | none => pure ()
  | some i =>
    let d := id.die
    let x := c.ctxDesc d i
    let n := c.rd R.CTX_FRAME_CFG_FRAME_LINES (dieOff d)
    match c.paging d i, c.key keyTenantData x.tenant, c.key keyTenantMac x.tenant, Tbl.find? x.entries id.page with
    | some p, some key, some mac, some e =>
      if p.out then pure ()
      else if cmac mac image = tag ∧ image.length = 32 * n then do
        forM_ (upFrom 0 n) fun l =>
          kvWrite d (c.pageLine d e.frame 0 + l) 0 key
            (xts true key (imageTweak x.handle c.node d (id.page * n + l)) ((image.drop (32 * l)).take 32))
        let w := p.waiting.filter (· != id.page)
        setPaging d i (some { p with waiting := w })
        whenM w.isEmpty (pageInDone d i)
      else retryPage d i id.page
    | some _, _, _, _ => do
      keyMiss d
      retryPage d i id.page
    | none, _, _, _ => pure ()

/-- PAGING_TIMEOUT: an image of a page was not acknowledged or did not arrive in time (R272). -/
def doPagingTimeout (d i page : Nat) : CM Unit := do
  let c ← get
  match c.paging d i with
  | none => pure ()
  | some p => if p.waiting.contains page then retryPage d i page else pure ()

/-! ## Patrol scrub (R275) -/

/-- CTX_SCRUB_READ: upsets strike (global line and symbol errors); then the die's scrub reads one access unit. -/
def doCtxScrubRead (d : Nat) (upsets : List (Nat × Nat)) : CM Unit := do
  modify fun c => { c with ctxErr := upsets.foldl (fun m u => Tbl.modify 0 m u.1 (· + u.2)) c.ctxErr }
  let c ← get
  if c.flag R.CTX_STATUS_SCRUB_ON (dieOff d) then do
    let u := Tbl.get 0 c.ctxScrub d
    forM_ (upFrom (16 * u) 16) fun l => do
      let _ ← ctxCheck d l
      pure ()
    modify fun c => { c with ctxScrub := Tbl.put 0 c.ctxScrub d ((u + 1) % stackUnits) }
    whenM (decide (u + 1 = stackUnits)) (bumpM R.CTX_SCRUB_PASSES (dieOff d))
  else pure ()

/-! ## Stack service (R276, R479) -/

/-- STACK_FAILURE: a stack leaves service (R276). -/
def doStackFailure (d : Nat) : CM Unit := do
  wrM R.CTX_STATUS_STACK (dieOff d) 3
  wrM R.CTX_STATUS_SCRUB_ON (dieOff d) 0
  let c ← get
  whenM c.jobRuns (raisePackage 0x46)

end Sys2Proof.Machine
end

