-- ==== Sys2Proof/Machine/Links.lean ====
section
/-! DEFINITION. Ecmon Link (chapter 9): lane groups and their owners (R225, R240), training (R244, R245), the choice of
the next flit (R232, R233), reception and retransmission (R229, R246), link encryption's counts (R247, R248). -/
namespace Sys2Proof.Machine

/-! ## Lane groups -/

/-- Byte offset of lane group `g` = port · 4 + group. -/
def lgOff (g : Nat) : Nat := grpOff (g / 4) (g % 4)

def grpUnused : Nat := 0
def grpDown : Nat := 1
def grpTraining : Nat := 2
def grpUp : Nat := 3
def grpFailed : Nat := 4
def ownerFree : Nat := 0
def ownerOwn : Nat := 1
def ownerTransit : Nat := 2

def Chip.grpState (c : Chip) (g : Nat) : Nat := c.rd R.TORUS_GRP_STATE_STATE (lgOff g)
def Chip.grpOwner (c : Chip) (g : Nat) : Nat := c.rd R.TORUS_GRP_STATE_OWNER (lgOff g)

/-- The die of a group's share (R221). -/
def shareDie (g : Nat) : Nat :=
  match g / 4, g % 4 / 2 with
  | 0, 0 => 3 | 0, _ => 7
  | 1, 0 => 0 | 1, _ => 4
  | 2, 0 => 5 | 2, _ => 6
  | 3, 0 => 1 | 3, _ => 2
  | 4, 0 => 4 | 4, _ => 7
  | _, 0 => 0 | _, _ => 3

/-- The laser input that feeds a die (R221). -/
def laserOf (d : Nat) : Nat := d / 2

/-- Keep TORUS_PORT_STATUS of a port at what its groups are. -/
def showPort (p : Nat) : CM Unit := do
  let c ← get
  let st (g : Nat) := c.grpState (p * 4 + g)
  wrM R.TORUS_PORT_STATUS_DEFINED (grpOff p 0) (mask ((upFrom 0 4).map fun g => decide (st g ≠ grpUnused)))
  wrM R.TORUS_PORT_STATUS_UP (grpOff p 0) (mask ((upFrom 0 4).map fun g => decide (st g = grpUp)))
  wrM R.TORUS_PORT_STATUS_WIDE (grpOff p 0) (mask ((upFrom 0 2).map fun s =>
    decide (st (2 * s) ≠ grpUnused) && c.flag R.TORUS_GRP_STATE_LANES8 (grpOff p (2 * s))))

def setGrpState (g st : Nat) : CM Unit := do
  wrM R.TORUS_GRP_STATE_STATE (lgOff g) st
  showPort (g / 4)

/-- A group's share has laser light (R223). -/
def Chip.lit (c : Chip) (g : Nat) : Bool := !bit (c.rd R.TORUS_PORT_STATUS_LASER_LOW (grpOff (g / 4) 0)) (g % 4 / 2)

/-- Start a training of a group; without light it stays DOWN. -/
def trainGroup (g : Nat) : CM Unit := do
  let c ← get
  wrM R.TORUS_GRP_PEER_VALID (lgOff g) 0
  onLink g fun l => { noLink with queue := l.queue, count := l.count, trainFails := l.trainFails }
  setGrpState g (if c.lit g then grpTraining else grpDown)

/-- What defines a group (R225, R237, R240). -/
structure GroupDef where
  owner : Nat
  job   : Nat
  wide  : Bool
  enc   : Bool
  latMax : Nat
  w1    : Nat
  w2    : Nat
  w3    : Nat
  deriving DecidableEq, Repr

/-- Define a group; it trains. -/
def defineGroup (g : Nat) (d : GroupDef) : CM Unit := do
  let o := lgOff g
  wrM R.TORUS_GRP_STATE_OWNER o d.owner
  wrM R.TORUS_GRP_STATE_JOB o d.job
  wrM R.TORUS_GRP_STATE_LANES8 o (b2n d.wide)
  wrM R.TORUS_GRP_STATE_ENC o (b2n d.enc)
  wrM R.TORUS_GRP_LAT_LAT_MAX o d.latMax
  wrM R.TORUS_GRP_WEIGHTS_W1 o d.w1
  wrM R.TORUS_GRP_WEIGHTS_W2 o d.w2
  wrM R.TORUS_GRP_WEIGHTS_W3 o d.w3
  wrM R.TORUS_GRP_TRANSIT_VALID o 0
  onLink g fun l => { noLink with count := l.count }
  trainGroup g

/-- A group becomes FREE and dark; its flits are discarded (R240, R243). -/
def freeGroup (g : Nat) : CM Unit := do
  let o := lgOff g
  wrM R.TORUS_GRP_STATE_OWNER o ownerFree
  wrM R.TORUS_GRP_STATE_JOB o 0
  wrM R.TORUS_GRP_TRANSIT_VALID o 0
  onLink g fun l => { noLink with count := l.count }
  setGrpState g grpUnused

/-- The package's own job runs on a group (R244). -/
def Chip.carriesJob (c : Chip) (g : Nat) : Bool :=
  decide (c.grpOwner g = ownerTransit) || (decide (c.grpOwner g = ownerOwn) && c.jobRuns)

/-! ## Leaving UP, training (R223, R244 to R246, R248) -/

/-- A group leaves UP: flits held for retransmission are lost; the job of an OWN group faults; the group retrains. -/
def groupDown (g : Nat) : CM Unit := do
  let c ← get
  if c.grpState g = grpUp then do
    bumpM R.TORUS_GRP_DOWNS_COUNT (lgOff g)
    trainGroup g
    onLink g fun l => { l with trainFails := 0 }
    let c ← get
    linkRecord (shareDie g) 0 (g / 4) (g % 4) (c.grpState g) (c.grpOwner g) (c.rd R.TORUS_GRP_STATE_JOB (lgOff g))
    whenM (decide (c.grpOwner g = ownerOwn) && c.jobRuns) (raisePackage 0x48)
  else pure ()

/-- TORUS_GROUP_DOWN (R246). -/
def doTorusGroupDown (port group : Nat) : CM Unit := groupDown (port * 4 + group)

/-- The mean of one-way latency samples, in 1/256 reference cycle (R245). -/
def meanEcho (es : List Nat) : Nat := if es.isEmpty then 0 else divRne (es.foldl (· + ·) 0) es.length

/-- What the ends say of a group agrees (R245). -/
def Chip.trainAgrees (c : Chip) (g : Nat) : Bool :=
  match (c.link g).peer with
  | none => false
  | some m => decide (m.group = g % 4) && decide (m.lanes = if c.flag R.TORUS_GRP_STATE_LANES8 (lgOff g) then 8 else 4)
      && m.enc == c.flag R.TORUS_GRP_STATE_ENC (lgOff g)

/-- The send key of an encrypted group is used up (R248). -/
def Chip.keySpent (c : Chip) (g : Nat) : Bool :=
  c.flag R.TORUS_GRP_STATE_ENC (lgOff g) && decide (2 ^ 56 - 1 ≤ (c.link g).count)

/-- TORUS_TRAINING_DONE: an attempt ends, the lanes deskewed or not (R244, R245). -/
def doTorusTrainingDone (port group : Nat) (deskewed : Bool) : CM Unit := do
  let g := port * 4 + group
  let c ← get
  if c.grpState g = grpTraining then
    let l := c.link g
    if deskewed && c.trainAgrees g && !c.keySpent g then do
      match l.peer with
      | none => pure ()
      | some m => do
        wrM R.TORUS_GRP_PEER_VALID (lgOff g) 1
        wrM R.TORUS_GRP_PEER_PEER_GROUP (lgOff g) m.group
        wrM R.TORUS_GRP_PEER_PEER_PORT (lgOff g) m.port
        wrM R.TORUS_GRP_PEER_PEER_NODE (lgOff g) m.node
      wrM R.TORUS_GRP_LAT_LAT (lgOff g) (min 65535 (divRne (meanEcho l.echoes * 100) 256))
      onLink g fun l => { l with trainFails := 0, rejoin := decide (c.grpOwner g = ownerOwn) && c.jobRuns }
      setGrpState g grpUp
    else do
      onLink g fun l => { l with trainFails := l.trainFails + 1, echoes := [], peer := none }
      whenM (decide (3 ≤ l.trainFails + 1)) (setGrpState g grpFailed)
  else pure ()

/-- TRAIN: a TRAIN flit is received; an echo gives a latency sample from its times in 1/256 reference cycle (R245). -/
def doTrain (port group : Nat) (m : TrainMsg) (received stamp hold : Nat) : CM Unit := do
  let g := port * 4 + group
  let c ← get
  if c.grpState g = grpTraining then
    onLink g fun l => { l with
      peer := some m
      echoes := if m.echo && decide (l.echoes.length < 64) then l.echoes ++ [(received - stamp - hold) / 2] else l.echoes }
  else pure ()

/-- GROUP_RETRAIN: a write of TORUS_GRP_CTRL.RETRAIN (R244). -/
def doGroupRetrain (src port group : Nat) : CM Unit := do
  let g := port * 4 + group
  let c ← get
  if c.grpState g = grpUnused ∨ c.carriesJob g = true then clampEvent src 0 (R.TORUS_GRP_CTRL_RETRAIN.addr + lgOff g)
  else do
    whenM (decide (c.grpState g = grpUp)) (bumpM R.TORUS_GRP_DOWNS_COUNT (lgOff g))
    onLink g fun l => { l with trainFails := 0 }
    trainGroup g

/-- Groups that are UP again rejoin at a step boundary (R246). -/
def rejoinGroups : CM Unit := forM_ (upFrom 0 24) fun g => do
  let c ← get
  whenM (c.link g).rejoin (onLink g fun l => { l with rejoin := false })

/-- The laser input of a die is low or has recovered (R223, R396). -/
def laserLow (input : Nat) (low : Bool) : CM Unit := forM_ (upFrom 0 24) fun g =>
  if laserOf (shareDie g) = input ∧ g % 2 = 0 then do
    let m ← rdM R.TORUS_PORT_STATUS_LASER_LOW (grpOff (g / 4) 0)
    let s := g % 4 / 2
    wrM R.TORUS_PORT_STATUS_LASER_LOW (grpOff (g / 4) 0)
      (if low then (if bit m s then m else m + 2 ^ s) else if bit m s then m - 2 ^ s else m)
    forM_ [g, g + 1] fun h => do
      let c ← get
      if low then groupDown h
      else if c.grpState h = grpDown then setGrpState h grpTraining else pure ()
  else pure ()

/-! ## The next flit (R232, R233) -/

def FlitBody.urgent (b : FlitBody) : Bool :=
  match b with
  | .peg _ | .commit _ _ _ => true
  | _ => false

/-- Weight of a virtual lane (R232). -/
def Chip.weight (c : Chip) (g vl : Nat) : Nat :=
  c.rd (if vl = 1 then R.TORUS_GRP_WEIGHTS_W1 else if vl = 2 then R.TORUS_GRP_WEIGHTS_W2 else R.TORUS_GRP_WEIGHTS_W3) (lgOff g)

/-- A flit of a lane waits and has credit. -/
def Link.ready (l : Link) (vl : Nat) : Bool := decide (0 < nth 0 l.credit vl) && l.queue.any fun f => decide (f.vl = vl)

/-- The virtual lane whose turn it is in the weighted round robin, with the flits it may still take. -/
def Chip.roundRobin (c : Chip) (g : Nat) (l : Link) : Nat → Nat → Nat → Option (Nat × Nat)
  | 0, _, _ => none
  | n + 1, vl, left =>
    if 0 < left ∧ l.ready vl then some (vl, left)
    else
      let next := if vl = 3 ∨ vl = 0 then 1 else vl + 1
      c.roundRobin g l n next (c.weight g next)

/-- The flit chosen at a flit boundary (R232), with the round robin's turn after it. -/
def Chip.chooseFlit (c : Chip) (g : Nat) (l : Link) : Option (Flit × Nat × Nat) :=
  if 0 < nth 0 l.credit 0 && l.queue.any fun f => decide (f.vl = 0) then
    match l.queue.find? fun f => decide (f.vl = 0) && f.body.urgent with
    | some f => some (f, l.turn, l.left)
    | none => (l.queue.find? fun f => decide (f.vl = 0)).map fun f => (f, l.turn, l.left)
  else match c.roundRobin g l 5 l.turn l.left with
    | none => none
    | some (vl, left) => (l.queue.find? fun f => decide (f.vl = vl)).map fun f => (f, vl, left - 1)

/-- The credit a header returns: of the first lane with some owed, 15 at most. -/
def Link.payCredit (l : Link) : Link :=
  match (upFrom 0 4).find? fun v => decide (0 < nth 0 l.owed v) with
  | none => l
  | some v => { l with owed := setNth (nth 0 l.owed v - min 15 (nth 0 l.owed v)) l.owed v }

/-- FLIT_TIME: a flit boundary of a group; `wait` is how long an urgent flit has waited for it, in 10 ps (R232, R247). -/
def doFlitTime (port group wait : Nat) : CM Unit := do
  let g := port * 4 + group
  let c ← get
  let l := (c.link g).payCredit
  if c.grpState g ≠ grpUp then pure ()
  else
    let header (l : Link) (f : Option Flit) : Link := { l with nak := false, ackDue := false, line := f }
    match l.resend with
    | (_, f) :: rest => do
      bumpM R.TORUS_GRP_RETRIES_COUNT (lgOff g)
      whenM (decide (f.vl = 0)) (bumpM R.TORUS_GRP_VL0_WAIT_RETRIED (lgOff g))
      onLink g fun _ => header { l with resend := rest } (some f)
    | [] =>
      if 2048 ≤ l.unacked.length ∨ l.rejoin then onLink g fun _ => header l none
      else match c.chooseFlit g l with
        | none => onLink g fun _ => header l none
        | some (f, turn, left) => do
          whenM f.body.urgent do
            let m ← rdM R.TORUS_GRP_VL0_WAIT_MAX (lgOff g)
            wrM R.TORUS_GRP_VL0_WAIT_MAX (lgOff g) (max m (min wait 65535))
          bumpM R.TORUS_GRP_FLITS_TX_COUNT (lgOff g)
          onLink g fun _ => header { l with
            queue := dropFirst (fun q => decide (q = f)) l.queue
            unacked := l.unacked ++ [(l.txSeq, f)]
            txSeq := (l.txSeq + 1) % 4096
            credit := setNth (nth 0 l.credit f.vl - 1) l.credit f.vl
            turn := turn, left := left, count := l.count + 1 } (some f)
          wrM R.TORUS_GRP_ENC_CTR_COUNT_HI (lgOff g) ((l.count + 1) / 2 ^ 24)
          if c.flag R.TORUS_GRP_STATE_ENC (lgOff g) then do
            whenM (decide (2 ^ 55 ≤ l.count + 1)) (wrM R.TORUS_GRP_STATE_ENC_WARN (lgOff g) 1)
            whenM (decide (2 ^ 56 - 1 ≤ l.count + 1)) (groupDown g)
          else pure ()

/-- ACK_REPORT: an IDLE flit reports ACK where nothing else has carried it (R246). -/
def doAckReport (port group : Nat) : CM Unit := do
  let g := port * 4 + group
  let c ← get
  if c.grpState g = grpUp && (c.link g).ackDue then
    onLink g fun l => { l.payCredit with nak := false, ackDue := false, line := none }
  else pure ()

/-! ## Reception (R229, R230, R239, R243, R246) -/

/-- `a` is not later than `b` in the sequence of 4,096 (R246). -/
def seqUpTo (a b : Nat) : Bool := decide ((b + 4096 - a) % 4096 < 2048)

/-- What a header's ACK, NAK and credits do at the sender. -/
def takeHeader (g : Nat) (h : Hdr) : CM Unit := do
  onLink g fun l => { l with
    unacked := l.unacked.filter fun u => !seqUpTo u.1 h.ack
    resend := l.resend.filter fun u => !seqUpTo u.1 h.ack
    credit := setNth (nth 0 l.credit h.cvl + h.cred) l.credit h.cvl }
  if h.nak then do
    let c ← get
    let l := c.link g
    match l.unacked with
    | [] => pure ()
    | (q, _) :: _ =>
      let fails := if l.failing = q then l.fails + 1 else 1
      if 4 ≤ fails then groupDown g
      else onLink g fun l => { l with resend := l.unacked, failing := q, fails := fails }
  else pure ()

/-- IDLE (R246). -/
def doIdle (h : Hdr) : CM Unit := do
  let g := h.port * 4 + h.group
  let c ← get
  if c.grpState g = grpUp then do
    whenM h.corrected (bumpM R.TORUS_GRP_CORRECTED_COUNT (lgOff g))
    takeHeader g h
  else pure ()

/-- CORRUPT_FLIT: a flit that fails R229 or, encrypted, its tag (R248): not delivered, counted, a NAK is due. -/
def doCorruptFlit (port group : Nat) (auth : Bool) : CM Unit := do
  let g := port * 4 + group
  let c ← get
  if c.grpState g = grpUp then do
    bumpM R.TORUS_GRP_NAKS_COUNT (lgOff g)
    whenM (auth && c.flag R.TORUS_GRP_STATE_ENC (lgOff g)) (bumpM R.TORUS_GRP_AUTH_FAIL_COUNT (lgOff g))
    onLink g fun l => { l with nak := true }
  else pure ()

/-- The virtual lanes a flit type is allowed on (R228). -/
def FlitBody.vlOk (b : FlitBody) (vl : Nat) : Bool :=
  match b with
  | .data _ _ _ _ | .copy _ _ _ _ _ _ | .endMark _ _ _ | .pkg _ => decide (1 ≤ vl ∧ vl ≤ 3)
  | .shard _ => decide (vl = 3)
  | _ => decide (vl = 0)

/-- Where a received flit goes on: the transit partner, a route, or nowhere: it is for this package. -/
def Chip.onward (c : Chip) (g dest : Nat) : Option (Option Nat) :=
  if c.grpOwner g = ownerTransit then
    some (if c.flag R.TORUS_GRP_TRANSIT_VALID (lgOff g) then
      some (c.rd R.TORUS_GRP_TRANSIT_PORT_OUT (lgOff g) * 4 + c.rd R.TORUS_GRP_TRANSIT_GROUP_OUT (lgOff g)) else none)
  else if dest = c.node then none
  else some (c.routeOf dest)

/-- A flit arrives: ACK, NAK and credit of its header; its SEQ; its JOB; then it is forwarded, or it is for this package
(true).  Its buffer is free again at once. -/
def receiveFlit (h : Hdr) (b : FlitBody) : CM Bool := do
  let g := h.port * 4 + h.group
  let c ← get
  if c.grpState g ≠ grpUp then pure false
  else do
    whenM h.corrected (bumpM R.TORUS_GRP_CORRECTED_COUNT (lgOff g))
    takeHeader g h
    let c ← get
    if c.grpState g ≠ grpUp ∨ h.seq ≠ (c.link g).rxSeq then pure false
    else do
      bumpM R.TORUS_GRP_FLITS_RX_COUNT (lgOff g)
      onLink g fun l => { l with rxSeq := (l.rxSeq + 1) % 4096, ackDue := true,
                                 owed := setNth (nth 0 l.owed h.vl + 1) l.owed h.vl }
      if !b.vlOk h.vl || h.job != c.rd R.TORUS_GRP_STATE_JOB (lgOff g) then do
        bumpM R.TORUS_GRP_DROPS_COUNT (lgOff g)
        pure false
      else match c.onward g h.dest with
        | none => pure true
        | some none => pure false
        | some (some out) => do
          onLink out fun l => { l with queue := l.queue ++ [⟨h.dest, h.job, h.vl, b⟩] }
          pure false

/-- All flits of a message; one that comes from the package itself has none.  True where it is for this package. -/
def receiveAll : List Hdr → FlitBody → CM Bool
  | [], _ => pure true
  | h :: t, b => do
    let ok ← receiveFlit h b
    match t with
    | [] => pure ok
    | _ => do
      let rest ← receiveAll t b
      pure (ok && rest)

/-! ## DATA, COPY, END, ACKD (R230, R231) -/

/-- The job of the flit runs on the package, else it is discarded (R230). -/
def ofJob (h : Hdr) : CM Bool := do
  let c ← get
  if 2 ≤ c.rd R.SEQ_STATE_STATE ∧ h.job = c.rd R.SEQ_JOB_JOB then pure true
  else do
    bumpM R.TORUS_GRP_DROPS_COUNT (lgOff (h.port * 4 + h.group))
    pure false

/-- The mesh carries what a station has received to its tile, from the die of the group's share. -/
def fromStation (h : Hdr) (p : Packet) : CM Unit := carry (shareDie (h.port * 4 + h.group)) p

def flitPacket (c : Chip) (h : Hdr) (src : Place) (d : Delivery) (index total : Nat) (b : PktBody) : Packet :=
  { src := src, dest := ⟨c.node, d.die, d.tile⟩, step := c.stepNow, replay := d.replay, index := index, total := total,
    vl := h.vl, detour := false, body := b }

/-- DATA: one DLV packet, stamped with the generation of the destination slot's task start (R230). -/
def doData (h : Hdr) (d : Delivery) (o : Origin) (line : Nat) (lines : List (List Nat)) : CM Unit := do
  let mine ← receiveFlit h (.data d o line lines)
  if mine then do
    let ok ← ofJob h
    if ok then do
      let c ← get
      let gen := c.rd R.SPAD_SLOT_GEN_GEN (slotOff (d.die * 48 + d.tile) d.slot)
      fromStation h (flitPacket c h o.src d o.index o.total (.lines d.slot d.tag line (decide (d.slot ≠ 0)) gen lines))
    else pure ()
  else pure ()

/-- COPY: the copy's lines are gathered; the last one delivers the copy (R230, R123). -/
def doCopy (h : Hdr) (d : Delivery) (o : Origin) (idx line : Nat) (r : CopyRec) (lines : List (List Nat)) : CM Unit := do
  let mine ← receiveFlit h (.copy d o idx line r lines)
  if mine then do
    let ok ← ofJob h
    if ok then do
      let c ← get
      let same := fun (p : CopyPart) => decide (p.delivery = d ∧ p.origin.src = o.src ∧ p.origin.index = o.index ∧ p.idx = idx)
      let old := match c.copyParts.find? same with
        | some p => p.lines
        | none => []
      let have_ := ((upFrom line lines.length).zip lines).foldl (fun m e => Tbl.insert e.1 e.2 m) old
      if o.total ≤ have_.length then do
        modify fun c => { c with copyParts := dropFirst same c.copyParts }
        fromStation h (flitPacket c h r.origin d o.index o.total
          (.copy d.tag r.batch r.choice idx (have_.flatMap fun e => lineOf e.2)))
      else modify fun c => { c with copyParts := dropFirst same c.copyParts ++ [⟨d, o, idx, r, have_⟩] }
    else pure ()
  else pure ()

/-- END: the end marker of a ROUTE from an origin tile (R230, R123). -/
def doEnd (h : Hdr) (d : Delivery) (origin : Place) (copies : Nat) : CM Unit := do
  let mine ← receiveFlit h (.endMark d origin copies)
  if mine then do
    let ok ← ofJob h
    if ok then do
      let c ← get
      fromStation h (flitPacket c h origin d 0 0 (.endMark d.tag))
    else pure ()
  else pure ()

/-- An ACKD record becomes the ACK of the first send with its tag that is unacknowledged at the tile (R231). -/
def ackdToTack (r : AckdRec) : CM Unit := do
  let c ← get
  let t := r.die * 48 + r.tile
  let bank := c.rd R.TILE_STATE_BANK (tileOff t)
  match (c.tile t).sends.find? fun s => decide (s.dest.node ≠ c.node) &&
      decide (Tbl.get 0 (c.tile t).sendTag (bank * 16384 + s.index) = r.tag) with
  | none => pure ()
  | some s => modify fun c => { c with tack := c.tack ++
      [.ack { dst := ⟨c.node, r.die, r.tile⟩, src := s.dest, index := s.index, tag := r.tag, step := r.step,
              replay := r.replay }] }

/-- ACKD (R231). -/
def doAckd (h : Hdr) (recs : List AckdRec) : CM Unit := do
  let mine ← receiveFlit h (.ackd recs)
  if mine then do
    let ok ← ofJob h
    whenM ok (forM_ recs ackdToTack)
  else pure ()

/-! ## What leaves the package (R200, R230) -/

/-- The flits of a packet that leaves the package, up to 3 lines each, or 2 encrypted (R230). -/
def dataFlits (n : Nat) (mk : Nat → List (List Nat) → FlitBody) : Nat → Nat → List (List Nat) → List FlitBody
  | 0, _, _ => []
  | k + 1, first, ls => match ls with
    | [] => []
    | _ => mk first (ls.take n) :: dataFlits n mk k (first + n) (ls.drop n)

def packetFlits (n : Nat) (p : Packet) : List FlitBody :=
  let d : Delivery := ⟨p.dest.die, p.dest.tile, 0, p.body.tag, p.replay⟩
  let o : Origin := ⟨p.src, p.index, p.total⟩
  match p.body with
  | .lines slot _ first _ _ data => dataFlits n (fun l ls => .data { d with slot := slot } o l ls) (data.length + 1) first data
  | .copy _ slot choice back data =>
    let lines := (upFrom 0 (cdiv data.length 32)).map fun i => lineOf (data.drop (32 * i))
    let r : CopyRec := ⟨p.src, slot, choice⟩
    .copy d o back 0 r (lines.take (n - 1)) ::
      dataFlits n (fun l ls => .copy d o back l r ls) (lines.length + 1) (n - 1) (lines.drop (n - 1))
  | .endMark _ => [.endMark d p.src 0]
  | .append _ _ _ _ => []

/-- Packets and acknowledgements that wait at the torus stations go onto their groups (R230, R231). -/
def drainStations : CM Unit := do
  let c ← get
  modify fun c => { c with stationOut := [], ackOut := [] }
  forM_ c.stationOut fun p =>
    match c.routeOf p.dest.node with
    | none => pure ()
    | some g =>
      let n := if c.flag R.TORUS_GRP_STATE_ENC (lgOff g) then 2 else 3
      onLink g fun l => { l with queue := l.queue ++ (packetFlits n p).map fun b => ⟨p.dest.node, c.rd R.SEQ_JOB_JOB, p.vl, b⟩ }
  forM_ c.ackOut fun a => enqueue ⟨a.dst.node, c.rd R.SEQ_JOB_JOB, 0,
    .ackd [⟨a.dst.die, a.dst.tile, a.tag, a.replay, a.step % 256⟩]⟩

end Sys2Proof.Machine
end

