-- ==== Sys2Proof/Machine/Cutting.lean ====
section
/-! DEFINITION. Cutting lists: the container and its sections (R187 to R194, R237, R295), the checks of R195 in code
order, and what acceptance sets. -/
namespace Sys2Proof.Machine

/-! ## The container (R187, R188) -/

/-- A section: its place in the container, its header, its body. -/
structure Sect where
  ix   : Nat
  typ  : Nat
  node : Nat
  die  : Nat
  tile : Nat
  gear : Nat
  body : List Nat
  deriving DecidableEq, Repr

/-- The sections that follow a header; none where a header or a length is wrong. -/
def sectsOf : Nat → Nat → List Nat → Option (List Sect)
  | 0, _, b => if b.isEmpty then some [] else none
  | n + 1, ix, b =>
    let len := le b 8 4
    if b.length < 16 ∨ len % 8 ≠ 0 ∨ b.length < 16 + len then none
    else (sectsOf n (ix + 1) (b.drop (16 + len))).map fun t =>
      ⟨ix, le b 0 2, le b 2 2, nth 0 b 4, nth 0 b 5, nth 0 b 6, (b.drop 16).take len⟩ :: t

/-- CRC-32 of a container computed with the four bytes at an offset as 0 (R187, R340). -/
def containerCrc (b : List Nat) (off : Nat) : Nat := crc32 (b.take off ++ [0, 0, 0, 0] ++ b.drop (off + 4))

/-- A check of R195 that fails: its code, and the section and index it names. -/
structure ListFail where
  code  : Nat
  sect  : Nat
  die   : Nat
  tile  : Nat
  gear  : Nat
  index : Nat
  deriving DecidableEq, Repr

def Sect.fail (s : Sect) (code index : Nat) : ListFail :=
  ⟨code, s.ix, if s.die < 8 then s.die else 0, if s.tile < 48 then s.tile else 0, if s.gear < 3 then s.gear else 0, index⟩

/-- The first failure that a check of each element finds. -/
def firstSome {α β : Type} (f : α → Option β) : List α → Option β
  | [] => none
  | a :: t => match f a with
    | some b => some b
    | none => firstSome f t

/-- A failure where a condition does not hold. -/
def failUnless {α : Type} (ok : Bool) (a : α) : Option α := if ok then none else some a

def pad8 (n : Nat) : Nat := cdiv n 8 * 8

/-- Records of `size` bytes from an offset. -/
def recordsAt (b : List Nat) (off size n : Nat) : List (List Nat) := (upFrom 0 n).map fun i => (b.drop (off + size * i)).take size

/-! ## Bodies (R189 to R194, R237, R295) -/

/-- The JOB body: HEAD, TAIL, packages (R189). -/
def jobEntries (b : List Nat) (n : Nat) : List JobEntry :=
  (recordsAt b 8 8 n).map fun r => ⟨le r 0 2, nth 0 r 2, bit (nth 0 r 3) 0⟩

/-- The maps of an EXPERTS body: those that fit, and true where all do (R194). -/
def expertMaps : Nat → List Nat → List (List Place) × Bool
  | 0, _ => ([], true)
  | n + 1, b =>
    let k := le b 0 2
    let len := pad8 (4 + 4 * k)
    if b.length < len ∨ k < 2 ∨ 512 < k then ([], false)
    else
      let rest := expertMaps n (b.drop len)
      ((recordsAt b 4 4 k).map (fun r => ⟨le r 0 2, nth 0 r 2, nth 0 r 3⟩) :: rest.1, rest.2)

def pathGroups (b : List Nat) : List PathGroup :=
  (recordsAt b 8 12 (le b 0 2)).map fun r =>
    ⟨nth 0 r 0, nth 0 r 1, nth 0 r 2, bit (nth 0 r 3) 0, le r 4 2, le r 6 2, nth 0 r 8, nth 0 r 9, nth 0 r 10⟩

/-- Route records: destination, port, group. -/
def pathRoutes (b : List Nat) : List (Nat × Nat × Nat) :=
  (recordsAt b (8 + 12 * le b 0 2) 4 (le b 2 2)).map fun r => (le r 0 2 % 4096, nth 0 r 2, nth 0 r 3)

def windowsOf (b : List Nat) (gear : Nat) : List Win :=
  (recordsAt b 8 12 (le b 0 4)).map fun r =>
    ⟨nth 0 r 0, nth 0 r 1 % 4, bit (nth 0 r 1) 7, le r 2 2, le r 4 4, le r 8 4, gear⟩

def serveOf (b : List Nat) : Serve :=
  ⟨le b 0 2, le b 2 2, [le b 4 4, le b 8 4, le b 12 4], le b 16 8, le b 24 2, le b 26 2, le b 32 16, le b 48 16⟩

/-- Lanes of a group record: the groups it takes. -/
def PathGroup.span (g : PathGroup) : List Nat := if g.lanes = 8 then [g.group, g.group + 1] else [g.group]

/-- The PATHS body is as R237 and R238 (FORMAT) have it. -/
def pathsOk (b : List Nat) : Bool :=
  let gs := pathGroups b
  let rs := pathRoutes b
  decide (b.length = pad8 (8 + 12 * le b 0 2 + 4 * le b 2 2))
    && gs.all (fun g => decide (g.port < 6 ∧ g.group < 4 ∧ (g.lanes = 4 ∨ g.lanes = 8) ∧ 0 < g.w1 ∧ 0 < g.w2 ∧ 0 < g.w3)
      && !(decide (g.lanes = 8) && decide (g.group % 2 = 1)))
    && decide ((gs.flatMap fun g => g.span.map fun k => g.port * 4 + k) = unique (gs.flatMap fun g => g.span.map fun k => g.port * 4 + k))
    && decide (rs.map (·.1) = unique (rs.map (·.1)))
    && rs.all (fun r => gs.any fun g => decide (g.port = r.2.1 ∧ g.group = r.2.2))

/-- The index within a body of the first field out of its range, none where all are in range (R189 to R194, R295). -/
def Sect.badField (s : Sect) (packages : Nat) : Option Nat :=
  let b := s.body
  let n := le b 0 4
  let tiled := decide (s.die < 8 ∧ s.tile < 48)
  let wide := decide (s.die = 0xFF ∧ s.tile = 0xFF ∧ s.gear = 0xFF)
  match s.typ with
  | 1 =>
    if !(wide && decide (b.length = 8 + 8 * packages)) then some 0
    else indexOf (fun e : JobEntry => !decide (e.node < 4096 ∧ (e.parent < 6 ∨ e.parent = 7))) (jobEntries b packages)
  | 2 => failUnless (tiled && decide (s.gear = 0xFF ∧ b.length = 80 + 8 * le b 74 2 ∧ le b 68 4 < 2 ^ 20 ∧ 1 ≤ le b 72 2 ∧ le b 72 2 < 1024)) 0
  | 3 => failUnless (tiled && decide (s.gear = 0xFF ∧ b.length = 512)) 0
  | 4 => failUnless (tiled && decide (s.gear < 3 ∧ 1 ≤ n ∧ b.length = 8 + 8 * n)) 0
  | 5 => failUnless (tiled && decide (s.gear < 3 ∧ b.length = pad8 (8 + 4 * n))) 0
  | 6 =>
    if !(tiled && decide (s.gear < 3 ∧ b.length = pad8 (8 + 12 * n))) then some 0
    else indexOf (fun w : Win => !decide (w.board < 128 ∧ w.kind < 3 ∧ 1 ≤ w.length)) (windowsOf b s.gear)
  | 7 =>
    let m := expertMaps n (b.drop 8)
    if !(wide && m.2) then some 0
    else indexOf (fun k : List Place => k.any fun p => !decide (p.node < 4096 ∧ p.die < 8 ∧ p.tile < 48)) m.1
  | 8 => failUnless (wide && pathsOk b) 0
  | 9 =>
    let v := serveOf b
    failUnless (decide (s.node = 0xFFFF) && wide && decide (b.length = 64 ∧ 1 ≤ v.batchMax ∧ v.batchMax ≤ 2048 ∧ 1 ≤ v.prefillMax
      ∧ v.prefillMax ≤ 2048 ∧ 1 ≤ v.attnBudget ∧ v.attnBudget ≤ 2 ^ 34 ∧ 32 ≤ v.stepKeep ∧ v.stepKeep ≤ 1024
      ∧ 1 ≤ v.zeroSteps ∧ v.zeroSteps ≤ 1024)) 0
  | _ => some 0

/-! ## Applying a list -/

/-- The header fields that the package keeps. -/
structure ListHead where
  job      : Nat
  packages : Nat
  layout   : Nat
  len      : List Nat
  gap      : Nat
  rotM1    : Nat
  timeout  : Nat
  crc      : Nat
  deriving DecidableEq, Repr

def listHead (b : List Nat) : ListHead :=
  ⟨le b 8 2 % 4096, le b 10 2, le b 12 4, [le b 16 4, le b 20 4, le b 24 4], le b 28 2, le b 30 2, le b 32 4, le b 44 4⟩

/-- A table whose values from a key on are the elements of a list. -/
def fillFrom (m : Map Nat) (key : Nat) (vs : List Nat) : Map Nat :=
  ((upFrom key vs.length).zip vs).foldl (fun m e => Tbl.put 0 m e.1 e.2) m

/-- What one section sets (R190 to R194). -/
def applySect (packages : Nat) (s : Sect) : CM Unit := do
  let b := s.body
  let t := s.die * 48 + s.tile
  let n := le b 0 4
  match s.typ with
  | 1 => modify fun c => { c with seq := { c.seq with jobs := jobEntries b packages, headIx := le b 0 2, tailIx := le b 2 2 } }
  | 2 => do
    forM_ (upFrom 0 8) fun k => do
      wrM R.SPAD_SLOT_BASE_BASE (slotOff t k) (le b (8 * k) 4)
      wrM R.SPAD_SLOT_BOUND_LINES (slotOff t k) (le b (8 * k + 4) 4)
      wrM R.SPAD_SLOT_OWNER_KIND (slotOff t k) (min k 5)
    wrM R.TILE_STANDIN_CFG_RESERVE (tileOff t) (le b 68 4)
    wrM R.TILE_MILL_CFG_KV_ALLOC (tileOff t) (le b 72 2)
    onTileM t fun x => { x with carried := (recordsAt b 80 8 (le b 74 2)).map fun r => ⟨le r 0 4, le r 4 4⟩ }
  | 3 => forM_ (upFrom 0 128) fun k => do
    let w := le b (4 * k) 4
    onTileM t fun x => { x with used := Tbl.put 3 x.used k (w % 4), insoleRes := Tbl.put 0 x.insoleRes k (w / 65536) }
    whenM (decide (w % 4 ≠ 3)) (wrM R.ARRAY_CFG_ROWGROUP (boardOff (boardOf t k)) (w % 4))
  | 4 => do
    wrM R.TILE_PROG_LEN_LEN (tileOff t + 4 * s.gear) n
    onTileM t fun x => { x with prog := fillFrom x.prog (s.gear * 16384) ((recordsAt b 8 8 n).map fun r => le r 0 8) }
  | 5 => do
    let tags (m : Map Nat) := (recordsAt b 8 4 n).foldl (fun m r => Tbl.put 0 m (s.gear * 16384 + le r 0 2) (le r 2 2 % 4096)) m
    onTileM t fun x => { x with sendTag := tags x.sendTag }
  | 6 => onTileM t fun x => { x with windows := x.windows ++ windowsOf b s.gear }
  | 7 => modify fun c => { c with experts := (expertMaps n (b.drop 8)).1 }
  | 8 => do
    modify fun c => { c with seq := { c.seq with paths := pathGroups b } }
    forM_ (pathRoutes b) fun r => do
      wrM R.TORUS_PATH_VALID (4 * r.1) 1
      wrM R.TORUS_PATH_PORT (4 * r.1) r.2.1
      wrM R.TORUS_PATH_GROUP (4 * r.1) r.2.2
  | 9 => modify fun c => { c with serving := { c.serving with serve := serveOf b } }
  | _ => pure ()

/-- The list's own values in the tables and registers, the earlier list's gone. -/
def applyList (h : ListHead) (ss : List Sect) : CM Unit := do
  let old ← get
  forM_ old.seq.jobs fun e => do
    wrM R.TORUS_PATH_VALID (4 * e.node) 0
    wrM R.TORUS_PATH_PORT (4 * e.node) 0
    wrM R.TORUS_PATH_GROUP (4 * e.node) 0
  forM_ (upFrom 0 4096) fun n => whenM (old.flag R.TORUS_PATH_VALID (4 * n)) do
    wrM R.TORUS_PATH_VALID (4 * n) 0
    wrM R.TORUS_PATH_PORT (4 * n) 0
    wrM R.TORUS_PATH_GROUP (4 * n) 0
  modify fun c => { c with
    tiles := Tbl.mapVals (fun _ x => { x with prog := [], sendTag := [], windows := [], used := [], insoleRes := [], carried := [] }) c.tiles
    experts := []
    seq := { c.seq with paths := [] } }
  forM_ ss (applySect h.packages)
  wrM R.SEQ_JOB_JOB 0 h.job
  wrM R.SEQ_JOB_PACKAGES 0 h.packages
  wrM R.SEQ_LAYOUT_LAYOUT_ID 0 h.layout
  forM_ ((upFrom 0 3).zip h.len) fun e => wrM R.SEQ_LEN_L (4 * e.1) e.2
  wrM R.SEQ_GAP_RESUME_GAP 0 h.gap
  wrM R.SEQ_TIMEOUT_STEP_TIMEOUT 0 h.timeout
  wrM R.SEQ_ROTATION_ROTATION_M1 0 h.rotM1
  wrM R.SEQ_LIST_CRC_CRC 0 h.crc

/-! ## Checking a tile's program (R113, R116, R118, R135, R149, R184) -/

/-- The pieces of a range that none of the given ranges covers. -/
def cutBy : List LineRange → LineRange → List LineRange
  | [], r => if r.count = 0 then [] else [r]
  | w :: t, r =>
    if r.meets w then
      cutBy t ⟨r.first, w.first - r.first⟩ ++ cutBy t ⟨max r.first (w.first + w.count), r.first + r.count - (w.first + w.count)⟩
    else cutBy t r

/-- The lines of a range that none of the given ranges covers. -/
def freshLines (rs : List LineRange) (r : LineRange) : Nat := (cutBy rs r).foldl (fun n p => n + p.count) 0

/-- The batch table's lines (R298). -/
def batchLines : LineRange := ⟨0, 1032⟩

/-- Cycles per beat of a gear (R14). -/
def gearCycles (g : Nat) : Nat := if g = 0 then 960 else if g = 1 then 816 else 672

/-- A time for which an instruction occupies a board, in cycles from the step start. -/
structure Occupied where
  index  : Nat
  loc    : Nat
  scrub  : Bool
  first  : Nat
  cycles : Nat
  deriving DecidableEq, Repr

/-- What walking a program has gathered: address registers and receives (in a tile value), the issue time, lines
written and retained, pegs, occupancies, and failures (code, index). -/
structure Walk where
  x       : Tile
  beat    : Nat
  cyc     : Nat
  written : List LineRange
  kept    : List LineRange
  total   : Nat
  pegs    : List (Nat × Nat)
  occ     : List Occupied
  fails   : List (Nat × Nat)
  deriving DecidableEq, Repr

/-- What a program is checked against: tile, gear variant, its maps, the declared retained total. -/
structure WalkCtx where
  t        : Nat
  gear     : Nat
  len      : Nat
  retained : Nat
  deriving DecidableEq, Repr

/-- The lines of each vector of a receive. -/
def Recv.parts (r : Recv) : List LineRange := (upFrom 0 r.cap).map fun v => ⟨r.line + v * r.stride, r.lines⟩

/-- Rows of a copy: 512 of a dual-resident board (R77). -/
def copyRows (dual : Bool) : Nat := if dual then 512 else 1024

def Chip.dualNow (c : Chip) : Bool := (c.inForce.map (·.dual)).getD false

/-- Every field is within the range that R116, R118 and R265 state, and every board and tag it names may be named. -/
def Chip.encOk (c : Chip) (k : WalkCtx) (x : Tile) (i : EInstr) : Bool :=
  let used (b : Nat) : Bool := decide (Tbl.get 3 x.used b ≠ 3)
  match i with
  | .arr _ b _ _ _ _ _ _ _ _ _ => used b
  | .vec op _ _ _ lenM1 f _ aux =>
    if op = 0xC ∨ op = 0xD then decide (f ≠ 3)
    else if op = 0x8 then decide (aux % 256 ≠ 0xFF)
    else if op = 0x9 then decide (bits aux 5 4 ≠ 3 ∧ (lenM1 + 1) % Machine.headDim (bits aux 5 4) = 0)
    else if op = 0xE then decide (aux % 16 ≤ lenM1)
    else true
  | .attn _ _ _ hd _ _ _ _ => decide (hd ≠ 3)
  | .scrub b g _ => used b && decide (g < copyRows c.dualNow / groupRows (Tbl.get 3 x.used b))
  | .red _ _ _ tag _ _ | .wait tag => x.recvs.any fun r => decide (r.tag = tag)
  | .send _ lM1 _ _ die tile vl _ =>
    if tile = 0x3F then decide (vl = 0) && (match c.inForce with
      | none => true
      | some _ => decide (lM1 = c.headDim die / 64))
    else decide (tile < 48)
  | .route _ _ _ _ map _ _ => decide (map < c.experts.length)
  | .waitBeat n => decide (n < k.len)
  | _ => true

/-- A SEND or ROUTE to another package on VL0 (R113). -/
def Chip.onVl0 (c : Chip) (i : EInstr) : Bool :=
  match i with
  | .send _ _ _ node _ tile vl _ => decide (vl = 0 ∧ tile ≠ 0x3F ∧ node ≠ c.node)
  | .route _ _ _ _ map vl _ => decide (vl = 0) && (nth [] c.experts map).any fun p => decide (p.node ≠ c.node)
  | _ => false

/-- Completion time of a board operation in cycles from issue (R121, R133, R378). -/
def Chip.boardCycles (c : Chip) (k : WalkCtx) (x : Tile) (i : EInstr) : Option (Nat × Bool × Nat) :=
  match i with
  | .arr _ b span sM1 afmt ins vM1 _ _ _ _ =>
    let r := c.runOf (boardOf k.t b) span (sM1 + 1) (nfmtOfBit afmt)
    let n := r.groups * (planesOf r.afmt).length
    some (b, false, (vM1 + 1) * max (24 * n) (if ins then Tbl.get 0 x.insoleRes b else 0) + 10
      + cdiv (outliersOf (c.tile k.t).welt r).length 4)
  | .scrub b _ _ => some (b, true, 48 * groupRows (Tbl.get 3 x.used b) + 10)
  | _ => none

/-- A receive as posted by an instruction of a checked program. -/
def recvFor (x : Tile) (i : EInstr) : Option Recv :=
  let base : Recv :=
    { tag := 0, line := 0, lines := 0, stride := 0, gen := 0, retain := false, gather := false, cap := 1,
      sources := 0, arrived := [], copies := [], ends := [], placed := [], dropped := [], done := false }
  match i with
  | .post d lM1 tag retain => some { base with tag := tag, line := x.line d, lines := lM1 + 1, retain := retain }
  | .gather d lM1 tag retain capM1 sM1 =>
    some { base with
      tag := tag, line := x.line d, lines := lM1 + 1, stride := x.stride d, retain := retain, gather := true,
      cap := capM1 + 1, sources := sM1 + 1 }
  | _ => none

/-- One instruction of the walk. -/
def Chip.walkOne (c : Chip) (k : WalkCtx) (w : Walk) (idx : Nat) : Walk :=
  match decodeWord (w.x.word k.gear idx) with
  | none => { w with cyc := w.cyc + 1, fails := w.fails ++ [(4, idx)] }
  | some i =>
    let x := w.x
    let cl := c.claim k.t x i
    let reads := cl.reads.flatMap x.each
    let posted := recvFor x i
    let writes := match posted with
      | some r => r.parts
      | none => cl.writes.flatMap x.each
    let keeps : List LineRange := match i, posted with
      | .retain a lM1, _ => [⟨x.line a, lM1 + 1⟩]
      | _, some r => if r.retain then r.parts else []
      | _, _ => []
    let bound := c.rd R.SPAD_SLOT_BOUND_LINES (slotOff k.t 0)
    let waited : Option Nat := match i with
      | .wait tag | .red _ _ _ tag _ _ | .gather _ _ tag _ _ _ => some tag
      | _ => none
    let recvs := amend (fun r => decide (waited = some r.tag) || r.parts.any fun p => reads.any p.meets) (fun r => { r with done := true }) x.recvs
    let pending := recvs.filter fun r => !r.done
    let seen := batchLines :: w.written ++ x.carried.map fun r => ⟨r.first, r.lines⟩
    let total := w.total + (keeps.foldl (fun a r => (a.1 + freshLines a.2 r, r :: a.2)) (0, w.kept)).1
    let when_ (bad : Bool) (code : Nat) : List (Nat × Nat) := if bad then [(code, idx)] else []
    let at_ := w.beat * gearCycles k.gear + w.cyc
    let next := match i with
      | .waitBeat n => (n, 0)
      | .waitCycles n => (w.beat, w.cyc + 1 + n)
      | _ => (w.beat, w.cyc + 1)
    let x1 := { x with recvs := match posted with
      | some r => recvs.filter (fun q => q.tag != r.tag) ++ [r]
      | none => recvs }
    let x2 := match i with
      | .setx xd imm => { x1 with xregs := Tbl.put 0 x1.xregs xd imm }
      | .addx xd imm => { x1 with xregs := Tbl.put 0 x1.xregs xd ((x1.xreg xd + imm) % 2 ^ 32) }
      | .vec 0xE _ _ d _ _ vM1 aux =>
        { x1 with topk := (upFrom 0 (vM1 + 1)).foldl (fun m v => Tbl.put 0 m (x1.vline d v) (aux % 16 + 1)) x1.topk }
      | _ => x1
    { x := x2, beat := next.1, cyc := next.2
      written := w.written ++ writes
      kept := keeps ++ w.kept
      total := total
      pegs := match i with
        | .peg s id => w.pegs ++ [(s, id)]
        | _ => w.pegs
      occ := match i with
        | .sample => w.occ ++ (unique ((arrsOf x k.gear (c.rd R.TILE_PROG_LEN_LEN (tileOff k.t + 4 * k.gear)) 0 []).map (·.loc))).map
            fun b => ⟨idx, b, false, at_, 400⟩
        | _ => match c.boardCycles k x i with
          | some (b, scrub, n) => w.occ ++ [⟨idx, b, scrub, at_, n⟩]
          | none => w.occ
      fails := w.fails ++ when_ (!c.encOk k x i) 4
        ++ when_ ((reads ++ writes ++ keeps).any fun r => decide (bound < r.first + r.count)) 5
        ++ when_ (writes.any (fun r => w.kept.any r.meets) || decide (k.retained < total)) 6
        ++ when_ (c.onVl0 i) 8
        ++ when_ (reads.any (fun r => !(cutBy seen r).isEmpty) || writes.any fun r => pending.any fun p => p.parts.any r.meets) 0xA }

/-- The walk over a program. -/
def Chip.walk (c : Chip) (k : WalkCtx) : Walk :=
  let x := { c.tile k.t with xregs := [], recvs := [], topk := [] }
  (upFrom 0 (c.rd R.TILE_PROG_LEN_LEN (tileOff k.t + 4 * k.gear))).foldl (c.walkOne k)
    ⟨x, 0, 0, [], [batchLines], 0, [], [], []⟩

/-! ## Windows (R184, R378) -/

/-- Both windows can apply in one step, and their beats meet. -/
def Win.clash (a b : Win) : Bool :=
  decide (a.board = b.board ∧ a.gear = b.gear ∧ a.start < b.start + b.length ∧ b.start < a.start + a.length)
    && (a.every || b.every || decide (a.phase = b.phase))

/-- The phases that a board's windows name, and one that they do not. -/
def phasesOf (ws : List Win) (rotation : Nat) : List Nat :=
  let named := unique ((ws.filter fun w => !w.every && decide (w.phase < rotation)).map (·.phase))
  named ++ ((upFrom 0 (min rotation (named.length + 1))).filter fun p => !named.contains p).take 1

/-- An occupancy lies within the board's COMPUTE windows in every phase; a scrub's within a TRUING window. -/
def occupiedOk (ws : List Win) (gear rotation : Nat) (o : Occupied) : Bool :=
  let mine := ws.filter fun w => decide (w.board = o.loc ∧ w.gear = gear)
  let cyc := gearCycles gear
  let range (w : Win) : LineRange := ⟨w.start * cyc, w.length * cyc⟩
  if o.scrub then mine.any fun w => decide (w.kind = 2 ∧ w.start * cyc ≤ o.first ∧ o.first + o.cycles ≤ (w.start + w.length) * cyc)
  else (phasesOf mine rotation).all fun p =>
    (cutBy ((mine.filter fun w => decide (w.kind = 0) && (w.every || decide (w.phase = p))).map range) ⟨o.first, o.cycles⟩).isEmpty

/-- A TRUING window holds a TRACK truing and the scrubs in it (R378). -/
def truingFits (occ : List Occupied) (w : Win) : Bool :=
  let cyc := gearCycles w.gear
  let inside := occ.filter fun o => o.scrub && decide (o.loc = w.board ∧ w.start * cyc ≤ o.first ∧ o.first < (w.start + w.length) * cyc)
  decide (cdiv (18442 + inside.foldl (fun n o => n + o.cycles) 0) cyc ≤ w.length)

/-- The window that fails R184 (but its last two cases) or R378, by its index in the section. -/
def windowFail (ws : List Win) (len : Nat) (occ : List Occupied) : Option Nat :=
  indexOf (fun e : Nat × Win =>
    let w := e.2
    decide (len < w.start + w.length) || (decide (w.kind = 1) && !w.every) || (decide (w.kind = 2) && w.every)
      || ((upFrom 0 ws.length).zip ws).any (fun f => decide (e.1 ≠ f.1) && w.clash f.2)
      || (decide (w.kind = 2) && !truingFits occ w)) ((upFrom 0 ws.length).zip ws)

/-- At some beat, PROGRAM windows of a die cover more than 1,536 boards in a gear. -/
def programCrowded (ws : List Win) : Bool :=
  let ps := ws.filter fun w => decide (w.kind = 1)
  ps.any fun a => decide (1536 < (ps.filter fun b => decide (b.start ≤ a.start ∧ a.start < b.start + b.length)).length)

/-! ## The checks of R195 -/

/-- The section of a type for a tile and a gear variant. -/
def sectFor (ss : List Sect) (typ t gear : Nat) : Option Sect :=
  ss.find? fun s => decide (s.typ = typ ∧ s.die = t / 48 ∧ s.tile = t % 48 ∧ s.gear = gear)

def failAt (ss : List Sect) (code typ t gear index : Nat) : ListFail :=
  match sectFor ss typ t gear with
  | some s => s.fail code index
  | none => ⟨code, 0, t / 48, t % 48, if gear < 3 then gear else 0, index⟩

/-- The sections a package takes: JOB, and those of its own node or of every package. -/
def ownSects (node : Nat) (ss : List Sect) : List Sect :=
  ss.filter fun s => decide (s.typ = 1 ∨ s.node = node ∨ s.node = 0xFFFF)

/-- FORMAT over the sections: known types, no duplicate, JOB first, ranges, nothing missing. -/
def formatFail (node packages : Nat) (ss : List Sect) : Option ListFail :=
  let key (s : Sect) := (s.typ, s.node, s.die, s.tile, s.gear)
  let own := ownSects node ss
  match ss with
  | [] => some ⟨1, 0, 0, 0, 0, 0⟩
  | j :: _ =>
    if j.typ ≠ 1 then some (j.fail 1 0)
    else match firstSome (fun s : Sect =>
        if s.typ = 0 ∨ 9 < s.typ ∨ (ss.filter fun q => decide (key q = key s)).length ≠ 1 then some (s.fail 1 0) else none) ss with
      | some f => some f
      | none => match firstSome (fun s => (s.badField packages).map (s.fail 1)) own with
        | some f => some f
        | none =>
          let missing := firstSome (fun t : Nat => firstSome (fun e : Nat × Nat =>
            if (sectFor own e.1 t e.2).isSome then none else some (⟨1, 0, t / 48, t % 48, if e.2 < 3 then e.2 else 0, 0⟩ : ListFail))
            [(2, 0xFF), (3, 0xFF), (4, 0), (4, 1), (4, 2), (5, 0), (5, 1), (5, 2), (6, 0), (6, 1), (6, 2)]) (upFrom 0 384)
          let b := j.body
          let ends := [le b 0 2, le b 2 2].map fun i => ((jobEntries b packages)[i]?).map (·.node)
          if missing.isSome then missing
          else if ends.contains (some node) && !(own.any fun s => decide (s.typ = 9)) then some (j.fail 1 0) else none

/-- The nodes that a package's programs and maps name. -/
def Chip.namedNodes (c : Chip) : List (Nat × Nat × Nat × Nat) :=
  (upFrom 0 384).flatMap fun t => (upFrom 0 3).flatMap fun g =>
    (upFrom 0 (c.rd R.TILE_PROG_LEN_LEN (tileOff t + 4 * g))).filterMap fun i =>
      match decodeWord ((c.tile t).word g i) with
      | some (.send _ _ _ node _ tile _ _) => if tile = 0x3F ∨ node = c.node then none else some (t, g, i, node)
      | _ => none

/-- JOB (R189, R238, R570), on the candidate. -/
def Chip.jobFail (c : Chip) (j : Sect) (ss : List Sect) : Option ListFail :=
  let jobs := c.seq.jobs
  match indexOf (fun e : JobEntry => decide (e.node = c.node)) jobs with
  | none => some (j.fail 2 0)
  | some me =>
    let parent := ((jobs[me]?).map (·.parent)).getD 7
    let rec_ := firstBy (fun (a b : PathGroup) => decide (a.group < b.group)) (c.seq.paths.filter fun g => decide (g.port = parent))
    if jobs.length ≤ c.seq.headIx ∨ jobs.length ≤ c.seq.tailIx then some (j.fail 2 0)
    else if (parent = 7) ≠ (me = c.seq.headIx) then some (j.fail 2 me)
    else if parent ≠ 7 && !(match rec_ with
        | none => false
        | some g => decide (g.peer ≠ c.node) && jobs.any fun e => decide (e.node = g.peer)) then some (j.fail 2 me)
    else match c.namedNodes.find? fun n => (c.routeOf n.2.2.2).isNone with
      | some n => some (failAt ss 2 4 n.1 n.2.1 n.2.2.1)
      | none =>
        match ss.find? fun s => decide (s.typ = 7) with
        | none => none
        | some s => (indexOf (fun m : List Place => m.any fun p => decide (p.node ≠ c.node) && (c.routeOf p.node).isNone) c.experts).map (s.fail 2)

/-- LAYOUT against a pattern: the place of the first violation as type, tile, gear, index (R195, R116, R261, R360). -/
def Chip.layoutMiss (c : Chip) (p : Pattern) : Option (Nat × Nat × Nat × Nat) :=
  firstSome (fun t : Nat =>
    match (upFrom 0 128).find? fun b => decide (Tbl.get 3 p.groups (boardOf t b) ≠ Tbl.get 3 (c.tile t).used b) with
    | some b => some (3, t, 0xFF, b)
    | none => firstSome (fun g : Nat => firstSome (fun i : Nat =>
        let bad : Bool := match decodeWord ((c.tile t).word g i) with
          | some (.arr _ b span sM1 _ _ _ _ _ _ _) =>
            decide (copyRows p.dual < (span + sM1 + 1) * spanRows (Tbl.get 3 (c.tile t).used b))
          | some (.attn _ _ _ _ _ kvh layer _) => !(Tbl.get [] p.kv (t / 48)).contains (layer, kvh)
          | some (.send _ _ _ _ die 0x3F _ _) =>
            decide ((Tbl.get [] p.kv die).length ≤ Tbl.get 0 (c.tile t).sendTag (g * 16384 + i) % 2048)
          | _ => false
        if bad then some (4, t, g, i) else none)
      (upFrom 0 (c.rd R.TILE_PROG_LEN_LEN (tileOff t + 4 * g)))) (upFrom 0 3)) (upFrom 0 384)

/-- A program's instructions but its WAITs (R176). -/
def Chip.plainWords (c : Chip) (t g : Nat) : List Nat :=
  ((upFrom 0 (c.rd R.TILE_PROG_LEN_LEN (tileOff t + 4 * g))).map ((c.tile t).word g)).filter fun w => decide (bits w 63 60 ≠ 9)

/-- Positions of SEND and ROUTE. -/
def Chip.tagPlaces (c : Chip) (t g : Nat) : List Nat :=
  (upFrom 0 (c.rd R.TILE_PROG_LEN_LEN (tileOff t + 4 * g))).filter fun i => match decodeWord ((c.tile t).word g i) with
    | some (.send _ _ _ _ _ _ _ _) | some (.route _ _ _ _ _ _ _) => true
    | _ => false

/-- The indices a TAGS body lists. -/
def tagIndices (s : Sect) : List Nat := (recordsAt s.body 8 4 (le s.body 0 4)).map fun r => le r 0 2

/-- ENCODING beyond single instructions: COUNT, TAGS entries, variants (R195). -/
def Chip.encodingFail (c : Chip) (ss : List Sect) : Option ListFail :=
  firstSome (fun t : Nat => firstSome (fun g : Nat =>
    let tags := ((sectFor ss 5 t g).map tagIndices).getD []
    if 16384 < le (((sectFor ss 4 t g).map (·.body)).getD []) 0 4 then some (failAt ss 4 4 t g 16384)
    else if tags ≠ c.tagPlaces t g then
      some (failAt ss 4 5 t g ((indexOf (fun e : Nat × Nat => decide (e.1 ≠ e.2)) (tags.zip (c.tagPlaces t g))).getD
        (min tags.length (c.tagPlaces t g).length)))
    else if c.plainWords t g ≠ c.plainWords t 0 then
      some (failAt ss 4 4 t g ((indexOf (fun e : Nat × Nat => decide (e.1 ≠ e.2)) ((c.plainWords t g).zip (c.plainWords t 0))).getD
        (min (c.plainWords t g).length (c.plainWords t 0).length)))
    else none) (upFrom 0 3)) (upFrom 0 384)

/-- Slots (R142, R321). -/
def Chip.slotsFail (c : Chip) (ss : List Sect) : Option ListFail :=
  let me := indexOf (fun e : JobEntry => decide (e.node = c.node)) c.seq.jobs
  let service := decide (me = some c.seq.headIx) || decide (me = some c.seq.tailIx)
  firstSome (fun t : Nat =>
    let body := ((sectFor ss 2 t 0xFF).map (·.body)).getD []
    let base (k : Nat) := le body (8 * k) 4
    let bound (k : Nat) := le body (8 * k + 4) 4
    (indexOf (fun k : Nat =>
      decide (base k % 8 ≠ 0 ∨ bound k % 8 ≠ 0 ∨ 131072 < base k + bound k ∨ (k = 0 ∧ bound k = 0) ∨ (5 ≤ k ∧ bound k ≠ 0))
        || (upFrom 0 8).any (fun j => decide (j ≠ k ∧ base k < base j + bound j ∧ base j < base k + bound k))
        || (service && decide (k = 4 ∧ bound k < 46512))) (upFrom 0 8)).map (failAt ss 9 2 t 0xFF)) (upFrom 0 384)

/-- Peg sequences (R157): every participant of a scope holds the same identifiers, in every variant. -/
def pegFail (walks : Nat → Nat → Walk) (ss : List Sect) : Option ListFail :=
  let seqOf (t g s : Nat) := ((walks t g).pegs.filter fun p => decide (p.1 = s)).map (·.2)
  let first (t s : Nat) := ((participants s (pegRoot t s))[0]?).getD 0
  firstSome (fun t : Nat => firstSome (fun g : Nat => firstSome (fun s : Nat =>
    failUnless (decide (seqOf t g s = seqOf (first t s) 0 s)) (failAt ss 0xB 4 t g 0)) [1, 2, 3, 4]) (upFrom 0 3)) (upFrom 0 384)

/-- TIMING: header ranges, admission closes, KV_ALLOC per die (R126), the last two cases of R184. -/
def Chip.timingFail (c : Chip) (h : ListHead) (ss : List Sect) : Option ListFail :=
  let here : ListFail := ⟨0xC, 0, 0, 0, 0, 0⟩
  let step (l : Nat) : Bool := decide (64 ≤ l ∧ l ≤ 1048575)
  if !(decide (1 ≤ h.packages ∧ h.packages ≤ 4096 ∧ 2 ≤ h.gap ∧ h.gap ≤ 1024) && step h.timeout && h.len.all step) then some here
  else if (ss.any fun s => decide (s.typ = 9)) && !((c.serving.serve.close.zip h.len).all fun e => decide (e.1 < e.2)) then
    (ss.find? fun s => decide (s.typ = 9)).map (·.fail 0xC 0)
  else match (upFrom 0 8).find? fun d => decide (888 < ((upFrom (d * 48) 48).map fun t => c.rd R.TILE_MILL_CFG_KV_ALLOC (tileOff t)).foldl (· + ·) 0) with
    | some d => some (failAt ss 0xC 2 (d * 48) 0xFF 0)
    | none =>
      if 62500000 < (h.rotM1 + 1) * h.len.foldl max 0 then some here
      else firstSome (fun t : Nat =>
        let ws := (c.tile t).windows
        let pairs (g : Nat) := sortBy (fun a b : Nat × Nat => decide (a.1 < b.1 ∨ (a.1 = b.1 ∧ a.2 ≤ b.2)))
          (unique ((ws.filter fun w => decide (w.gear = g ∧ w.kind = 2 ∧ w.phase ≤ h.rotM1)).map fun w => (w.board, w.phase)))
        let boards := unique ((arrsOf (c.tile t) 0 (c.rd R.TILE_PROG_LEN_LEN (tileOff t)) 0 []).map (·.loc))
        firstSome (fun g : Nat =>
          if boards.any (fun b => !(pairs g).any fun p => decide (p.1 = b)) || decide (pairs g ≠ pairs 0) then some (failAt ss 0xC 6 t g 0)
          else none) (upFrom 0 3)) (upFrom 0 384)

/-- The checks from JOB on, in code order, on a candidate that holds the list. -/
def Chip.listFail (c : Chip) (h : ListHead) (ss : List Sect) : Option ListFail :=
  let retained (t : Nat) := ((sectFor ss 2 t 0xFF).map fun s => le s.body 64 4).getD 0
  let walks (t g : Nat) : Walk := c.walk ⟨t, g, nth 0 h.len g, retained t⟩
  let each (f : Nat → Nat → Option ListFail) : Option ListFail := firstSome (fun t => firstSome (f t) (upFrom 0 3)) (upFrom 0 384)
  let walked (code : Nat) : Option ListFail := each fun t g =>
    ((walks t g).fails.find? fun e => decide (e.1 = code)).map fun e => failAt ss code 4 t g e.2
  let windows : Option ListFail :=
    match each fun t g =>
      let ws := (c.tile t).windows.filter fun w => decide (w.gear = g)
      match windowFail ws (nth 0 h.len g) (walks t g).occ with
      | some i => some (failAt ss 7 6 t g i)
      | none => ((walks t g).occ.find? fun o => !occupiedOk ws g (h.rotM1 + 1) o).map fun o => failAt ss 7 4 t g o.index
    with
    | some f => some f
    | none => firstSome (fun d : Nat => firstSome (fun g : Nat =>
        if programCrowded ((upFrom (d * 48) 48).flatMap fun t => (c.tile t).windows.filter fun w => decide (w.gear = g)) then
          some (failAt ss 7 6 (d * 48) g 0) else none) (upFrom 0 3)) (upFrom 0 8)
  let job := match ss with
    | [] => none
    | j :: _ => c.jobFail j ss
  let layout : Option ListFail := match c.inForce with
    | none => none
    | some p => if p.layout ≠ h.layout then some ⟨3, 0, 0, 0, 0, 0⟩
      else (c.layoutMiss p).map fun m => failAt ss 3 m.1 m.2.1 m.2.2.1 m.2.2.2
  firstSome id [job, layout, (match walked 4 with
    | some f => some f
    | none => c.encodingFail ss), walked 5, walked 6, windows, walked 8, c.slotsFail ss, walked 0xA, pegFail walks ss,
    c.timingFail h ss]

/-- The header is that of R187 and its lengths agree with the bytes; `whole` bytes carry the CRC. -/
def headerOk (b : List Nat) : Bool :=
  decide (64 ≤ b.length ∧ b.take 4 = [0x43, 0x55, 0x54, 0x4C] ∧ le b 4 2 = 1 ∧ le b 6 2 = 64 ∧ le b 40 4 = b.length)

/-! ## Acceptance (R195, R225, R240) -/

/-- The OWN groups of the list take effect; those of the earlier list become FREE. -/
def defineOwnGroups (job : Nat) : CM Unit := do
  forM_ (upFrom 0 24) fun g => do
    let c ← get
    whenM (decide (c.grpOwner g = ownerOwn)) (freeGroup g)
  let c ← get
  forM_ c.seq.paths fun p => do
    let g := p.port * 4 + p.group
    let c ← get
    if (p.span.any fun k => decide (c.grpOwner (p.port * 4 + k) = ownerTransit)) then pure ()
    else defineGroup g ⟨ownerOwn, job, decide (p.lanes = 8), p.enc, p.latMax, p.w1, p.w2, p.w3⟩

/-! ## The timing tree (R189, R570) -/

/-- A package's entry of the JOB section. -/
def Chip.myEntry (c : Chip) : Option JobEntry := c.seq.jobs.find? fun e => decide (e.node = c.node)

/-- The lowest-numbered group record of a port (R570). -/
def Chip.portPath (c : Chip) (p : Nat) : Option PathGroup :=
  firstBy (fun (a b : PathGroup) => decide (a.group < b.group)) (c.seq.paths.filter fun g => decide (g.port = p))

/-- The package's parent in the timing tree, with the port toward it. -/
def Chip.parentHop (c : Chip) : Option (Nat × Nat) :=
  match c.myEntry with
  | none => none
  | some e => (c.portPath e.parent).map fun g => (e.parent, g.peer)

/-- Ports in pairs: XP and XN, YP and YN, ZP and ZN (R189). -/
def oppositePort (p : Nat) : Nat := if p % 2 = 0 then p + 1 else p - 1

/-- The package's children: port and node (R570). -/
def Chip.children (c : Chip) : List (Nat × Nat) :=
  (upFrom 0 6).flatMap fun p => (c.seq.jobs.filter fun e => decide (e.parent = oppositePort p)
    && c.seq.paths.any fun g => decide (g.port = p ∧ g.peer = e.node)).map fun e => (p, e.node)

/-- What the cutting list says of a port's hop: across racks, within one, or nothing (R189). -/
def Chip.hopCross (c : Chip) (p : Nat) : Option Bool :=
  match c.myEntry with
  | some e =>
    if e.parent = p then some e.cross
    else match c.children.find? fun x => decide (x.1 = p) with
      | none => none
      | some x => (c.seq.jobs.find? fun j => decide (j.node = x.2)).map (·.cross)
  | none => none

/-- The list is in force; no timing sample of its job has come yet (R166). -/
def acceptList (h : ListHead) (ss : List Sect) : CM Unit := do
  applyList h ss
  defineOwnGroups h.job
  let c ← get
  let me := indexOf (fun e : JobEntry => decide (e.node = c.node)) c.seq.jobs
  wrM R.SEQ_STATE_HEAD 0 (b2n (decide (me = some c.seq.headIx)))
  wrM R.SEQ_STATE_TAIL 0 (b2n (decide (me = some c.seq.tailIx)))
  wrM R.SEQ_STATE_STATE 0 seqAccepted
  forM_ (upFrom 0 384) fun t => whenM (decide (c.tileState t ≠ tileShelved)) (wrM R.TILE_STATE_STATE (tileOff t) tileReady)
  forM_ (upFrom 0 6) fun p => wrM R.TIMEBASE_LINK_OFFSET_CROSS (4 * p)
    (b2n (decide (c.hopCross p = some true)))
  forM_ (upFrom 0 6) fun p => do
    wrM R.TIMEBASE_LINK_OFFSET_VALID (4 * p) 0
    wrM R.TIMEBASE_LINK_OFFSET_OFFSET (4 * p) 0
  wrM R.TIMEBASE_THETA_VALID 0 0
  wrM R.TIMEBASE_THETA_THETA 0 0
  modify fun c => { c with seq := { c.seq with offsets := [] } }

/-- A cutting list is checked and accepted or refused (R195): the result code.  `whole` says that the bytes are all of
the container, so that its CRC can be computed. -/
def loadList (b : List Nat) (whole : Bool) : CM Nat := do
  let c ← get
  let h := listHead b
  let fail : Option ListFail :=
    if c.jobRuns then some ⟨0xD, 0, 0, 0, 0, 0⟩
    else if !headerOk b || (whole && decide (containerCrc b 44 ≠ le b 44 4)) then some ⟨1, 0, 0, 0, 0, 0⟩
    else match sectsOf (le b 36 4) 0 (b.drop 64) with
      | none => some ⟨1, 0, 0, 0, 0, 0⟩
      | some ss => match formatFail c.node h.packages ss with
        | some f => some f
        | none => (((applyList h (ownSects c.node ss)).run c).2).listFail h (ownSects c.node ss)
  let f := fail.getD ⟨0, 0, 0, 0, 0, 0⟩
  wrM R.SEQ_LOAD_STATUS_VALID 0 1
  wrM R.SEQ_LOAD_STATUS_CODE 0 f.code
  wrM R.SEQ_LOAD_STATUS_GEAR 0 f.gear
  wrM R.SEQ_LOAD_STATUS_DIE 0 f.die
  wrM R.SEQ_LOAD_STATUS_TILE 0 f.tile
  wrM R.SEQ_LOAD_DETAIL_SECTION 0 f.sect
  wrM R.SEQ_LOAD_DETAIL_INDEX 0 f.index
  whenM fail.isNone (acceptList h (((sectsOf (le b 36 4) 0 (b.drop 64)).map (ownSects c.node)).getD []))
  pure f.code

end Sys2Proof.Machine
end

