-- ==== Sys2Proof/Machine/Welt.lean ====
section
/-! DEFINITION. The welt table as the loader and the scrub fill it: stuck corrections (R86, R87), ranking (R89, R93, R94),
staged rankings (R96), and the stuck map (R361). -/
namespace Sys2Proof.Machine

/-! ## Intended and actual codes (R58, R59, R61, R87) -/

/-- The two cell codes that a weight code intends, as 8 · positive + negative (R59). -/
def intendedCodes (f : NFmt) (w : Nat) : Nat :=
  let z := elemInt f w
  let m := match f with
    | .fp4 => w % 8
    | _ => z.natAbs
  if 0 < z then 8 * m else if z < 0 then m else 0

/-- The intended codes of a pair of a board. -/
def Chip.wantCodes (c : Chip) (b row col : Nat) : Nat :=
  intendedCodes (c.rowFmt b row) (Tbl.get 0 (c.board b).codes (row * 512 + col))

/-- The stuck entry of a pair that reads given codes (R87). -/
def Chip.stuckEntry (c : Chip) (b row col reads : Nat) : WeltEntry :=
  let f := c.rowFmt b row
  let s := c.weightScale b row col
  { stuck := true, board := localOf b, row := row, column := col
    scale := if f = .fp4 then s - 1 else s
    residual := elemInt f (Tbl.get 0 (c.board b).codes (row * 512 + col)) - pairLevel f reads }

def setCells (b row col reads : Nat) : CM Unit := modify fun c =>
  { c with cells := Tbl.put [] c.cells b (Tbl.put 0 (Tbl.get [] c.cells b) (row * 512 + col) reads) }

/-! ## Order and ranking (R85, R89, R93) -/

def WeltEntry.place (e : WeltEntry) : Nat := e.board * 524288 + e.row * 512 + e.column

/-- The order of the table: board, row, column, a stuck entry before an outlier (R85). -/
def tableLe (a b : WeltEntry) : Bool := decide (a.place < b.place ∨ (a.place = b.place ∧ (a.stuck = true ∨ b.stuck = false)))

/-- The order of ranking: the larger magnitude first; ties to a stuck entry, then to the lower place (R93). -/
def rankLe (a b : WeltEntry) : Bool :=
  decide (b.size < a.size ∨ (a.size = b.size ∧ ((a.stuck = true ∧ b.stuck = false) ∨ (a.stuck = b.stuck ∧ a.place ≤ b.place))))

/-- The row group of an entry, numbered within the tile. -/
def WeltEntry.group (rows : Nat → Nat) (e : WeltEntry) : Nat := e.board * 1024 + e.row / rows e.board

/-- At most 32 stuck entries of a row group are kept of a list in ranking order (R89): kept, and excluded. -/
def limitGroups (rows : Nat → Nat) : List WeltEntry → Map Nat → List WeltEntry × List WeltEntry
  | [], _ => ([], [])
  | e :: t, m =>
    let g := e.group rows
    let n := Tbl.get 0 m g
    if e.stuck && decide (32 ≤ n) then
      let r := limitGroups rows t m
      (r.1, e :: r.2)
    else
      let r := limitGroups rows t (if e.stuck then Tbl.insert g (n + 1) m else m)
      (e :: r.1, r.2)

/-- A ranking: the table, what the row-group limit excludes, what the table's size excludes. -/
structure Ranking where
  held  : List WeltEntry
  group : List WeltEntry
  size  : List WeltEntry
  deriving DecidableEq, Repr

def rank (rows : Nat → Nat) (cs : List WeltEntry) : Ranking :=
  let r := limitGroups rows (sortBy rankLe cs) []
  ⟨sortBy tableLe (r.1.take 4096), r.2, r.1.drop 4096⟩

def Ranking.out (r : Ranking) : List WeltEntry := r.group ++ r.size

/-- Rows of a group of a tile's board. -/
def Chip.rowsOf (c : Chip) (t loc : Nat) : Nat := groupRows (c.rd R.ARRAY_CFG_ROWGROUP (boardOff (boardOf t loc)))

/-! ## The stuck map (R361) -/

/-- A record of the stuck map: kind 0 stuck and held, 1 stuck and waived, 2 outlier dropped. -/
def Chip.stuckRecord (c : Chip) (t kind : Nat) (e : WeltEntry) : Nat :=
  let b := boardOf t e.board
  2 ^ 63 + kind * 2 ^ 61 + e.board % 128 * 2 ^ 54 + e.row % 1024 * 2 ^ 44 + e.column % 512 * 2 ^ 35
    + (if kind = 2 then e.scale % 256 * 2 ^ 8 + trunc 8 e.residual
       else c.pairCodes b e.row e.column * 2 ^ 26 + c.wantCodes b e.row e.column * 2 ^ 20)

/-- Add a record; beyond 65,536 only the total counts. -/
def addStuckRecord (t kind : Nat) (e : WeltEntry) : CM Unit := modify fun c =>
  let l := Tbl.get [] c.stuckMap t
  { c with
    stuckMap := if l.length < 65536 then Tbl.insert t (l ++ [c.stuckRecord t kind e]) c.stuckMap else c.stuckMap
    stuckFound := Tbl.modify 0 c.stuckFound t (· + 1) }

/-! ## What a ranking leaves out (R94) -/

/-- The counters of R94 and R89 for the corrections a ranking leaves out, and their records in the stuck map. -/
def countOut (t : Nat) (r : Ranking) : CM Unit := do
  bumpM R.WELT_SHORTFALL_COUNT (tileOff t) r.out.length
  bumpM R.WELT_GROUP_FULL_COUNT (tileOff t) r.group.length
  forM_ r.out fun e => addStuckRecord t (if e.stuck then 1 else 2) e

/-- Waived pairs and dropped outliers of a ranking. -/
def Ranking.waived (r : Ranking) : List Nat := (r.out.filter (·.stuck)).map (·.place)
def Ranking.dropped (r : Ranking) : Nat := (r.out.filter (!·.stuck)).length

/-- A ranking takes the place of the table in use. -/
def putTable (t : Nat) (r : Ranking) : CM Unit := do
  onTileM t fun x => { x with
    welt := r.held
    waived := (x.waived.filter fun p => !(r.held.any fun e => e.stuck && decide (e.place = p)) && !r.waived.contains p) ++ r.waived
    droppedOutliers := x.droppedOutliers + r.dropped }
  whenM (!r.out.isEmpty) do
    wrM R.WELT_STATUS_DEGRADED (tileOff t) 1
    wrM R.LOAD_STATE_DEGRADED 0 1

/-- The staged ranking of a tile is committed at a step boundary (R96). -/
def commitStaged : CM Unit := do
  let c ← get
  forM_ (c.tiles.filter fun e => e.2.weltStaged.isSome) fun e => do
    match e.2.weltStaged with
    | none => pure ()
    | some cs => do
      let c ← get
      putTable e.1 (rank (c.rowsOf e.1) cs)
      onTileM e.1 fun x => { x with weltStaged := none }

/-! ## Findings of the read-back scrub (R381) -/

/-- The stuck entry of a place. -/
def Tile.stuckAt (x : Tile) (place : Nat) : Option WeltEntry := x.welt.find? fun e => e.stuck && decide (e.place = place)

/-- ARRAY_STUCK of a row's copy changes by a pair more or less. -/
def countStuck (b row : Nat) (more : Bool) : CM Unit := do
  let c ← get
  let o := boardOff b
  let f := if c.flag R.ARRAY_CFG_DUAL o && decide (512 ≤ row) then R.ARRAY_STUCK_STUCK_U else R.ARRAY_STUCK_STUCK_L
  wrM f o (if more then f.count (c.rd f o) 1 else c.rd f o - 1)

/-- One finding of a board takes effect; true where a new correction has no entry (R96, R381). -/
def applyFinding (b : Nat) (f : Finding) : CM Bool := do
  let c0 ← get
  let t := tileOfBoard b
  let before := c0.pairCodes b f.row f.col
  let waived := c0.isWaived b f.row f.col
  setCells b f.row f.col f.reads
  let c ← get
  let e := c.stuckEntry b f.row f.col f.reads
  let x := c.tile t
  let acted := bumpM R.TRUE_SCRUB_FOUND_COUNT (boardOff b)
  match x.stuckAt e.place with
  | some old =>
    if f.reads = c.wantCodes b f.row f.col then do
      onTileM t fun x => { x with welt := x.welt.filter fun q => !decide (q = old) }
      countStuck b f.row false
      acted
      pure false
    else if old.residual = e.residual then pure false
    else do
      onTileM t fun x => { x with welt := amend (fun q => decide (q = old)) (fun q => { q with residual := e.residual }) x.welt }
      addStuckRecord t 0 e
      acted
      pure false
  | none =>
    if f.reads = c.wantCodes b f.row f.col ∨ (waived = true ∧ before = f.reads) then pure false
    else do
      acted
      whenM (!waived) (countStuck b f.row true)
      let stuckIn := (x.welt.filter fun q => q.stuck && decide (q.group (c.rowsOf t) = e.group (c.rowsOf t))).length
      if x.welt.length < 4096 ∧ stuckIn < 32 ∧ x.weltStaged.isNone then do
        onTileM t fun x => { x with welt := insertBy tableLe e x.welt, waived := x.waived.filter (· != e.place) }
        addStuckRecord t 0 e
        pure false
      else do
        let cs := (x.weltStaged.getD x.welt) ++ [e]
        let r := rank (c.rowsOf t) cs
        let was := rank (c.rowsOf t) (x.weltStaged.getD x.welt)
        let new := fun (l : List WeltEntry) => l.filter fun q => !was.out.contains q
        countOut t ⟨r.held, new r.group, new r.size⟩
        whenM (r.held.contains e) (addStuckRecord t 0 e)
        onTileM t fun x => { x with weltStaged := some cs }
        pure true

/-- The findings of a window; true where some correction has no entry. -/
def applyFindings (b : Nat) (fs : List Finding) : CM Bool :=
  foldM_ false fs fun full f => do
    let r ← applyFinding b f
    pure (full || r)

end Sys2Proof.Machine
end

