-- ==== Sys2Proof/Machine/Truing.lean ====
section
/-! DEFINITION. Truing (chapter 14): trims and images (R373, R374, R387), what passing, failing, cutting and abandoning a
truing do (R375 to R380, R385, R415), the read-back scrub (R381), drift (R382), the truing interval (R384). -/
namespace Sys2Proof.Machine

/-! ## Trims and images -/

def setTaps (b : Nat) (ts : List Nat) : CM Unit := modify fun c =>
  { c with taps := Tbl.put zeroTaps c.taps b ((ts ++ zeroTaps).take 496 |>.map (· % 256)) }

/-- The DRIFT taps as the words of TRUE_DRIFT. -/
def Chip.driftWords (c : Chip) (b : Nat) : List Nat := (upFrom 0 64).map fun w => c.rd R.TRUE_DRIFT_TAPS (boardOff b + 4 * w)
def setDrift (b : Nat) (ws : List Nat) : CM Unit := forM_ (upFrom 0 64) fun w => wrM R.TRUE_DRIFT_TAPS (boardOff b + 4 * w) (nth 0 ws w)

/-- The DRIFT tap of a column. -/
def Chip.driftTap (c : Chip) (b col : Nat) : Int := sext 4 (c.rd R.TRUE_DRIFT_TAPS (boardOff b + col / 8 * 4) / 16 ^ (col % 8))
def setDriftTap (b col : Nat) (t : Int) : CM Unit := do
  let w ← rdM R.TRUE_DRIFT_TAPS (boardOff b + col / 8 * 4)
  let k := 16 ^ (col % 8)
  wrM R.TRUE_DRIFT_TAPS (boardOff b + col / 8 * 4) (w - w / k % 16 * k + trunc 4 t * k)

/-- A die's temperature in whole °C over −64: the largest settled result of TD0 to TD3 (R383). -/
def Chip.dieTempRaw (c : Chip) (d : Nat) : Nat :=
  ((upFrom 10 4).map fun n => if c.flag R.MON_LAST_SETTLED (dieOff d + 4 * n) then c.rd R.MON_LAST_VALUE (dieOff d + 4 * n) else 0).foldl max 0 / 256

/-- TRUE_IMAGE_LATCH: a read of TRUE_IMAGE_0 latches the whole image (R387). -/
def latchImage (b : Nat) : CM Unit := modify fun c => { c with imageLatch := Tbl.insert b (c.imageBytes b) c.imageLatch }

/-- TRUE_IMAGE_WRITE: a write of an image word (R387). -/
def writeImage (src b word v : Nat) : CM Unit := do
  let c ← get
  let st := c.arrState b
  if word < 4 then pure ()
  else if st = arrEmpty ∨ st = arrShelved ∨ st = arrHeld then do
    let ts := c.tapsOf b
    let at_ := 4 * word - 16
    setTaps b (ts.take at_ ++ leBytes 4 v ++ ts.drop (at_ + 4))
    wrM R.TRUE_BOARD_STATE_RESTORED (boardOff b) 1
  else clampEvent src 0 (R.TRUE_IMAGE_BYTES.addr + boardOff b + 4 * word)

/-! ## A truing's course -/

def truingFull : Nat := 1
def truingTrack : Nat := 2
def truingVerify : Nat := 3

/-- The copy in use holds an accepted, verified pattern (R80). -/
def Chip.copyValid (c : Chip) (b : Nat) : Bool :=
  c.flag (if c.flag R.ARRAY_CFG_ACTIVE (boardOff b) then R.ARRAY_CFG_VALID_U else R.ARRAY_CFG_VALID_L) (boardOff b)

/-- Start a truing of a board. -/
def startTruing (b kind : Nat) (free : Bool) : CM Unit := do
  let c ← get
  let x : Truing := { kind := kind, free := free, before := c.arrState b, taps := c.tapsOf b, drift := c.driftWords b,
                      result := none, found := [] }
  modify fun c => { c with truings := Tbl.insert b x c.truings }
  setBoardState b arrTruing

def dropTruing (b : Nat) : CM Unit := modify fun c => { c with truings := Tbl.erase b c.truings }

/-- The TRUING record (R450, R454). -/
def truingRecord (b : Nat) : CM Unit := do
  let c ← get
  takeRecord (b / 6144) 11 (leBytes 2 (b % 6144) ++ [0, 0] ++ leBytes 4 (c.peek (R.TRUE_BOARD_STATE_DUE.addr + boardOff b)))

/-- A shelving that is no detected error is counted and reported (R400). -/
def shelfReport (b cause : Nat) : CM Unit := do
  bumpM R.FAULT_CAUSE_COUNT (4 * cause)
  let c ← get
  report ⟨0x10, 0, cause, unitWord (b / 6144) (b % 6144), if c.stepping then c.stepNow else 0, c.replayNow + c.cover 0 (b / 6144) (b % 6144) * 256⟩

def lastTruing (b kind result : Nat) : CM Unit := do
  wrM R.TRUE_BOARD_STATE_LAST_KIND (boardOff b) kind
  wrM R.TRUE_BOARD_STATE_LAST_RESULT (boardOff b) result

/-- The loader learns that a board of its load has passed (R358). -/
def markTrued (b : Nat) : CM Unit := modify fun c =>
  let mark (l : LoadObj) : LoadObj := match Tbl.find? l.boards b with
    | some k => if k.rows ≤ k.next then { l with boards := Tbl.insert b { k with trued := true } l.boards } else l
    | none => l
  { c with loads := amend (fun l => decide (l.kind = 1)) mark c.loads }

/-- A passed truing takes effect (R380, R385, R387). -/
def passTruing (b : Nat) (tr : Truing) (ts : List Nat) : CM Unit := do
  let c ← get
  let o := boardOff b
  whenM (decide (tr.kind ≠ truingVerify)) (setTaps b ts)
  setDrift b []
  bumpM R.ARRAY_CAL_COUNT_COUNT o
  wrM R.ARRAY_CAL_BEAT_BEAT o (c.rd R.TIMEBASE_BEAT_BEAT)
  wrM R.ARRAY_CAL_SECONDS_SECONDS o (c.rd R.PKG_OPSEC_SECONDS)
  modify fun c => { c with calTemp := Tbl.insert b ((c.dieTempRaw (b / 6144) + 192) % 256) c.calTemp }
  wrM R.TRUE_BOARD_STATE_DUE o 0
  wrM R.TRUE_BOARD_STATE_OVERDUE o 0
  wrM R.TRUE_BOARD_STATE_DRIFT_SAT o 0
  wrM R.TRUE_BOARD_STATE_RESTORED o 0
  lastTruing b tr.kind 1
  bumpM R.TRUE_RUNS_COUNT (dieOff (b / 6144))
  modify fun c => { (c.onBoard b fun x => { x with trued := true }) with shelvedWith := c.shelvedWith.filter (· != b) }
  markTrued b
  dropTruing b
  whenM (decide (tr.before = arrShelved)) do
    let c ← get
    report ⟨0x11, 0, 0, unitWord (b / 6144) (b % 6144), if c.stepping then c.stepNow else 0, c.replayNow⟩
  let c ← get
  setBoardState b (if c.copyValid b then arrReady else arrEmpty)

/-- A failed truing (R80, R380): cause 1 VERIFY, 2 TRIM_END, 3 WELT_FULL. -/
def failTruing (b : Nat) (tr : Truing) (cause : Nat) : CM Unit := do
  let d := b / 6144
  bumpM R.TRUE_FAILS_COUNT (dieOff d)
  lastTruing b tr.kind 2
  wrM R.TRUE_BOARD_STATE_FAIL_CAUSE (boardOff b) cause
  setTaps b tr.taps
  setDrift b tr.drift
  let c ← get
  whenM (decide (tr.kind = truingVerify)) (bumpM R.TRUE_RESTORE_FAIL_COUNT (dieOff d))
  if tr.kind = truingVerify ∧ c.jobRuns = false then
    modify fun c => { c with truings := Tbl.insert b { tr with kind := truingFull, result := none, found := [] } c.truings }
  else do
    let alone := !(c.shelvedWith.contains b)
    shelveBoard b 0x04 true alone
    shelfReport b 0x04

/-- A truing that the end of its window cuts (R379). -/
def cutTruing (b : Nat) (tr : Truing) : CM Unit := do
  setTaps b tr.taps
  setDrift b tr.drift
  bumpM R.TRUE_CUT_COUNT (dieOff (b / 6144))
  lastTruing b tr.kind 3
  wrM R.TRUE_BOARD_STATE_DUE (boardOff b) 1
  dropTruing b
  setBoardState b tr.before
  truingRecord b

/-- A truing is abandoned: trims and state as they were (R385). -/
def abandonTruing (b : Nat) (tr : Truing) : CM Unit := do
  setTaps b tr.taps
  setDrift b tr.drift
  dropTruing b
  setBoardState b tr.before

/-- Every truing in progress is abandoned (R385). -/
def abandonTruings : CM Unit := do
  let c ← get
  forM_ c.truings fun e => abandonTruing e.1 e.2

/-- The truing's outcome takes effect: its result, or WELT_FULL where a correction found has no entry (R375, R568). -/
def settleTruing (b : Nat) (tr : Truing) (full : Bool) : CM Unit :=
  match tr.result with
  | none => cutTruing b tr
  | some (0, ts) => if full then failTruing b tr 3 else passTruing b tr ts
  | some (cause, _) => failTruing b tr cause

/-- Truings that a run held in TRUING end at the start of the next run or step (R415). -/
def finishHeld : CM Unit := do
  let c ← get
  forM_ c.truings fun e => if e.2.free ∧ e.2.result.isSome = true then settleTruing e.1 e.2 false else pure ()

/-- What a truing's search and verification have come to (R568). -/
def truingResult (kind : Nat) (search verify : Bool) (ts : List Nat) : Nat × List Nat :=
  if kind ≠ truingVerify ∧ search = false then (2, ts) else if verify then (0, ts) else (1, ts)

/-! ## Which board is trued next (R385, R415) -/

/-- The gap before a replay's START, in which truing works as with no job (R415). -/
def Chip.inGap (c : Chip) : Bool := c.replayAt.isSome

/-- A board's tile is in service. -/
def Chip.tileIn (c : Chip) (b : Nat) : Bool :=
  !(c.out 1 (tileOfBoard b) || c.out 2 (halfOfTile (tileOfBoard b)) || c.out 3 (b / 6144))

/-- A pattern load waits for a truing of a board: all its rows are programmed or skipped. -/
def Chip.confirming (c : Chip) (b : Nat) : Bool := c.loads.any fun l => decide (l.kind = 1) && (match Tbl.find? l.boards b with
  | some k => decide (k.rows ≤ k.next) && !k.trued && !k.done
  | none => false)

/-- The next board of a tile for the truing unit, with the kind of its truing. -/
def Chip.nextTruing (c : Chip) (t : Nat) : Option (Nat × Nat) :=
  let bs := (upFrom (boardOf t 0) 128).filter fun b => (Tbl.find? c.truings b).isNone && c.tileIn b
  let shelved := bs.find? fun b => decide (c.arrState b = arrShelved) && (!c.inGap || c.shelvedWith.contains b)
  match shelved with
  | some b => some (b, if c.inGap then truingVerify else truingFull)
  | none =>
    if c.inGap then none
    else match bs.find? fun b => decide (c.arrState b = arrEmpty) && c.confirming b with
      | some b => some (b, if c.flag R.TRUE_BOARD_STATE_RESTORED (boardOff b) then truingVerify else truingFull)
      | none => match bs.find? fun b => decide (c.arrState b = arrReady) && c.flag R.TRUE_BOARD_STATE_DUE (boardOff b) with
        | some b => some (b, truingTrack)
        | none => (firstBy (fun x y => decide (c.rd R.ARRAY_CAL_BEAT_BEAT (boardOff x) < c.rd R.ARRAY_CAL_BEAT_BEAT (boardOff y)))
            (bs.filter fun b => decide (c.arrState b = arrReady))).map fun b => (b, truingTrack)

/-- FREE_TRUING_START (R385): at most 4 boards of a tile at once. -/
def doFreeTruingStart (t : Nat) : CM Unit := do
  let c ← get
  let active := (c.truings.filter fun e => decide (tileOfBoard e.1 = t)).length
  if (c.jobRuns && !c.inGap) || decide (4 ≤ active) then pure ()
  else match c.nextTruing t with
    | none => pure ()
    | some (b, kind) => startTruing b kind true

/-! ## Windows in service (R377) -/

/-- A window of a kind of the current gear and phase applies to a board in the current step. -/
def Chip.windowNow (c : Chip) (b kind : Nat) : Option Win :=
  (c.tile (tileOfBoard b)).windows.find? fun w => decide (w.board = localOf b ∧ w.kind = kind ∧ w.gear = c.rd R.SEQ_STATE_GEAR)
    && (w.every || decide (w.phase = c.rd R.SEQ_ROTATION_PHASE))

/-- TRUING_WINDOW_START: a TRACK truing begins; deferred starts are counted (R185, R377, R415). -/
def doTruingWindowStart (b : Nat) (deferred : Bool) : CM Unit := do
  let c ← get
  let st := c.arrState b
  let may := decide (st = arrReady) || (decide (st = arrShelved) && !c.shelvedWith.contains b)
    || (decide (st = arrEmpty) && (c.confirming b || !(c.board b).trued))
  if c.stepping && !c.inGap && (c.windowNow b 2).isSome && c.tileIn b && may then do
    whenM deferred (bumpM R.SEQ_DEFER_COUNT)
    startTruing b truingTrack false
  else pure ()

/-! ## The read-back scrub (R381) -/

/-- WEL SCRUB: the pairs of one row group are read back; `found` are those that read otherwise than before. -/
def doScrub (found : List Finding) (t : Nat) : CM Unit :=
  issue t fun i =>
    match i with
    | .scrub loc g up => some fun _ => do
      let c ← get
      let b := boardOf t loc
      let n := groupRows (c.rd R.ARRAY_CFG_ROWGROUP (boardOff b))
      let row0 := copyBase up + g * n
      match Tbl.find? c.truings b with
      | none => pure ()
      | some tr =>
        if c.arrState b = arrTruing then
          let mine := found.filter fun f => decide (row0 ≤ f.row ∧ f.row < row0 + n ∧ f.col < 512 ∧ f.reads < 64)
          modify fun c => { c with truings := Tbl.insert b { tr with found := tr.found ++ mine } c.truings }
        else pure ()
    | _ => none

/-! ## Drift and the interval (R382, R384) -/

/-- One column's DRIFT tap moves by one, or saturates. -/
def moveDrift (b col : Nat) (up : Bool) : CM Unit := do
  let c ← get
  let v := c.driftTap b col + (if up then 1 else -1)
  if v < -8 ∨ 7 < v then do
    bumpM R.TRUE_DRIFT_SAT_COUNT (dieOff (b / 6144))
    wrM R.TRUE_BOARD_STATE_DRIFT_SAT (boardOff b) 1
    wrM R.TRUE_BOARD_STATE_DUE (boardOff b) 1
    truingRecord b
  else do
    setDriftTap b col v
    bumpM R.TRUE_BOARD_DRIFTS_COUNT (boardOff b)

/-- The DRIFT adjustments of a commit; one whose board passed a truing in the step is discarded (R382, R388). -/
def adjustDrift : CM Unit := do
  let c ← get
  forM_ (c.tiles.filter fun e => !e.2.driftMarks.isEmpty) fun e => do
    forM_ e.2.driftMarks fun k =>
      let b := boardOf e.1 k.loc
      if c.runStart ≤ c.rd R.ARRAY_CAL_BEAT_BEAT (boardOff b) ∧ c.rd R.TRUE_BOARD_STATE_LAST_RESULT (boardOff b) = 1 then pure ()
      else forM_ (upFrom 0 512) fun j =>
        match k.plus.contains j, k.minus.contains j with
        | true, false => moveDrift b j false
        | false, true => moveDrift b j true
        | _, _ => pure ()
    onTileM e.1 fun x => { x with driftMarks := [] }

/-- Beats of the truing interval (R384). -/
def truingInterval : Nat := 93750000

/-- TRUING_OVERDUE: a READY board whose interval has run out is shelved at a step start (R384). -/
def doTruingOverdue (b : Nat) : CM Unit := do
  let c ← get
  if c.stepping && decide (c.arrState b = arrReady ∧ c.rd R.ARRAY_CAL_BEAT_BEAT (boardOff b) + truingInterval ≤ c.rd R.TIMEBASE_BEAT_BEAT) then do
    shelveBoard b 0x05 false true
    bumpM R.TRUE_OVERDUE_COUNT (dieOff (b / 6144))
    wrM R.TRUE_BOARD_STATE_OVERDUE (boardOff b) 1
    shelfReport b 0x05
    truingRecord b
  else pure ()

/-- Boards of a die that a change of its temperature makes DUE (R383). -/
def tempDue (d : Nat) : CM Unit := do
  let c ← get
  let now : Int := c.dieTempRaw d - 64
  forM_ (c.boards.filter fun e => decide (e.1 / 6144 = d) && e.2.trued) fun e =>
    whenM (decide (c.rd R.TRUE_CFG_TEMP_DUE (dieOff d) < (now - sext 8 (Tbl.get 0 c.calTemp e.1)).natAbs))
      (wrM R.TRUE_BOARD_STATE_DUE (boardOff e.1) 1)

end Sys2Proof.Machine
end

