-- ==== Sys2Proof/Machine/Loading.lean ====
section
/-! DEFINITION. Patterns and loads (chapter 13): shards and objects (R346 to R351), sections as they are placed (R339 to
R345, R354, R360), programming (R355 to R359, R363, R364), insole images (R103 to R105, R345), what brings a generation
into force (R367 to R369). -/
namespace Sys2Proof.Machine

/-! ## Bytes held -/

/-- Pieces of a container with those that touch joined. -/
def joinPieces : Map (List Nat) → Map (List Nat)
  | [] => []
  | (o, b) :: t =>
    match joinPieces t with
    | [] => [(o, b)]
    | (p, d) :: r => if p ≤ o + b.length then (o, b ++ d.drop (o + b.length - p)) :: r else (o, b) :: (p, d) :: r

/-- Bytes at an offset, where all are held. -/
def bytesAt (ps : Map (List Nat)) (off n : Nat) : Option (List Nat) :=
  match ps.find? fun e => decide (e.1 ≤ off ∧ off + n ≤ e.1 + e.2.length) with
  | none => none
  | some e => some ((e.2.drop (off - e.1)).take n)

/-- A section of a pattern, or a record of an insole image: where its header stands, the header, its body's length. -/
structure Part where
  pos  : Nat
  head : List Nat
  len  : Nat
  deriving DecidableEq, Repr

/-- The parts that are held from a position on: after bytes that were not sent, the next held byte begins a part. -/
def partsFrom (ps : Map (List Nat)) (lenAt : Nat) : Nat → Nat → List Part
  | 0, _ => []
  | n + 1, pos =>
    match bytesAt ps pos 16 with
    | some h => ⟨pos, h, le h lenAt 4⟩ :: partsFrom ps lenAt n (pos + 16 + le h lenAt 4)
    | none => match ps.find? fun e => decide (pos < e.1) with
      | none => []
      | some e => partsFrom ps lenAt n e.1

def LoadObj.joined (l : LoadObj) : Map (List Nat) := joinPieces l.pieces

/-- The parts of an object that are held. -/
def LoadObj.parts (l : LoadObj) : List Part :=
  let ps := l.joined
  if l.kind = 1 then partsFrom ps 8 (l.pieces.length + le ((bytesAt ps 32 4).getD []) 0 4) 64
  else partsFrom ps 8 (l.pieces.length + le ((bytesAt ps 12 4).getD []) 0 4) 32

def LoadObj.body (l : LoadObj) (p : Part) : Option (List Nat) := bytesAt l.joined (p.pos + 16) p.len

def noPattern : Pattern := ⟨0, 0, false, [], [], [], [], []⟩

/-! ## Objects and what the registers show of them -/

def Chip.loadOf (c : Chip) (kind object : Nat) : Option LoadObj := c.loads.find? fun l => decide (l.kind = kind ∧ l.object = object)
def Chip.patternLoad (c : Chip) : Option LoadObj := c.loads.find? fun l => decide (l.kind = 1)
def sameObj (a : LoadObj) (l : LoadObj) : Bool := decide (l.kind = a.kind ∧ l.object = a.object)

/-- The lowest missing INDEX. -/
def LoadObj.missing (l : LoadObj) : Option Nat := (upFrom 0 l.count).find? fun i => !l.got.contains i

/-- Keep the LOAD registers at what the objects are. -/
def showLoads : CM Unit := do
  let c ← get
  let ins := c.loads.filter fun l => decide (l.kind = 3)
  wrM R.LOAD_INSOLE_READY 0 (ins.filter fun l => decide (l.state = 4)).length
  wrM R.LOAD_INSOLE_LOADING 0 (ins.filter fun l => decide (l.state ≠ 4)).length
  match c.patternLoad with
  | none => pure ()
  | some l => do
    wrM R.LOAD_STATE_STATE 0 l.state
    wrM R.LOAD_STATE_MODE 0 l.mode
    wrM R.LOAD_OBJECT_GEN 0 l.object
    wrM R.LOAD_SHARDS_EXPECTED_COUNT 0 l.count
    wrM R.LOAD_SHARDS_RECEIVED_COUNT 0 l.got.length
    wrM R.LOAD_MISSING_INDEX 0 (l.missing.getD 0xFFFFFFFF)
    wrM R.LOAD_PROGRESS_DONE 0 (l.boards.filter fun e => e.2.done).length

def putLoad (l : LoadObj) : CM Unit := do
  modify fun c => { c with loads := amend (sameObj l) (fun _ => l) c.loads }
  showLoads
def dropLoad (l : LoadObj) : CM Unit := do
  modify fun c => { c with loads := c.loads.filter fun x => !sameObj l x }
  showLoads

/-- Readiness goes to the head: its own set, or a CTRL flit (R352, R365). -/
def readyKey (kind object : Nat) : Nat := kind * 2 ^ 32 + object
def Chip.withReady (c : Chip) (kind node object : Nat) (ok : Bool) : Chip :=
  let old := Tbl.get [] c.readySets (readyKey kind object)
  { c with readySets := Tbl.put [] c.readySets (readyKey kind object) (if ok then unique (old ++ [node]) else []) }

def tellReady (kind object : Nat) (ok : Bool) (code : Nat) : CM Unit := do
  let c ← get
  if c.rd R.SEQ_STATE_STATE = seqEmpty then pure ()
  else if c.isHead then set (c.withReady kind c.node object ok)
  else sendCtrl c.headNode (if ok then .ready kind c.node object code else .fail kind c.node object code)

/-- READY and FAIL flits at the head (R365). -/
def headReady (kind node object : Nat) (ok : Bool) : CM Unit := modify fun c =>
  if c.isHead then c.withReady kind node object ok else c

/-- LOAD_STATUS and LOAD_DETAIL of a result. -/
def loadResult (kind code sect entry die tile : Nat) : CM Unit := do
  wrM R.LOAD_STATUS_VALID 0 1
  wrM R.LOAD_STATUS_KIND 0 kind
  wrM R.LOAD_STATUS_CODE 0 code
  wrM R.LOAD_STATUS_DIE 0 die
  wrM R.LOAD_STATUS_TILE 0 tile
  wrM R.LOAD_DETAIL_SECTION 0 sect
  wrM R.LOAD_DETAIL_ENTRY 0 entry

/-- Why an object is refused: code, section, entry, die, tile. -/
structure LoadFail where
  code  : Nat
  sect  : Nat := 0
  entry : Nat := 0
  die   : Nat := 0
  tile  : Nat := 0
  deriving DecidableEq, Repr

/-- The boards of an object that is given up leave PROGRAM at the ends of their windows; the object is gone (R351, R360). -/
def refuseLoad (l : LoadObj) (f : LoadFail) : CM Unit := do
  loadResult l.kind f.code f.sect f.entry f.die f.tile
  loadEvent 3 l.kind f.code l.object 0 0
  dropLoad l
  modify fun c => { c with insoleJobs := c.insoleJobs.filter fun j => !(decide (l.kind = 3) && decide (j.object = l.object)) }
  whenM (decide (l.kind = 1)) do
    wrM R.LOAD_STATE_STATE 0 6
    let c ← get
    whenM (decide (0 < c.rd R.LOAD_STUCK_TOTAL_COUNT)) (loadEvent 7 1 0 l.object (c.rd R.LOAD_STUCK_TOTAL_COUNT) 0)
  whenM (decide (l.kind ≠ 2)) (tellReady l.kind l.object false f.code)

/-! ## Copies (R77, R353, R359) -/

def genFld (up : Bool) : Fld := if up then R.ARRAY_GEN_GEN_U else R.ARRAY_GEN_GEN_L
def validFld (up : Bool) : Fld := if up then R.ARRAY_CFG_VALID_U else R.ARRAY_CFG_VALID_L
def setWear (b : Nat) (w : Wear) : CM Unit := do
  modify fun c => { c with wear := Tbl.put noWear c.wear b w }
  wrM R.ARRAY_REWRITES_COUNT (boardOff b) w.count
  wrM R.ARRAY_REWRITES_WEAR_WARN (boardOff b) (b2n (decide (16000 ≤ w.count)))
  wrM R.ARRAY_REWRITES_WORN (boardOff b) (b2n (decide (20000 ≤ w.count)))

/-- The copy that a load writes, or rebuilds, on a board; none where a RESTORE finds no VALID copy of its generation. -/
def Chip.loadCopy (c : Chip) (mode gen b : Nat) (dual : Bool) : Option Bool :=
  let w := c.wearOf b
  match mode with
  | 0 => some false
  | 1 => some (!c.flag R.ARRAY_CFG_ACTIVE (boardOff b))
  | _ => if w.validL ∧ w.genL = gen then some false else if dual && w.validU && decide (w.genU = gen) then some true else none

def allBoards : List Nat := upFrom 0 49152

/-- Close the list in force: its pattern layout is gone (R354). -/
def withdrawList : CM Unit := do
  let c ← get
  forM_ (upFrom 0 384) fun t => whenM (decide (c.tileState t ≠ tileShelved)) (wrM R.TILE_STATE_STATE (tileOff t) tileIdle)
  wrM R.SEQ_STATE_STATE 0 seqEmpty
  wrM R.SEQ_LIST_CRC_CRC 0 0

/-- What the first SHADOW write of a load does (R354). -/
def firstWrite (l : LoadObj) : CM Unit := do
  let c ← get
  forM_ (upFrom 0 384) fun t => modify fun c => { c with stuckMap := Tbl.erase t c.stuckMap, stuckFound := Tbl.erase t c.stuckFound }
  wrM R.LOAD_STUCK_TOTAL_COUNT 0 0
  match l.mode with
  | 0 => do
    forM_ allBoards fun b => do
      forM_ [true, false] fun u => do
        wrM (genFld u) (boardOff b) 0
        wrM (validFld u) (boardOff b) 0
      whenM (decide (c.arrState b = arrReady)) (setBoardState b arrEmpty)
    wrM R.LOAD_GEN_ACTIVE_GEN 0 0
    wrM R.LOAD_GEN_IDLE_GEN 0 0
    modify fun c => { c with inForce := none }
    whenM (decide (1 ≤ c.rd R.SEQ_STATE_STATE ∧ l.pattern.layout ≠ c.rd R.SEQ_LAYOUT_LAYOUT_ID)) withdrawList
  | 1 => do
    forM_ allBoards fun b => do
      let u := !c.flag R.ARRAY_CFG_ACTIVE (boardOff b)
      wrM (genFld u) (boardOff b) 0
      wrM (validFld u) (boardOff b) 0
    wrM R.LOAD_GEN_IDLE_GEN 0 0
  | _ => pure ()

/-! ## Placing a BOARD section (R342, R354, R357) -/

/-- A table with the keys of a range replaced by a list of values from its start on. -/
def replaceRange (old : Map Nat) (lo : Nat) (vs : List Nat) : Map Nat :=
  Tbl.keep (fun k => decide (k < lo)) old ++ ((upFrom lo vs.length).zip vs).filter (fun e => !decide (e.2 = 0))
    ++ Tbl.keep (fun k => decide (lo + vs.length ≤ k)) old

/-- The weight codes of a body, two in each byte. -/
def codesOf (bytes : List Nat) : List Nat := bytes.flatMap fun x => [x % 16, x / 16 % 16]

/-- The ladder is that of R60. -/
def ladderOk (f : NFmt) (ts : List Nat) : Bool :=
  decide (nth 0 ts 0 = 0) && (upFrom 0 8).all fun i =>
    let nominal := 16 * levelOf f i
    decide (nth 0 ts i ≤ nominal + 8 ∧ nominal ≤ nth 0 ts i + 8)

/-- Every G64 span of a body has equal scale codes (R44). -/
def spansOk (rows : Nat) (scales : List Nat) : Bool :=
  (upFrom 0 (rows / 64)).all fun s => decide ((scales.drop (1024 * s)).take 512 = (scales.drop (1024 * s + 512)).take 512)

/-- The next row at or after one that is to be pulsed. -/
def nextRow (rows : Nat) (skip : List Nat) (from_ : Nat) : Nat :=
  ((upFrom from_ (rows - from_)).find? fun r => !skip.contains r).getD rows

/-- A BOARD body is placed: the shadow replaced, the board's share of the load set up. -/
def placeBoard (l : LoadObj) (b pos : Nat) (body : List Nat) : CM LoadObj := do
  let c ← get
  let flags := nth 0 body 0
  let rows := copyRows l.pattern.dual
  match c.loadCopy l.mode l.object b l.pattern.dual with
  | none => pure l
  | some up =>
    if bit flags 0 then pure l
    else do
      let o := boardOff b
      let old := c.board b
      let base := if up then 512 else 0
      let ladder := (body.drop 8).take 8
      let codes := codesOf ((body.drop 16).take (256 * rows))
      let scales := (body.drop (16 + 256 * rows)).take (16 * rows)
      let w := c.wearOf b
      let wasValid := (if up then w.validU else w.validL) && decide (l.mode ≠ 2)
        && decide (c.flag R.ARRAY_CFG_DUAL o = l.pattern.dual)
      let sameLadder := decide ((if up then old.ladderU else old.ladderL) = ladder)
      let skip := if wasValid && sameLadder then (upFrom 0 rows).filter fun r =>
          (upFrom 0 512).all fun j => decide (Tbl.get 0 old.codes ((base + r) * 512 + j) = nth 0 codes (512 * r + j))
        else []
      modify fun c => c.onBoard b fun x => { x with
        codes := replaceRange x.codes (base * 512) codes
        scales := replaceRange x.scales (base / 32 * 512) scales
        ladderL := if up then x.ladderL else ladder
        ladderU := if up then ladder else x.ladderU }
      modify fun c => { c with
        bodyAt := Tbl.insert b (pos + 16) c.bodyAt
        poison := c.poison.filter fun p => !decide (p / 1024 = b ∧ base ≤ p % 1024 ∧ p % 1024 < base + rows) }
      wrM R.ARRAY_CFG_DUAL o (b2n l.pattern.dual)
      whenM (decide (l.mode ≠ 1)) (wrM R.ARRAY_CFG_ACTIVE o (b2n up))
      wrM (if up then R.ARRAY_CFG_FMT_U else R.ARRAY_CFG_FMT_L) o (b2n (bit flags 1))
      wrM R.ARRAY_CFG_ROWGROUP o (nth 0 body 1 % 4)
      wrM (if up then R.ARRAY_STUCK_STUCK_U else R.ARRAY_STUCK_STUCK_L) o 0
      forM_ (upFrom 0 8) fun i =>
        wrM (match i % 4 with
          | 0 => R.ARRAY_LADDER_T0_T4
          | 1 => R.ARRAY_LADDER_T1_T5
          | 2 => R.ARRAY_LADDER_T2_T6
          | _ => R.ARRAY_LADDER_T3_T7) (o + (if up then 8 else 0) + i / 4 * 4) (nth 0 ladder i)
      bumpM R.LOAD_SKIPPED_ROWS_COUNT 0 skip.length
      let k : BoardLoad := ⟨up, rows, if l.mode = 2 then rows else nextRow rows skip 0, skip, false, false, 0, false, false⟩
      pure { l with boards := Tbl.insert b k l.boards }

/-! ## Checks of sections and of the object (R360) -/

/-- DESCRIPTOR fields within R341. -/
def descriptorOk (d : List Nat) : Bool :=
  let finite (w : Nat) : Bool := decide (bits w 30 23 ≠ 255)
  let layers := le d 0 2
  let hidden := le d 2 2
  let q := le d 4 2
  let kvh := nth 0 d 6
  let ex := le d 8 2
  let k := nth 0 d 10
  let vocab := le d 12 4
  decide (1 ≤ layers ∧ layers ≤ 256 ∧ 256 ≤ hidden ∧ hidden ≤ 32768 ∧ hidden % 256 = 0 ∧ 1 ≤ q ∧ q ≤ 256 ∧ 1 ≤ kvh ∧ kvh ≤ 64
      ∧ q % kvh = 0 ∧ nth 0 d 7 < 3 ∧ ((ex = 0 ∧ k = 0) ∨ (2 ≤ ex ∧ ex ≤ 512 ∧ 1 ≤ k ∧ k ≤ 16 ∧ k ≤ ex))
      ∧ 2 ≤ vocab ∧ vocab ≤ 262144 ∧ 1 ≤ le d 16 4 ∧ le d 16 4 ≤ 1048576)
    && finite (le d 20 4) && decide (0x3F800000 < le d 20 4 ∧ le d 20 4 < 2 ^ 31)
    && finite (le d 24 4) && decide (0 < le d 24 4 ∧ le d 24 4 < 2 ^ 31)
    && decide (nth 0 d 28 ≠ 0xFF)
    && (upFrom 0 4).all fun i => !bit (le d (32 + 4 * i) 4) 31 || decide (le d (32 + 4 * i) 4 % 2 ^ 18 < vocab)

/-- A WELT body's entries, as they stand in the container. -/
def weltWords (b : List Nat) : List Nat := (recordsAt b 8 8 (le b 0 4)).map fun r => le r 0 8

/-- An outlier entry of a word, with R86's readings of −128 and 0xFF. -/
def outlierOf (w : Nat) : WeltEntry :=
  ⟨false, bits w 61 55, bits w 54 45, bits w 44 36, min 0xFE (bits w 15 8), max (-127) (sext 8 w)⟩

/-- Values of an entry that count a clamp event (R86). -/
def weltClamps (w : Nat) : Nat := b2n (decide (bits w 15 8 = 0xFF)) + b2n (decide (w % 256 = 128))

/-- The first entry of a WELT body that R86 refuses. -/
def weltBad (rows : Nat) (b : List Nat) : Option Nat :=
  let ws := weltWords b
  indexOf (fun e : Nat × Nat => bit e.2 62 || decide (rows ≤ bits e.2 54 45)
    || (ws.take e.1).any fun v => decide (bits v 61 36 = bits e.2 61 36)) ((upFrom 0 ws.length).zip ws)

/-- Die, and tile or board within the die, that a section is for. -/
def Part.typ (p : Part) : Nat := le p.head 0 2
def Part.node (p : Part) : Nat := le p.head 2 2
def Part.die (p : Part) : Nat := nth 0 p.head 4
def Part.index (p : Part) : Nat := le p.head 6 2
def Part.crc (p : Part) : Nat := le p.head 12 4

/-- The length a section's body may have (R341 to R343). -/
def sectLenOk (dual : Bool) (p : Part) (b : List Nat) : Bool :=
  match p.typ with
  | 1 => decide (p.len = 64)
  | 2 => decide (p.len = pad8 (8 + 2 * le b 0 4) ∧ le b 0 4 ≤ 2048 ∧ p.die < 8)
  | 3 => decide (8 ≤ p.len)
  | 4 => decide (p.die < 8 ∧ p.index < 6144) && (if bit (nth 0 b 0) 0 then decide (p.len = 16) else decide (p.len = 16 + 272 * copyRows dual))
  | 5 => decide (p.die < 8 ∧ p.index < 48 ∧ p.len = 8 + 8 * le b 0 4 ∧ le b 0 4 ≤ 4096)
  | 6 => decide (p.die < 8 ∧ p.index < 48 ∧ p.len = 8 + 32 * le b 4 4 ∧ le b 4 4 ≤ 256)
  | _ => false

/-- What the check of a section as it is placed finds (R360). -/
def Chip.sectFail (c : Chip) (l : LoadObj) (p : Part) (ix : Nat) (b : List Nat) : Option LoadFail :=
  let at_ (code entry : Nat) : LoadFail := ⟨code, ix, entry, p.die % 8, if p.typ = 4 then p.index / 128 else p.index % 64⟩
  let rows := copyRows l.pattern.dual
  let same := l.parts.any fun q => decide (q.pos ≠ p.pos ∧ q.typ = p.typ ∧ q.node = p.node ∧ q.die = p.die ∧ q.index = p.index)
  if !sectLenOk l.pattern.dual p b || decide (crc32 b ≠ p.crc) || same then some (at_ 1 0)
  else match p.typ with
    | 1 =>
      if !descriptorOk b then some (at_ 2 0)
      else if decide (l.mode = 1) && (match c.inForce with
          | none => true
          | some f => decide (b.take 32 ≠ f.desc.take 32)) then some (at_ 6 0)
      else none
    | 4 =>
      if bit (nth 0 b 0) 0 then none
      else if 2 < nth 0 b 1 then some (at_ 1 0)
      else if !ladderOk (nfmtOfBit (bit (nth 0 b 0) 1)) ((b.drop 8).take 8) then some (at_ 3 0)
      else if nth 0 b 1 = 2 && !spansOk rows ((b.drop (16 + 256 * rows)).take (16 * rows)) then some (at_ 4 0)
      else if l.mode = 2 ∧ (c.loadCopy 2 l.object (p.die * 6144 + p.index) l.pattern.dual).isNone then some (at_ 0xC p.index)
      else none
    | 5 => (weltBad rows b).map (at_ 5)
    | _ => none

/-- Clamp events of the scale codes 0xFF of a body (R36). -/
def scaleClamps (src : Nat) (scales : List Nat) : CM Unit :=
  forM_ (scales.filter fun s => decide (s = 0xFF)) fun _ => clampEvent src 0 0

/-- A section's body goes where it belongs (R354). -/
def placeSect (l : LoadObj) (p : Part) (b : List Nat) : CM LoadObj := do
  whenM (!l.wrote && decide (p.typ ≠ 3)) (firstWrite l)
  let l := { l with wrote := l.wrote || decide (p.typ ≠ 3), placed := l.placed ++ [p.pos] }
  let l := if 4 ≤ p.typ then { l with crcs := Tbl.insert p.pos p.crc l.crcs } else l
  let t := p.die * 48 + p.index
  match p.typ with
  | 1 => pure { l with pattern := { l.pattern with desc := b } }
  | 2 => pure { l with pattern := { l.pattern with
      kv := Tbl.insert p.die ((recordsAt b 8 2 (le b 0 4)).map fun r => (nth 0 r 0, nth 0 r 1)) l.pattern.kv } }
  | 3 => do
    modify fun c => { c with embedAt := p.pos + 16 + 8 }
    pure { l with pattern := { l.pattern with embed := b } }
  | 4 => do
    let rows := copyRows l.pattern.dual
    scaleClamps srcPattern ((b.drop (16 + 256 * rows)).take (16 * rows))
    let l ← placeBoard l (p.die * 6144 + p.index) p.pos b
    pure (if bit (nth 0 b 0) 0 then l else { l with pattern := { l.pattern with
      groups := Tbl.put 3 l.pattern.groups (p.die * 6144 + p.index) (nth 0 b 1) } })
  | 5 => do
    forM_ (weltWords b) fun w => forM_ (upFrom 0 (weltClamps w)) fun _ => clampEvent srcPattern 0 0
    let c ← get
    let place (e : WeltEntry) : WeltEntry :=
      match c.loadCopy l.mode l.object (boardOf t e.board) l.pattern.dual with
      | some true => { e with row := 512 + e.row }
      | _ => e
    pure { l with welt := Tbl.insert t ((weltWords b).map fun w => place (outlierOf w)) l.welt }
  | _ => pure { l with pattern := { l.pattern with consts := Tbl.insert t b l.pattern.consts } }

/-! ## Ranking at the end of a load (R356, R361) -/

/-- The corrections of a load are ranked on every tile, into the table or the standby table. -/
def rankLoad (l : LoadObj) : CM Unit := do
  forM_ (upFrom 0 384) fun t => do
    let c ← get
    let r := rank (c.rowsOf t) (Tbl.get [] l.welt t)
    modify fun c => { c with stuckMap := Tbl.erase t c.stuckMap, stuckFound := Tbl.erase t c.stuckFound }
    forM_ (Tbl.get [] l.welt t) fun e =>
      if e.stuck ∧ r.held.contains e = true then addStuckRecord t 0 e else pure ()
    countOut t r
    if l.mode = 1 then
      onTileM t fun x => { x with weltStandby := r.held, waivedStandby := r.waived, droppedStandby := r.dropped,
                                  standbyDegraded := !r.out.isEmpty }
    else do
      onTileM t fun x => { x with welt := r.held, waived := r.waived, droppedOutliers := r.dropped, weltStaged := none }
      wrM R.WELT_STATUS_DEGRADED (tileOff t) (b2n (!r.out.isEmpty))
  let c ← get
  whenM (decide (l.mode ≠ 1)) (wrM R.LOAD_STATE_DEGRADED 0
    (b2n ((upFrom 0 384).any fun t => c.flag R.WELT_STATUS_DEGRADED (tileOff t))))

/-! ## A generation comes into force (R344, R367 to R369, R371) -/

/-- A tile's CONST lines go into slot 0, those outside the carried ranges skipped (R344). -/
def writeConst (t : Nat) : CM Unit := do
  let c ← get
  match c.inForce with
  | none => pure ()
  | some p =>
    let b := Tbl.get [] p.consts t
    let first := le b 0 4
    let carried := (c.tile t).carried
    forM_ (upFrom 0 (le b 4 4)) fun i =>
      if carried.any fun r => decide (r.first ≤ first + i ∧ first + i < r.first + r.lines) then
        writeLine t 0 (first + i) ((b.drop (8 + 32 * i)).take 32)
      else bumpM R.LOAD_CONST_SKIP_COUNT

/-- What the pattern in force sets elsewhere: KV map, frames, sampler time, share CRC. -/
def showPattern (l : LoadObj) : CM Unit := do
  let p := l.pattern
  modify fun c => { c with inForce := some p, kvMap := p.kv }
  wrM R.LOAD_GEN_ACTIVE_GEN 0 p.gen
  wrM R.LOAD_STATE_DUAL_LAYOUT 0 (b2n p.dual)
  wrM R.SAMPLER_TIMING_SLOT_CYCLES 0 (cdiv (le p.desc 12 4) 64 + 480)
  wrM R.FAULT_SHARE_CRC_CRC 0 (crc32 (l.crcs.flatMap fun e => leBytes 4 e.2))
  forM_ (upFrom 0 8) fun d => do
    let hd := nth 0 p.desc 7
    let fl := (Tbl.get [] p.kv d).length * pageLines (64 * 2 ^ hd)
    let c ← get
    wrM R.CTX_FRAME_CFG_HD (dieOff d) hd
    wrM R.CTX_FRAME_CFG_FRAME_LINES (dieOff d) fl
    wrM R.CTX_FRAMES_TOTAL (dieOff d) (if fl = 0 then 0 else c.regionLines d 2 / fl)

/-- Every prefix entry that `p` picks is released (R371). -/
def releasePrefixes (p : PrefixEntry → Bool) : CM Unit := do
  let c ← get
  forM_ (c.prefixes.filter fun e => p e.2) fun e => dropPrefix e.1

/-- A PATTERN flip (R367): `job` says whether it comes with a commit. -/
def flipPattern (gen : Nat) (job : Bool) : CM Unit := do
  let c ← get
  let held := c.loads.find? fun l => decide (l.kind = 1 ∧ l.object = gen ∧ l.state = 4)
  let old := c.rd R.LOAD_GEN_ACTIVE_GEN
  let copyOf (b : Nat) : Option Bool :=
    if c.flag R.ARRAY_CFG_VALID_L (boardOff b) && decide (c.rd R.ARRAY_GEN_GEN_L (boardOff b) = gen) then some false
    else if c.flag R.ARRAY_CFG_VALID_U (boardOff b) && decide (c.rd R.ARRAY_GEN_GEN_U (boardOff b) = gen) then some true else none
  let used (b : Nat) : Bool := match held with
    | some l => decide (Tbl.get 3 l.pattern.groups b ≠ 3)
    | none => decide (c.arrState b = arrReady)
  forM_ allBoards fun b =>
    match copyOf b with
    | some u => whenM (c.flag R.ARRAY_CFG_DUAL (boardOff b)) (wrM R.ARRAY_CFG_ACTIVE (boardOff b) (b2n u))
    | none => whenM (decide (c.arrState b = arrReady)) (setBoardState b arrEmpty)
  match held with
  | some l => do
    forM_ (upFrom 0 384) fun t => do
      let x ← tileM t
      onTileM t fun x => { x with welt := x.weltStandby, weltStandby := x.welt, waived := x.waivedStandby, waivedStandby := x.waived,
                                  droppedOutliers := x.droppedStandby, droppedStandby := x.droppedOutliers,
                                  standbyDegraded := c.flag R.WELT_STATUS_DEGRADED (tileOff t) }
      wrM R.WELT_STATUS_DEGRADED (tileOff t) (b2n x.standbyDegraded)
    wrM R.LOAD_STATE_DEGRADED 0 (b2n ((upFrom 0 384).any fun t => (c.tile t).standbyDegraded))
    showPattern l
    whenM job (forM_ (upFrom 0 384) writeConst)
    dropLoad l
  | none => wrM R.LOAD_GEN_ACTIVE_GEN 0 gen
  wrM R.LOAD_GEN_IDLE_GEN 0 old
  bumpM R.LOAD_FLIPS_PATTERN
  releasePrefixes fun _ => true
  loadEvent 5 1 0 gen 0 0
  let lacking := allBoards.any fun b => used b && (copyOf b).isNone
  whenM (lacking || held.isNone) (raisePackage 0x47)
  modify fun c => { c with readySets := Tbl.erase (readyKey 1 gen) c.readySets }

/-- A pattern object that has become READY with no job running is in force at once (R369). -/
def intoForce (l : LoadObj) : CM Unit :=
  if l.mode = 1 then flipPattern l.object false
  else do
    showPattern l
    dropLoad l
    wrM R.LOAD_STATE_STATE 0 4
    modify fun c => { c with heldUnits := c.heldUnits.filter fun k => !decide (k / 2 ^ 20 ≠ 0) }

/-- The whole object at its last shard: sections missing, KV map, the cutting list in force (R360). -/
def Chip.wholeFail (c : Chip) (l : LoadObj) : Option LoadFail :=
  let ps := l.parts.filter fun p => l.placed.contains p.pos
  let has (typ die index : Nat) : Bool := ps.any fun p => decide (p.typ = typ ∧ p.die = die ∧ p.index = index)
  let pairs := (upFrom 0 8).flatMap fun d => Tbl.get [] l.pattern.kv d
  if !(ps.any fun p => decide (p.typ = 1)) || !((upFrom 0 8).all fun d => ps.any fun p => decide (p.typ = 2 ∧ p.die = d))
      || !((upFrom 0 384).all fun t => has 5 (t / 48) (t % 48) && has 6 (t / 48) (t % 48))
      || !(allBoards.all fun b => has 4 (b / 6144) (b % 6144))
      || (c.isHead && !(ps.any fun p => decide (p.typ = 3))) then some { code := 1 }
  else if pairs.any (fun q => decide (le l.pattern.desc 0 2 ≤ q.1 ∨ nth 0 l.pattern.desc 6 ≤ q.2)) || decide (pairs ≠ unique pairs) then
    some { code := 6 }
  else if c.rd R.SEQ_STATE_STATE = seqEmpty then none
  else if l.pattern.layout ≠ c.rd R.SEQ_LAYOUT_LAYOUT_ID then some { code := 6 }
  else (c.layoutMiss l.pattern).map fun m => { code := 6, entry := m.2.2.2, die := m.2.1 / 48, tile := m.2.1 % 48 }

/-- Boards of the object that are not UNUSED. -/
def LoadObj.allDone (l : LoadObj) : Bool := l.boards.all fun e => e.2.done
def LoadObj.complete (l : LoadObj) : Bool := decide (l.got.length = l.count) && l.parts.all fun p => l.placed.contains p.pos

/-- The pattern object's state; READY once everything is placed, programmed and confirmed (R358). -/
def advancePattern (gen : Nat) : CM Unit := do
  let c ← get
  match c.loadOf 1 gen with
  | none => pure ()
  | some l =>
    if !l.complete ∨ l.state = 4 then showLoads
    else if l.allDone then do
      rankLoad l
      putLoad { l with state := 4 }
      loadResult 1 0 0 0 0 0
      loadEvent 4 1 0 gen 0 0
      let c ← get
      loadEvent 7 1 0 gen (c.rd R.LOAD_STUCK_TOTAL_COUNT) 0
      tellReady 1 gen true 0
      whenM (!c.jobRuns) (intoForce { l with state := 4 })
    else putLoad { l with state := if l.boards.all fun e => decide (e.2.rows ≤ e.2.next) then 3 else 2 }

/-! ## Shards of a pattern (R353, R354, R360) -/

/-- The header of a pattern container is checked when it is held (R339, R353). -/
def Chip.patternHead (c : Chip) (l : LoadObj) (h : List Nat) : Option LoadFail :=
  let mode := nth 0 h 16
  let gen := le h 8 2
  let dual := bit (nth 0 h 17) 0
  if h.take 4 ≠ [0x50, 0x41, 0x54, 0x4E] ∨ le h 4 2 ≠ 1 ∨ le h 6 2 ≠ 64 ∨ containerCrc h 36 ≠ le h 36 4 ∨ 2 < mode
      ∨ le h 10 2 = 0 ∨ 4096 < le h 10 2 ∨ gen ≠ l.object then some { code := 1 }
  else if mode = 1 && !(dual && (match c.inForce with
      | none => false
      | some f => decide (f.layout = le h 12 4) && allBoards.all fun b =>
          decide (Tbl.get 3 f.groups b = 3) || c.flag R.ARRAY_CFG_DUAL (boardOff b))) then some { code := 6 }
  else if mode ≠ 1 ∧ c.jobRuns = true then some { code := 9 }
  else if gen = 0 ∨ (mode ≠ 2 ∧ gen = c.rd R.LOAD_GEN_ACTIVE_GEN) then some { code := 0xA }
  else none

/-- The sections whose bodies are held and not yet placed, in order. -/
def placeHeld : Nat → LoadObj → CM (Option LoadObj)
  | 0, l => pure (some l)
  | n + 1, l => do
    let c ← get
    let ps := l.parts
    let open_ := ((upFrom 0 ps.length).zip ps).find? fun e => !l.placed.contains e.2.pos && (l.body e.2).isSome
    match open_ with
    | none => pure (some l)
    | some (ix, p) =>
      let b := (l.body p).getD []
      if p.node ≠ c.node ∧ p.node ≠ 0xFFFF then placeHeld n { l with placed := l.placed ++ [p.pos] }
      else if p.typ = 0 ∨ 6 < p.typ then do
        refuseLoad l { code := 1, sect := ix }
        pure none
      else match c.sectFail l p ix b with
        | some f => do
          refuseLoad l f
          pure none
        | none => do
          let l' ← placeSect l p b
          placeHeld n l'

/-- A pattern object goes on as far as the bytes held allow. -/
def workPattern (l : LoadObj) : CM Unit := do
  let c ← get
  match bytesAt l.joined 0 64 with
  | none => putLoad l
  | some h =>
    let fail := if l.pattern.gen = 0 then c.patternHead l h else none
    match fail with
    | some f => refuseLoad l f
    | none => do
      let l := { l with mode := nth 0 h 16, notBefore := le h 20 4,
                        pattern := { l.pattern with gen := le h 8 2, layout := le h 12 4, dual := bit (nth 0 h 17) 0 } }
      if l.pieces.any fun e => decide (le h 24 8 < e.1 + e.2.length) then refuseLoad l { code := 1 }
      else do
        let r ← placeHeld (l.pieces.length + le h 32 4 + 1) l
        match r with
        | none => pure ()
        | some l => do
          putLoad l
          let c ← get
          if l.complete ∧ l.state = 1 then
            match c.wholeFail l with
            | some f => refuseLoad l f
            | none => do
              putLoad { l with state := 2 }
              advancePattern l.object
          else showLoads

/-! ## Insole images (R98, R99, R103 to R105, R345) -/

/-- The slots that descriptors of a tile hold in a mode's slot space. -/
def Chip.slotsHeld (c : Chip) (t : Nat) (up : Bool) : List Nat :=
  (((upFrom 0 64).map (c.desc t)).filter fun d => decide (d.state ≠ 0)).flatMap fun d =>
    if up then upFrom d.upFirst 4 else upFrom d.downFirst d.downCount

/-- The lowest place of `n` consecutive free slots of a mode. -/
def Chip.firstFit (c : Chip) (t : Nat) (up : Bool) (n : Nat) : Option Nat :=
  let held := c.slotsHeld t up
  let total := 32 * (c.arraysOf t up).length
  (upFrom 0 (total + 1 - n)).find? fun i => decide (i + n ≤ total) && (upFrom i n).all fun k => !held.contains k

/-- Arrays 6 and 7 of a tile whose slots are all free become UP arrays where it has none. -/
def ensureUp (t : Nat) : CM Unit := do
  let c ← get
  whenM ((c.arraysOf t true).isEmpty && (c.slotsHeld t false).isEmpty) (wrM R.INSOLE_MODE_UP (tileOff t) 0xC0)

/-- Evaluation time of an insole whose slots lie at given places (R103), in cycles. -/
def Chip.insoleCycles (c : Chip) (t rank downFirst downCount upFirst : Nat) : Nat :=
  let most (up : Bool) (first n : Nat) : Nat :=
    let k := (c.arraysOf t up).length
    ((upFrom 0 k).map fun a => ((upFrom first n).filter fun i => decide (i % k = a)).length).foldl max 0
  96 * most false downFirst downCount + 12 + (if rank ≤ 32 then 48 else 96) * most true upFirst 4 + 16

/-- A record of an image (R345), its body at hand. -/
def insoleRecOf (h body : List Nat) : InsoleRec :=
  ⟨nth 0 h 2 * 48 + nth 0 h 3, nth 0 h 4 % 128, nth 0 h 5 % 64 + 1, bit (nth 0 h 6) 0, body⟩

/-- DOWN slots of a record: one or two halves of ⌈r/16⌉ slots. -/
def Chip.downSlots (c : Chip) (r : InsoleRec) : Nat :=
  (if c.flag R.ARRAY_CFG_DUAL (boardOff (boardOf r.tile r.loc)) then 1 else 2) * cdiv r.rank 16

/-- A FREE descriptor and slots for a record, its time within the reservation (R104). -/
def Chip.insolePlace (c : Chip) (r : InsoleRec) : Option (Nat × Nat × Nat) :=
  let n := c.downSlots r
  match (upFrom 0 64).find? fun d => decide ((c.desc r.tile d).state = 0), c.firstFit r.tile false n, c.firstFit r.tile true 4 with
  | some d, some down, some up =>
    if c.insoleCycles r.tile r.rank down n up ≤ Tbl.get 0 (c.tile r.tile).insoleRes r.loc then some (d, down, up) else none
  | _, _, _ => none

/-- Take descriptors and slots for the records of an image; false where one is refused. -/
def takeInsoles (l : LoadObj) : List InsoleRec → CM Bool
  | [] => pure true
  | r :: t => do
    ensureUp r.tile
    let c ← get
    match c.insolePlace r with
    | none => do
      bumpM R.INSOLE_REFUSED_COUNT (tileOff r.tile)
      pure false
    | some (d, down, up) => do
      modify fun c => c.setDesc r.tile d ⟨1, nfmtOfBit r.fp4, r.rank, r.loc, l.tenant, down, c.downSlots r, up, l.version⟩
      modify fun c => { c with insoleJobs := c.insoleJobs ++ [⟨r.tile, d, l.object, r⟩] }
      takeInsoles l t

/-- An image whose slots are all written, or that has no record here, is READY (R365). -/
def advanceInsole (object : Nat) : CM Unit := do
  let c ← get
  match c.loadOf 3 object with
  | none => pure ()
  | some l =>
    if l.state = 2 && !(c.insoleJobs.any fun j => decide (j.object = object)) then do
      putLoad { l with state := 4 }
      loadResult 3 0 0 0 0 0
      loadEvent 4 3 0 object 0 0
      tellReady 3 object true 0
    else showLoads

/-- LOADING descriptors of an image that is given up become FREE. -/
def freeLoading (l : LoadObj) : CM Unit := do
  let c ← get
  forM_ (c.insoleJobs.filter fun j => decide (j.object = l.object)) fun j =>
    modify fun c => c.setDesc j.tile j.desc { c.desc j.tile j.desc with state := 0 }

/-- An insole image goes on as far as the bytes held allow. -/
def workInsole (l : LoadObj) : CM Unit := do
  let c ← get
  match bytesAt l.joined 0 32 with
  | none => putLoad l
  | some h =>
    let tenant := le h 6 2 % 1024
    let l := { l with tenant := tenant, version := nth 0 h 8, withGen := le h 10 2, notBefore := le h 20 4 }
    let bad : Option Nat :=
      if h.take 4 ≠ [0x49, 0x4E, 0x53, 0x4C] ∨ le h 4 2 ≠ 1 ∨ containerCrc h 24 ≠ le h 24 4 then some 1
      else if (c.key keyTenantData tenant).isNone then some 0xD
      else if (match c.inForce with
          | none => true
          | some f => decide (f.layout ≠ le h 16 4)) then some 0x10
      else none
    match bad with
    | some code => refuseLoad l { code := code }
    | none =>
      let ps := l.parts
      if l.got.length = l.count ∧ l.state = 1 then
        if ps.any fun p => (match l.body p with
            | none => true
            | some b => decide (crc32 b ≠ le p.head 12 4)) then refuseLoad l { code := 1 }
        else do
          let mine := ps.filter fun p => decide (le p.head 0 2 = c.node)
          forM_ mine fun p => scaleClamps srcOrch (let b := (l.body p).getD []
            b.drop (b.length - 1024))
          let l := { l with state := 2 }
          putLoad l
          let ok ← takeInsoles l (mine.map fun p => insoleRecOf p.head ((l.body p).getD []))
          if ok then advanceInsole l.object
          else do
            freeLoading l
            refuseLoad l { code := 0x10 }
      else putLoad l

/-- Codes of A and B of a record in its slots (R99). -/
def writeInsole (t : Nat) (d : Desc) (r : InsoleRec) : CM Unit := do
  let c ← get
  let cols := 16 * cdiv r.rank 16
  let rows := if c.flag R.ARRAY_CFG_DUAL (boardOff (boardOf t r.loc)) then 512 else 1024
  let codes := codesOf r.body
  let aScales := r.body.drop (rows * cols / 2)
  let bBytes := aScales.drop (rows / 32 * cols)
  let bCodes := codesOf (bBytes.take (64 * 512 / 2))
  let bScales := bBytes.drop (64 * 512 / 2)
  let put (m : Map Nat) (k v : Nat) : Map Nat := Tbl.put 0 m k v
  forM_ (upFrom 0 (d.downCount)) fun i => do
    let s := c.slotPlace t false (d.downFirst + i)
    let h := i / cdiv r.rank 16
    let q := i % cdiv r.rank 16
    onTileM t fun x => { x with
      insole := (upFrom 0 8192).foldl (fun m k => put m (s * 8192 + k) (nth 0 codes ((512 * h + k / 16) * cols + 16 * q + k % 16))) x.insole
      insoleScale := (upFrom 0 256).foldl (fun m k => put m (s * 256 + k) (nth 0 aScales ((16 * h + k / 16) * cols + 16 * q + k % 16))) x.insoleScale }
  forM_ (upFrom 0 4) fun q => do
    let s := c.slotPlace t true (d.upFirst + q)
    onTileM t fun x => { x with
      insole := (upFrom 0 8192).foldl (fun m k => put m (s * 8192 + k) (nth 0 bCodes (k / 128 * 512 + 128 * q + k % 128))) x.insole
      insoleScale := (upFrom 0 256).foldl (fun m k => put m (s * 256 + k) (nth 0 bScales (k / 128 * 512 + 128 * q + k % 128))) x.insoleScale }

/-- INSOLE_SLOTS_WRITTEN: every slot of a LOADING descriptor is written and it becomes STANDBY (R105). -/
def doInsoleSlotsWritten (t d : Nat) : CM Unit := do
  let c ← get
  match c.insoleJobs.find? fun j => decide (j.tile = t ∧ j.desc = d) with
  | none => pure ()
  | some j => do
    writeInsole t (c.desc t d) j.rec_
    modify fun c => { (c.setDesc t d { c.desc t d with state := 2 }) with insoleJobs := c.insoleJobs.filter fun k => !decide (k = j) }
    advanceInsole j.object

/-- An INSOLE flip order (R106, R368, R371). -/
def flipInsole (tenant version : Nat) : CM Unit := do
  forM_ (upFrom 0 384) fun t => do
    let c ← get
    let ds := (upFrom 0 64).map fun n => (n, c.desc t n)
    forM_ ds fun e =>
      if e.2.tenant = tenant ∧ e.2.state = 3 ∧ e.2.version ≠ version then modify fun c => c.setDesc t e.1 { e.2 with state := 0 }
      else if e.2.tenant = tenant ∧ e.2.state = 2 ∧ e.2.version = version then modify fun c => c.setDesc t e.1 { e.2 with state := 3 }
      else pure ()
    whenM (ds.any fun e => decide (e.2.tenant = tenant ∧ (e.2.state = 2 ∨ e.2.state = 3))) (bumpM R.INSOLE_FLIPS_COUNT (tileOff t))
  bumpM R.LOAD_FLIPS_INSOLE
  let c ← get
  forM_ (c.loads.filter fun l => decide (l.kind = 3 ∧ l.tenant = tenant ∧ l.version = version ∧ l.state = 4)) fun l => do
    loadEvent 5 3 0 l.object 0 0
    dropLoad l
    modify fun c => { c with readySets := Tbl.erase (readyKey 3 l.object) c.readySets }
  releasePrefixes fun e => !e.isGroup && decide (e.owner = tenant)

/-! ## Arrivals of shards (R346 to R351) -/

/-- Bytes staged: held and not placed. -/
def LoadObj.stagedLines (l : LoadObj) : Nat :=
  (l.pieces.map fun e => cdiv e.2.length 32).foldl (· + ·) 0
    - ((l.parts.filter fun p => l.placed.contains p.pos).map fun p => (16 + p.len) / 32).foldl (· + ·) 0

def nak (kind code object index : Nat) : CM Unit := loadEvent 1 kind code object index 0

/-- A REPAIR shard rewrites SHADOW lines of the generation in force or held, and clears their poison (R362). -/
def repair (h : ShardHdr) (data : List Nat) : CM Unit := do
  let c ← get
  let held := decide (h.object = c.rd R.LOAD_GEN_ACTIVE_GEN) || decide (h.object = c.rd R.LOAD_GEN_IDLE_GEN)
    || (c.loadOf 1 h.object).isSome
  if h.kind ≠ 1 ∨ held = false then bumpM R.LOAD_FOREIGN_COUNT
  else forM_ c.bodyAt fun e => do
    let rows := copyRows c.dualNow
    let covered (first n : Nat) : Bool := decide (h.offset ≤ first ∧ first + n ≤ h.offset + data.length)
    let u := c.flag R.ARRAY_CFG_ACTIVE (boardOff e.1)
    let base := copyBase (u && c.dualNow)
    let lines := (upFrom 0 rows).filter fun r => covered (e.2 + 16 + 256 * r) 256 ∨ covered (e.2 + 16 + 256 * rows + 512 * (r / 32)) 512
    forM_ lines fun r => do
      let row := base + r
      modify fun c => { c with poison := c.poison.filter (· != e.1 * 1024 + row) }
      whenM (covered (e.2 + 16 + 256 * r) 256) (modify fun c => c.onBoard e.1 fun x =>
        { x with codes := replaceRange x.codes (row * 512) (codesOf ((data.drop (e.2 + 16 + 256 * r - h.offset)).take 256)) })

/-- An object's first shard: room for it, and a place among the objects (R351). -/
def Chip.loadRoom (c : Chip) (h : ShardHdr) : Bool :=
  let same := c.loads.filter fun l => decide (l.kind = h.kind)
  match h.kind with
  | 3 => decide (same.length < 16) && !(same.any fun l => decide (l.object % 1024 = h.object % 1024 ∧ l.state ≠ 4))
  | _ => same.isEmpty

def newLoad (h : ShardHdr) : LoadObj :=
  { kind := h.kind, object := h.object, count := h.count, got := [], corrupt := [], pieces := [], state := 1, mode := 0,
    notBefore := 0, placed := [], wrote := false, pattern := noPattern, boards := [], welt := [], crcs := [], tenant := 0,
    version := 0, withGen := 0 }

/-- A corrupt arrival (R349). -/
def corruptShard (h : ShardHdr) : CM Unit := do
  bumpM R.LOAD_NAKS_COUNT
  nak h.kind 0 h.object h.index
  let c ← get
  match c.loadOf h.kind h.object with
  | none => pure ()
  | some l => do
    let n := Tbl.get 0 l.corrupt h.index + 1
    let l := { l with corrupt := Tbl.insert h.index n l.corrupt }
    if 9 ≤ n then do
      freeLoading l
      refuseLoad l { code := 8 }
    else putLoad l

/-- A cutting-list object with all its shards passes to R195. -/
def workList (l : LoadObj) : CM Unit := do
  if l.got.length = l.count then do
    let ps := l.joined
    let whole := match ps with
      | [(0, b)] => decide (b.length = le b 40 4)
      | _ => false
    let _ ← loadList (ps.flatMap (·.2)) whole
    dropLoad l
  else putLoad l

/-- A shard for this package: held, duplicate, foreign, repaired, or ending its object (R349 to R351). -/
def keepShard (h : ShardHdr) (crcOk : Bool) (data : List Nat) : CM Unit := do
  let c ← get
  if !crcOk || decide (h.kind = 0 ∨ 3 < h.kind ∨ (h.abort = false ∧ (h.count ≤ h.index ∨ data.isEmpty = true ∨ 1048576 < data.length))) then
    corruptShard h
  else if h.abort then
    match c.loadOf h.kind h.object with
    | none => pure ()
    | some l => do
      freeLoading l
      refuseLoad l { code := 0xB }
  else if h.repair then repair h data
  else do
    let known := (c.loadOf h.kind h.object).isSome
    if !known && !c.loadRoom h then do
      bumpM R.LOAD_FOREIGN_COUNT
      nak h.kind 9 h.object h.index
    else do
      let l := (c.loadOf h.kind h.object).getD (newLoad h)
      let staged := (c.loads.map (·.stagedLines)).foldl (· + ·) 0
      let space := ((upFrom 0 8).map fun d => c.regionLines d 6).foldl (· + ·) 0
      if l.got.contains h.index then pure ()
      else if space < staged + cdiv data.length 32 then nak h.kind 0x0E h.object h.index
      else do
        let l := { l with got := l.got ++ [h.index], pieces := Tbl.insert h.offset data l.pieces,
                          state := if l.state = 5 then 1 else l.state }
        modify fun c => if known then { c with loads := amend (sameObj l) (fun _ => l) c.loads }
          else { c with loads := c.loads.filter (fun x => !(decide (h.kind = 3) && decide (x.kind = 3 ∧ x.object % 1024 = h.object % 1024)))
                          ++ [l] }
        match h.kind with
        | 1 => workPattern l
        | 2 => workList l
        | _ => workInsole l

/-- The bytes of a shard stream (R346). -/
def shardStream (h : ShardHdr) (data : List Nat) : List Nat :=
  [h.kind, b2n h.abort + 2 * b2n h.repair] ++ leBytes 2 h.dest ++ leBytes 4 h.object ++ leBytes 4 h.index ++ leBytes 4 h.count
    ++ leBytes 8 h.offset ++ leBytes 4 data.length ++ leBytes 4 (crc32 data) ++ data

def shardHdrOf (b : List Nat) : ShardHdr :=
  ⟨nth 0 b 0, bit (nth 0 b 1) 0, bit (nth 0 b 1) 1, le b 2 2, le b 4 4, le b 8 4, le b 12 4, le b 16 8⟩

/-- SHARD flits of a stream, 88 bytes each (R347). -/
def shardFrags (index : Nat) : Nat → Nat → List Nat → List ShardFrag
  | 0, _, _ => []
  | n + 1, off, b => if b.isEmpty then [] else ⟨index, off, 0, b.take 88⟩ :: shardFrags index n (off + 88) (b.drop 88)

/-- A shard stream arrives: for this package, or to be forwarded on VL3 (R348). -/
def arriveShard (h : ShardHdr) (crcOk : Bool) (data : List Nat) : CM Unit := do
  let c ← get
  if h.dest = c.node then keepShard h crcOk data
  else match c.routeOf h.dest with
    | none => nak h.kind 0x0F h.object h.index
    | some _ => forM_ (shardFrags h.index (data.length + 1) 0 (shardStream h data)) fun f => do
      enqueue ⟨h.dest, c.rd R.SEQ_JOB_JOB, 3, .shard f⟩

/-- SHARD_FLIT: a fragment arrives on VL3; the last one completes the stream (R347). -/
def doShardFlit (h : Hdr) (f : ShardFrag) : CM Unit := do
  let mine ← receiveFlit h (.shard f)
  if mine then do
    let c ← get
    let g := h.port * 4 + h.group
    let so := if f.offset = 0 then [] else Tbl.get [] c.shardIn g
    if so.length ≠ f.offset then modify fun c => { c with shardIn := Tbl.erase g c.shardIn }
    else
      let b := so ++ f.bytes
      if 32 ≤ b.length ∧ 32 + le b 24 4 ≤ b.length then do
        modify fun c => { c with shardIn := Tbl.erase g c.shardIn }
        let data := (b.drop 32).take (le b 24 4)
        arriveShard (shardHdrOf b) (decide (crc32 data = le b 28 4)) data
      else modify fun c => { c with shardIn := Tbl.put [] c.shardIn g b }
  else pure ()

/-- LOAD_TIMEOUT: an object without an arrival for TIMEOUT beats (R350). -/
def doLoadTimeout (kind object : Nat) : CM Unit := do
  let c ← get
  match c.loadOf kind object with
  | none => pure ()
  | some l =>
    match l.missing with
    | none => pure ()
    | some i => do
      putLoad { l with state := 5 }
      loadEvent 2 kind 0 object i 0

/-! ## Programming and confirming boards (R355 to R358, R363, R364) -/

def Chip.boardLoad (c : Chip) (b : Nat) : Option (LoadObj × BoardLoad) :=
  match c.patternLoad with
  | none => none
  | some l => (Tbl.find? l.boards b).map fun k => (l, k)

def putBoardLoad (b : Nat) (k : BoardLoad) : CM Unit := do
  let c ← get
  match c.patternLoad with
  | none => pure ()
  | some l => putLoad { l with boards := Tbl.insert b k l.boards }

/-- Boards of a die in PROGRAM. -/
def Chip.programming (c : Chip) (d : Nat) : Nat := c.boardsIn d arrProgram

/-- PROGRAM_WINDOW_START (R80, R183, R186, R355). -/
def doProgramWindowStart (b : Nat) (deferred : Bool) : CM Unit := do
  let c ← get
  match c.boardLoad b with
  | none => pure ()
  | some (l, k) =>
    let st := c.arrState b
    if l.mode ≠ 2 && decide (k.next < k.rows) && decide (st = arrEmpty ∨ st = arrReady ∨ st = arrHeld)
        && decide (c.programming (b / 6144) < 1536) && (!c.stepping || (c.windowNow b 1).isSome)
        && (!c.jobRuns || c.stepping) then do
      whenM deferred (bumpM R.SEQ_DEFER_COUNT)
      modify fun c => c.onBoard b fun x => { x with before := st }
      setBoardState b arrProgram
    else pure ()

/-- PROGRAM_WINDOW_END (R80). -/
def doProgramWindowEnd (b : Nat) : CM Unit := do
  let c ← get
  if c.arrState b = arrProgram then setBoardState b (if c.copyValid b && (c.board b).trued then arrReady else arrEmpty) else pure ()

/-- Beats left of a board's PROGRAM window; a free window has no end. -/
def Chip.windowLeft (c : Chip) (b : Nat) : Nat :=
  if !c.stepping then 38
  else match c.windowNow b 1 with
    | none => 0
    | some w => c.runStart + w.start + w.length - c.rd R.TIMEBASE_BEAT_BEAT

/-- PROGRAM_ROW: the next row of a board is started; before the first pulse of the load its wear record is counted
(R355, R363, R364). -/
def doProgramRow (b : Nat) : CM Unit := do
  let c ← get
  match c.boardLoad b with
  | none => pure ()
  | some (l, k) =>
    if c.arrState b = arrProgram && !k.busy && decide (k.next < k.rows) && decide (38 ≤ c.windowLeft b) then
      let w := c.wearOf b
      if k.counted then putBoardLoad b { k with busy := true }
      else if 20000 ≤ w.count then refuseLoad l { code := 7, entry := b % 6144, die := b / 6144, tile := b % 6144 / 128 }
      else do
        let w' := if k.up then { w with count := w.count + 1, validU := false, genU := 0 }
          else { w with count := w.count + 1, validL := false, genL := 0 }
        setWear b w'
        whenM (decide (w'.count = 16000)) (loadEvent 8 1 0 l.object b 0)
        putBoardLoad b { k with busy := true, counted := true }
    else pure ()

/-- Pairs of a row of a board that read otherwise than intended become stuck corrections of the load (R356). -/
def findStuck (b : Nat) (pairs : List (Nat × Nat × Nat)) : CM Unit := forM_ pairs fun p => do
  setCells b p.1 p.2.1 p.2.2
  let c ← get
  let t := tileOfBoard b
  let e := c.stuckEntry b p.1 p.2.1 p.2.2
  match c.patternLoad with
  | none => pure ()
  | some l => do
    let old := (Tbl.get [] l.welt t).any fun q => q.stuck && decide (q.place = e.place)
    let rest := (Tbl.get [] l.welt t).filter fun q => !(q.stuck && decide (q.place = e.place))
    if p.2.2 = c.wantCodes b p.1 p.2.1 then do
      whenM old (countStuck b p.1 false)
      putLoad { l with welt := Tbl.insert t rest l.welt }
    else do
      whenM (!old) do
        countStuck b p.1 true
        bumpM R.LOAD_STUCK_TOTAL_COUNT
        addStuckRecord t 0 e
      putLoad { l with welt := Tbl.insert t (rest ++ [e]) l.welt }

/-- A board's copy is confirmed once it is programmed, trued and read back (R358, R359). -/
def confirmBoard (b : Nat) : CM Unit := do
  let c ← get
  match c.boardLoad b with
  | none => pure ()
  | some (l, k) =>
    if k.rows ≤ k.next && !k.busy && k.trued && decide (k.rows ≤ k.readAt) && !k.done then do
      let o := boardOff b
      wrM (validFld k.up) o 1
      wrM (genFld k.up) o l.object
      wrM R.TRUE_READBACK_ACTIVE o 0
      let w := c.wearOf b
      setWear b (if k.up then { w with validU := true, genU := l.object } else { w with validL := true, genL := l.object })
      putBoardLoad b { k with done := true }
      let c ← get
      whenM (decide (c.arrState b = arrEmpty) && c.copyValid b && (c.board b).trued) (setBoardState b arrReady)
      advancePattern l.object
    else pure ()

/-- ROW_COMPLETE: the row holds the intended codes but for the pairs given (R356). -/
def doRowComplete (b : Nat) (left : List (Nat × Nat)) : CM Unit := do
  let c ← get
  match c.boardLoad b with
  | none => pure ()
  | some (l, k) =>
    if k.busy then do
      let row := (if k.up then 512 else 0) + k.next
      let codes := (upFrom 0 512).map fun j => match left.find? fun e => decide (e.1 = j ∧ e.2 < 64) with
        | some e => e.2
        | none => c.wantCodes b row j
      modify fun c => { c with cells := Tbl.put [] c.cells b (replaceRange (Tbl.get [] c.cells b) (row * 512) codes) }
      putBoardLoad b { k with busy := false, next := nextRow k.rows k.skip (k.next + 1) }
      findStuck b (((upFrom 0 512).zip codes).filterMap fun e => if e.2 = c.wantCodes b row e.1 then none else some (row, e.1, e.2))
      confirmBoard b
      advancePattern l.object
    else pure ()

/-- Rows of a copy are read back after its truing; pairs that read otherwise are given (R358). -/
def readBack (b rows : Nat) (found : List Finding) : CM Unit := do
  let c ← get
  match c.boardLoad b with
  | none => pure ()
  | some (_, k) =>
    if k.rows ≤ k.next && !k.busy && !k.done then do
      let last := min k.rows (k.readAt + rows)
      let base := if k.up then 512 else 0
      findStuck b ((found.filter fun f => decide (base + k.readAt ≤ f.row ∧ f.row < base + last ∧ f.col < 512 ∧ f.reads < 64)).map
        fun f => (f.row, f.col, f.reads))
      let c ← get
      match c.boardLoad b with
      | none => pure ()
      | some (_, k) => do
        putBoardLoad b { k with readAt := last }
        wrM R.TRUE_READBACK_ACTIVE (boardOff b) 1
        wrM R.TRUE_READBACK_ROW (boardOff b) (last % 1024)
    else pure ()

/-! ## Truing commands (R375 to R380, R385) -/

/-- TRUING_COMPLETE: a truing's search and verification have ended; a free one takes effect, with the loader's read-back
of the copy it confirms. -/
def doTruingComplete (b : Nat) (search verify : Bool) (ts : List Nat) (found : List Finding) : CM Unit := do
  let c ← get
  match Tbl.find? c.truings b with
  | none => pure ()
  | some tr =>
    if c.arrState b ≠ arrTruing ∨ tr.result.isSome = true then pure ()
    else do
      let tr := { tr with result := some (truingResult tr.kind search verify ts) }
      modify fun c => { c with truings := Tbl.insert b tr c.truings }
      if tr.free && (!c.jobRuns || c.inGap) then do
        readBack b 1024 found
        settleTruing b tr false
        confirmBoard b
      else pure ()

/-- TRUING_WINDOW_END: the result takes effect with the findings of the window's scrubs; `rows` rows of an idle copy have
been read back in the window (R377, R379, R380, R96). -/
def doTruingWindowEnd (b rows : Nat) (found : List Finding) : CM Unit := do
  let c ← get
  match Tbl.find? c.truings b with
  | none => pure ()
  | some tr =>
    if c.arrState b ≠ arrTruing ∨ tr.free = true then pure ()
    else do
      let full ← applyFindings b tr.found
      readBack b rows found
      settleTruing b tr full
      confirmBoard b

end Sys2Proof.Machine
end

