-- ==== Sys2Proof/Machine/Power.lean ====
section
/-! DEFINITION. Power and thermal (chapter 18): set points and gear voltages (R469, R471), rail comparators (R470), the
thermal and power levels (R472 to R475), alerts and trips (R477 to R479), the power-fail warning (R480). -/
namespace Sys2Proof.Machine

/-! ## Set points (R469, R471) -/

def halfVolt (h g : Nat) : Fld × Nat :=
  (match g with
    | 0 => R.PWR_H_VOLT_GEAR0
    | 1 => R.PWR_H_VOLT_GEAR1
    | _ => R.PWR_H_VOLT_GEAR2, halfWin h)

/-- The fused set point of a gear (R471). -/
def Chip.gearCode (c : Chip) (h g : Nat) : Nat := c.rd (halfVolt h g).1 (halfVolt h g).2

/-- A half is tripped (R478). -/
def Chip.tripped (c : Chip) (h : Nat) : Bool := c.flag R.PWR_H_STATE_TRIPPED (halfWin h)

/-- Send a half's set point on its bus where it changes; the rail then takes its time T (R469).  An intrusive JTAG
instruction holds the bus low, or drives it from the boundary register (R552). -/
def setPoint (h code : Nat) : CM Unit := do
  let c ← get
  let k := max 20 (min 70 code)
  if c.rd R.PWR_H_VOLT_SET (halfWin h) = k then pure ()
  else do
    wrM R.PWR_H_VOLT_SET (halfWin h) k
    wrM R.PWR_H_STATE_VSET_PENDING (halfWin h) 1
    whenM (!c.intrusive) (modify fun c => { c with sent := c.sent ++ [.setPoint (h / 2) (h % 2) k] })

/-- VSET_SETTLED: the time T has passed (R469). -/
def doVsetSettled (h : Nat) : CM Unit := wrM R.PWR_H_STATE_VSET_PENDING (halfWin h) 0

/-- Every half requests a gear's set point; a tripped half keeps the one of R478. -/
def requestGear (g : Nat) : CM Unit := forM_ (upFrom 0 16) fun h => do
  let c ← get
  whenM (!c.tripped h) (setPoint h (c.gearCode h g))

/-- At the commit that announces a gear, the halves whose rail must rise send the new code (R471, R177). -/
def raiseRails (g : Nat) : CM Unit := forM_ (upFrom 0 16) fun h => do
  let c ← get
  whenM (!c.tripped h && decide (c.rd R.PWR_H_VOLT_SET (halfWin h) < c.gearCode h g)) (setPoint h (c.gearCode h g))

/-- A half has run below its gear clock in the current step (R180). -/
def markSlowed (h : Nat) : CM Unit := do
  let c ← get
  if c.stepping && c.belowGear h && !c.flag R.TIMEBASE_HALF_CLK_SLOWED (4 * h) then do
    wrM R.TIMEBASE_HALF_CLK_SLOWED (4 * h) 1
    bumpM R.TIMEBASE_HALF_CLK_LATE_STEPS (4 * h)
  else pure ()

/-- The halves' clocks at a step start: a half whose rail has settled takes the step's gear, else it keeps the old clock;
a lower set point is sent with the switch (R471, R178). -/
def switchClocks : CM Unit := forM_ (upFrom 0 16) fun h => do
  let c ← get
  let g := c.rd R.SEQ_STATE_GEAR
  wrM R.TIMEBASE_HALF_CLK_SLOWED (4 * h) 0
  if c.rd R.TIMEBASE_HALF_CLK_GEAR (4 * h) ≠ g then
    if c.gearCode h g < c.rd R.PWR_H_VOLT_SET (halfWin h) then do
      wrM R.TIMEBASE_HALF_CLK_GEAR (4 * h) g
      whenM (!c.tripped h) (setPoint h (c.gearCode h g))
    else whenM (!c.flag R.PWR_H_STATE_VSET_PENDING (halfWin h)) (wrM R.TIMEBASE_HALF_CLK_GEAR (4 * h) g)
  else pure ()
  markSlowed h

/-- GEAR_CLOCK_SWITCH: the first beat edge after T at a half that started the step at the old clock (R471). -/
def doGearClockSwitch (h : Nat) : CM Unit := do
  let c ← get
  if c.flag R.PWR_H_STATE_VSET_PENDING (halfWin h) then pure ()
  else wrM R.TIMEBASE_HALF_CLK_GEAR (4 * h) (c.rd R.SEQ_STATE_GEAR)

/-! ## Tests of units (R416) -/

/-- A unit is held for its third shelving (R406). -/
def Chip.unitHeld (c : Chip) (key : Nat) : Bool := c.heldUnits.contains key

/-- The test of a unit that is out of service: at once with no job running, else in the next replay gap (R416). -/
def orderTest (key : Nat) : CM Unit := do
  let c ← get
  if c.unitHeld key then pure ()
  else if c.jobRuns then modify fun c => { c with readmits := c.readmits.filter (· != key) ++ [key] }
  else modify fun c => { c with testing := c.testing.filter (· != key) ++ [key] }

/-- A half that has left service for its rail or its heat, and has neither left, is tested (R470, R478). -/
def testHalf (h : Nat) : CM Unit := do
  let c ← get
  whenM (c.out 2 h && !c.tripped h && !c.flag R.PWR_H_STATE_SUPPLY_FAIL (halfWin h)) (orderTest (unitKey 2 h))

/-! ## Rail comparators (R470) -/

/-- Both halves of a die lose a rail. -/
def dieSupply (d : Nat) (f : Fld) : CM Unit := do
  wrM f (dieWin d) 1
  showLostDie d true
  raiseHalf (2 * d) 0x22
  raiseHalf (2 * d + 1) 0x22

/-- A MONITOR record of a die (R450, R454). -/
def monitorRecord (d : Nat) : CM Unit := do
  let c ← get
  takeRecord d 14 (leBytes 4 (c.peek (R.MON_LASER_STATUS_LOW.addr + dieOff d)) ++
    leBytes 4 (c.peek (R.MON_STATUS_SCAN_POS.addr + dieOff d)))

/-- REF_FALLBACK sets on a die. -/
def setFallback (d : Nat) : CM Unit := do
  let c ← get
  if c.flag R.MON_STATUS_REF_FALLBACK (dieOff d) then pure ()
  else do
    wrM R.MON_STATUS_REF_FALLBACK (dieOff d) 1
    monitorRecord d

/-- RAIL_COMPARATOR_FIRE: a rail of die `d`, or of its half `e` (R470). -/
def doRailComparatorFire (rail : Rail) (d e : Nat) : CM Unit := do
  let c ← get
  match rail with
  | .vcore =>
    let h := 2 * d + e
    if c.flag R.PWR_H_STATE_VSET_PENDING (halfWin h) then pure ()
    else do
      bumpM R.PWR_H_SUPPLY_COUNT (halfWin h)
      wrM R.PWR_H_STATE_SUPPLY_FAIL (halfWin h) 1
      showLostDie d true
      raiseHalf h 0x22
  | .varr => dieSupply d R.PWR_D_RAILS_VARR
  | .vprog => dieSupply d R.PWR_D_RAILS_VPROG
  | .vsram => dieSupply d R.PWR_D_RAILS_VSRAM
  | .vhbm => do
    wrM R.PWR_D_RAILS_VHBM (dieWin d) 1
    doStackFailure d
  | .vopt => do
    wrM R.PWR_D_RAILS_VOPT (dieWin c.master) 1
    forM_ (upFrom 0 24) groupDown
    forM_ (upFrom 0 2) doFrontLinkDown
  | .vddaMon => do
    wrM R.PWR_D_RAILS_VDDA_MON (dieWin c.master) 1
    forM_ (upFrom 0 8) fun x => whenM (decide (c.rd R.MON_CTRL_REF_SEL (dieOff x) = 2)) (setFallback x)

/-- SUPPLY_QUIET: a half's comparators have been quiet for 1 ms (R470). -/
def doSupplyQuiet (h : Nat) : CM Unit := do
  wrM R.PWR_H_STATE_SUPPLY_FAIL (halfWin h) 0
  let c ← get
  let d := h / 2
  let other := 2 * d + (1 - h % 2)
  whenM (!c.flag R.PWR_H_STATE_SUPPLY_FAIL (halfWin other) && !c.unitHeld (unitKey 2 h) && !c.unitHeld (unitKey 2 other))
    (showLostDie d false)
  testHalf h

/-! ## Levels (R472 to R475) -/

/-- A raw code stands for `t` °C or more (R473). -/
def hot (code t : Nat) : Bool := decide ((t + 64) * 16 ≤ code)

/-- A conversion of a half's diode at or above THROTTLE: its level rises, at most once in any 64 conversions of the die's
converter, which take 64 µs (R473, R389). -/
def riseLevel (h : Nat) : CM Unit := do
  let c ← get
  let now := Tbl.get 0 c.convs (h / 2)
  match Tbl.find? c.rose h with
  | some last =>
    if now < last + 64 then pure ()
    else do
      modify fun c => { c with rose := Tbl.insert h now c.rose }
      wrM R.PWR_H_STATE_T_LEVEL (halfWin h) (min 8 (c.rd R.PWR_H_STATE_T_LEVEL (halfWin h) + 1))
      markSlowed h
  | none => do
    modify fun c => { c with rose := Tbl.insert h now c.rose }
    wrM R.PWR_H_STATE_T_LEVEL (halfWin h) (min 8 (c.rd R.PWR_H_STATE_T_LEVEL (halfWin h) + 1))
    markSlowed h

/-- Diodes of a half whose conversions set its level, the stack's sensor among them (R473, R479); and those that can
set its ALERT or trip it (R477, R478). -/
def levelDiodes (h : Nat) : List Nat := [2 * (h % 2), 2 * (h % 2) + 1, 6]
def alertDiodes (h : Nat) : List Nat := [2 * (h % 2), 2 * (h % 2) + 1, 4, 5]

/-- The latest conversion of each of the diodes lay below `t` °C. -/
def Chip.coolBelow (c : Chip) (h t : Nat) (ds : List Nat) : Bool :=
  ds.all fun x => !hot (Tbl.get 0 c.rawTemp (h / 2 * 8 + x)) t

/-- THERMAL_LEVEL_FALL: a full 1 ms below THROTTLE − HYST has passed (R473). -/
def doThermalLevelFall (h : Nat) : CM Unit := do
  let c ← get
  let l := c.rd R.PWR_H_STATE_T_LEVEL (halfWin h)
  whenM (decide (0 < l) && c.coolBelow h (c.rd R.PWR_THERM_THROTTLE_C - c.rd R.PWR_THERM_HYST_C) (levelDiodes h))
    (wrM R.PWR_H_STATE_T_LEVEL (halfWin h) (l - 1))

/-- The reference in use on a die, in 2⁻¹⁶ mV (R391): internal, REFIN as channel 9 reads it, or VDDA_MON. -/
def Chip.monRef (c : Chip) (d : Nat) : Nat :=
  match c.rd R.MON_CTRL_REF_SEL (dieOff d), c.flag R.MON_STATUS_REF_FALLBACK (dieOff d) with
  | 1, false => c.rd R.MON_LAST_VALUE (dieOff d + 36) * 2500
  | 2, _ => 1800 * 65536
  | _, _ => 1250 * 65536

/-- A rail's voltage for the sum of R474, in 2⁻³² mV: by its channel, gain 1, or `mv` where the scan leaves it out. -/
def Chip.railVolt (c : Chip) (d ch mv : Nat) : Nat :=
  if bit (c.rd R.MON_SCAN_MASK (dieOff d)) ch then c.rd R.MON_LAST_VALUE (dieOff d + 4 * ch) * c.monRef d else mv * 2 ^ 32

/-- A rail's current in 2⁻⁸ A, or the rail's maximum `amp` where the scan leaves its channel out. -/
def Chip.railAmp (c : Chip) (d ch amp : Nat) : Nat :=
  if bit (c.rd R.MON_SCAN_MASK (dieOff d)) ch then c.rd R.MON_LAST_VALUE (dieOff d + 4 * ch) else amp * 256

/-- The PROG term, in mW (R475). -/
def Chip.progPower (c : Chip) : Nat := 60 * ((upFrom 0 8).map c.progBoards).foldl (· + ·) 0

/-- The package power of R474, in 2⁻⁴⁰ mW. -/
def Chip.packagePower (c : Chip) : Nat :=
  let vset (h : Nat) := 500 + 5 * c.rd R.PWR_H_VOLT_SET (halfWin h)
  let die (d : Nat) := c.railVolt d 0 (vset (2 * d)) * c.railAmp d 29 90 + c.railVolt d 1 (vset (2 * d + 1)) * c.railAmp d 30 90
    + c.railVolt d 2 900 * c.railAmp d 31 320
  ((upFrom 0 8).map die).foldl (· + ·) 0 + (c.progPower + 1000 * c.rd R.PWR_FIXED_FIXED_W) * 2 ^ 40

/-- One watt in 2⁻⁴⁰ mW. -/
def watt : Nat := 1000 * 2 ^ 40

/-- POWER_EVALUATION: every 1 ms, P against the cap (R474). -/
def doPowerEvaluation : CM Unit := do
  let c ← get
  let p := c.packagePower
  let cap := c.rd R.PWR_CAP_CAP_W
  let below := decide (p + c.rd R.PWR_CAP_HYST_W * watt < cap * watt)
  modify fun c => { c with power := p, powerBelow := if below then c.powerBelow + 1 else 0 }
  wrM R.PWR_POWER_P_W 0 (min 65535 (p / watt))
  wrM R.PWR_POWER_PROG_W 0 (min 65535 (c.progPower / 1000))
  wrM R.PWR_STATUS_CAP_ACTIVE 0 (b2n (decide (cap * watt < p)))
  if cap * watt < p then do
    bumpM R.PWR_CAP_MS_COUNT
    wrM R.PWR_STATUS_P_LEVEL 0 (min 8 (c.rd R.PWR_STATUS_P_LEVEL + 1))
    forM_ (upFrom 0 16) markSlowed
  else pure ()
  forM_ (upFrom 0 16) fun h => do
    let c ← get
    whenM (decide (0 < c.level h)) (bumpM R.PWR_H_THROTTLE_MS_COUNT (halfWin h))

/-- POWER_LEVEL_RELEASE: ten evaluations in a row below the cap less its hysteresis (R474). -/
def doPowerLevelRelease : CM Unit := do
  let c ← get
  if 10 ≤ c.powerBelow then do
    modify fun c => { c with powerBelow := 0 }
    wrM R.PWR_STATUS_P_LEVEL 0 (c.rd R.PWR_STATUS_P_LEVEL - 1)
  else pure ()

/-- The power budget and the power-fail warning let a row start on a board of a die (R475, R480): one that the budget
stops counts as deferred. -/
def rowBudget (d : Nat) : CM Bool := do
  let c ← get
  if c.flag R.PWR_STATUS_PFAIL then pure false
  else if c.power + 60 * 2 ^ 40 ≤ c.rd R.PWR_CAP_CAP_W * watt ∧ c.progBoards d < 1536 then pure true
  else do
    bumpM R.PWR_D_PROG_DEFER_COUNT (dieWin d)
    pure false

/-- PROGRAM_ROW within the budget (R355, R475, R480). -/
def doProgramRowBudgeted (b : Nat) : CM Unit := do
  let ok ← rowBudget (b / 6144)
  whenM ok (doProgramRow b)

/-! ## Alerts and trips (R477, R478) -/

/-- Record of a diode: its channel, the half, its latest result (R454). -/
def diodeRecord (cls d x e : Nat) : CM Unit := do
  let c ← get
  takeRecord d cls ([10 + x, e] ++ leBytes 2 (c.rd R.MON_LAST_VALUE (dieOff d + 4 * (10 + x))))

/-- Halves of a die that a diode speaks for (R473, R477). -/
def diodeHalves (d x : Nat) : List Nat := if x < 4 then [2 * d + x / 2] else [2 * d, 2 * d + 1]

/-- A half's ALERT rises. -/
def setAlert (d x h : Nat) : CM Unit := do
  let c ← get
  if c.flag R.PWR_H_STATE_ALERT (halfWin h) then pure ()
  else do
    wrM R.PWR_H_STATE_ALERT (halfWin h) 1
    wrM R.PWR_STATUS_ALERT 0 1
    bumpM R.PWR_ALERTS_COUNT
    diodeRecord 6 d x (h % 2)

/-- ALERT_CLEAR: 1 ms below ALERT_C − HYST_C (R477). -/
def doAlertClear (h : Nat) : CM Unit := do
  let c ← get
  if c.coolBelow h (c.rd R.PWR_THERM_ALERT_C - c.rd R.PWR_THERM_HYST_C) (alertDiodes h) then do
    wrM R.PWR_H_STATE_ALERT (halfWin h) 0
    let c ← get
    wrM R.PWR_STATUS_ALERT 0 (b2n ((upFrom 0 16).any fun x => c.flag R.PWR_H_STATE_ALERT (halfWin x)))
  else pure ()

/-- A raw conversion of diode `x` of a die reaches the throttle and the alert (R473, R477). -/
def thermalConversion (d x code : Nat) : CM Unit := do
  modify fun c => { c with rawTemp := Tbl.insert (d * 8 + x) code c.rawTemp }
  let c ← get
  whenM (decide (x < 4) && hot code (c.rd R.PWR_THERM_THROTTLE_C)) (riseLevel (2 * d + x / 2))
  whenM (hot code (c.rd R.PWR_THERM_ALERT_C)) (forM_ (diodeHalves d x) (setAlert d x))

/-- A half trips (R478). -/
def tripHalf (d x h : Nat) : CM Unit := do
  let c ← get
  if c.tripped h then pure ()
  else do
    wrM R.PWR_H_STATE_TRIPPED (halfWin h) 1
    wrM R.PWR_STATUS_THERMTRIP 0 1
    bumpM R.PWR_TRIPS_COUNT
    setPoint h 20
    raiseHalf h 0x21
    diodeRecord 7 d x (h % 2)

/-- THERMAL_TRIP: the 115 °C comparator of diode `x` fires (R478). -/
def doThermalTrip (d x : Nat) : CM Unit := forM_ (diodeHalves d x) (tripHalf d x)

/-- TRIP_RELEASE: 1 ms of every diode below ALERT_C − HYST_C (R478). -/
def doTripRelease (h : Nat) : CM Unit := do
  let c ← get
  if c.tripped h && c.coolBelow h (c.rd R.PWR_THERM_ALERT_C - c.rd R.PWR_THERM_HYST_C) (alertDiodes h) then do
    wrM R.PWR_H_STATE_TRIPPED (halfWin h) 0
    let c ← get
    wrM R.PWR_STATUS_THERMTRIP 0 (b2n ((upFrom 0 16).any c.tripped))
    setPoint h (c.gearCode h (c.rd R.SEQ_STATE_GEAR))
    testHalf h
  else pure ()

/-- STACK_TEMP_READOUT: a stack's temperature in °C (R479). -/
def doStackTempReadout (d temp : Nat) : CM Unit := do
  wrM R.CTX_STACK_TEMP_TEMP (dieOff d) (min 255 temp)
  let c ← get
  if 95 ≤ temp then do
    set { c with rawTemp := Tbl.insert (d * 8 + 6) ((c.rd R.PWR_THERM_THROTTLE_C + 64) * 16) c.rawTemp }
    riseLevel (2 * d)
    riseLevel (2 * d + 1)
    whenM (decide (105 ≤ temp)) (doStackFailure d)
  else modify fun c => { c with rawTemp := Tbl.erase (d * 8 + 6) c.rawTemp }

/-! ## Power-fail warning (R480, R460) -/

/-- PFAIL_ASSERT. -/
def doPfailAssert : CM Unit := do
  wrM R.PWR_STATUS_PFAIL 0 1
  wrM R.PWR_PFAIL_ASSERTED 0 1
  bumpM R.PWR_PFAIL_COUNT
  forM_ (upFrom 0 8) pfailRecord

/-- PFAIL_DEASSERT: PFAIL_MODE clears once the flush has ended (R460). -/
def doPfailDeassert : CM Unit := do
  wrM R.PWR_STATUS_PFAIL 0 0
  forM_ (upFrom 0 8) fun d => do
    let c ← get
    whenM (!c.flag R.EVR_STATUS_FLUSHING (dieOff d)) (wrM R.EVR_STATUS_PFAIL_MODE (dieOff d) 0)

end Sys2Proof.Machine
end

