-- ==== Sys2Proof/Machine/Monitor.lean ====
section
/-! DEFINITION. The monitor converter (chapter 14): conversions and their codes (R389, R390), the reference (R391), the
scan and the filters (R392 to R394), results (R395), the laser inputs (R396). -/
namespace Sys2Proof.Machine

/-- Channels that take the selected reference (R389). -/
def voltageChannel (ch : Nat) : Bool := decide (ch ≤ 8 ∨ (23 ≤ ch ∧ ch ≤ 28))

/-- Channels always scanned: 10 to 15 and 20 (R392). -/
def fixedScan : Nat := 0x0010FC00

def noMon : MonChan := ⟨[], 0⟩
def Chip.monChan (c : Chip) (d ch : Nat) : MonChan := Tbl.get noMon c.mon (d * 32 + ch)
def setMon (d ch : Nat) (x : MonChan) : CM Unit := modify fun c => { c with mon := Tbl.put noMon c.mon (d * 32 + ch) x }

/-- Restart the filters of the voltage channels (R391). -/
def restartVoltage (d : Nat) : CM Unit := forM_ ((upFrom 0 32).filter voltageChannel) fun ch => setMon d ch noMon

/-- The channel converted next: the first in the scan from SCAN_POS on, the voltage channels left out until the reference
has settled (R391, R392). -/
def Chip.nextChannel (c : Chip) (d : Nat) : Nat :=
  let pos := c.rd R.MON_STATUS_SCAN_POS (dieOff d)
  let inScan (ch : Nat) := bit (c.rd R.MON_SCAN_MASK (dieOff d)) ch
    && (c.flag R.MON_STATUS_REF_SETTLED (dieOff d) || !voltageChannel ch)
  (((upFrom 0 32).map fun k => (pos + k) % 32).find? inScan).getD pos

/-- The code of a quantity scaled in 2⁻¹⁶ codes (R390): nearest, ties to even; over range; below zero. -/
def monCode (scaled : Int) : Nat × Bool × Bool :=
  if scaled < 0 then (0, false, true)
  else if 268402688 ≤ scaled then (0xFFF, true, false)
  else (divRne scaled.toNat 65536, false, false)

/-! ## Filters (R393) -/

/-- Sums of a list's runs of `d`, at each of its places from the first. -/
def boxSums (d : Nat) : Nat → List Nat → List Nat
  | 0, _ => []
  | n + 1, l => (l.take d).foldl (· + ·) 0 :: boxSums d n (l.drop 1)

/-- Σ c_k · x[n − k] with c_k the coefficients of (1 + z⁻¹ + … + z^−(D−1))^N: N running sums of D, one after another. -/
def sincSum (d : Nat) : Nat → List Nat → Nat
  | 0, l => nth 0 l 0
  | n + 1, l => sincSum d n (boxSums d (n * (d - 1) + 1) l)

/-- A filter's result (R393): VALUE and OVR of its window. -/
def filterResult (n d : Nat) (x : MonChan) : Nat × Bool :=
  let win := x.samples.take (n * (d - 1) + 1)
  (min 65535 (divRne (16 * sincSum d n (win.map Prod.fst)) (d ^ n)), win.any Prod.snd)

/-! ## Results (R395, R396) -/

/-- A result goes to MON_DATA, or to the ring (R395). -/
def deliverResult (d ch value : Nat) (ovr settled : Bool) : CM Unit := do
  let o := dieOff d
  let c ← get
  if c.rd R.MON_CTRL_MODE o = 0 then do
    whenM (c.flag R.MON_DATA_VALID o) (wrM R.MON_STATUS_OVERRUN o 1)
    wrM R.MON_DATA_VALID o 1
    wrM R.MON_DATA_SETTLED o (b2n settled)
    wrM R.MON_DATA_OVR o (b2n ovr)
    wrM R.MON_DATA_CHANNEL o ch
    wrM R.MON_DATA_VALUE o value
  else do
    let w := c.rd R.MON_RING_WR_INDEX o
    wrM R.MON_RING_ENTRY (o + 4 * w)
      (c.rd R.MON_RESULTS_COUNT o % 256 * 2 ^ 24 + b2n ovr * 2 ^ 22 + b2n settled * 2 ^ 21 + ch * 2 ^ 16 + value)
    let r := c.rd R.MON_RING_RD_INDEX o
    if (w + 1) % 16384 = r then do
      wrM R.MON_RING_RD_INDEX o ((r + 1) % 16384)
      bumpM R.MON_RING_LOST_COUNT o
    else pure ()
    wrM R.MON_RING_WR_INDEX o ((w + 1) % 16384)

/-- A LASER_IN result against MON_LASER (R396): the input of dies 2i and 2i + 1. -/
def laserResult (d value : Nat) : CM Unit := do
  let o := dieOff d
  let c ← get
  let code := value / 16
  let i := laserOf d
  let pair := [2 * i, 2 * i + 1]
  let low := c.flag R.MON_LASER_STATUS_LOW o
  let recovered (x : Nat) : Bool :=
    decide (c.rd R.MON_LASER_MIN (dieOff x) + 0x20 ≤ c.rd R.MON_LAST_VALUE (dieOff x + 80) / 16)
  if code < c.rd R.MON_LASER_MIN o then
    if low then pure ()
    else do
      forM_ pair fun x => wrM R.MON_LASER_STATUS_LOW (dieOff x) 1
      monitorRecord d
      laserLow i true
  else if low && pair.all recovered then do
    forM_ pair fun x => wrM R.MON_LASER_STATUS_LOW (dieOff x) 0
    laserLow i false
  else pure ()
  if c.rd R.MON_LASER_MAX o < code then
    if c.flag R.MON_LASER_STATUS_HIGH o then pure ()
    else do
      wrM R.MON_LASER_STATUS_HIGH o 1
      wrM R.MON_LASER_STATUS_HIGH_SEEN o 1
      monitorRecord d
  else wrM R.MON_LASER_STATUS_HIGH o 0

/-- A filter's result in force (R395). -/
def monResult (d ch value : Nat) (ovr settled : Bool) : CM Unit := do
  let o := dieOff d
  wrM R.MON_LAST_VALID (o + 4 * ch) 1
  wrM R.MON_LAST_SETTLED (o + 4 * ch) (b2n settled)
  wrM R.MON_LAST_OVR (o + 4 * ch) (b2n ovr)
  wrM R.MON_LAST_VALUE (o + 4 * ch) value
  bumpM R.MON_RESULTS_COUNT o
  deliverResult d ch value ovr settled
  whenM (decide (ch = 20)) (laserResult d value)
  whenM (decide (10 ≤ ch ∧ ch ≤ 13)) (tempDue d)

/-- A channel's filter at its order and decimation takes a sample; every D-th gives a result (R393). -/
def filterSample (d ch code : Nat) (overN : Bool) : CM Unit := do
  let c ← get
  let o := dieOff d + 4 * ch
  let n := c.rd R.MON_FILT_ORDER_M1 o + 1
  let dec := c.rd R.MON_FILT_DECIM_M1 o + 1
  let old := c.monChan d ch
  let x : MonChan := ⟨((code, overN) :: old.samples).take (n * (dec - 1) + 1), old.count + 1⟩
  setMon d ch x
  if x.count % dec = 0 then
    let r := filterResult n dec x
    monResult d ch r.1 r.2 (decide (n * dec ≤ x.count))
  else pure ()

/-! ## Conversions -/

/-- REFIN is checked at every scan of channel 9 (R391). -/
def checkRefin (d code : Nat) : CM Unit := do
  let c ← get
  if c.rd R.MON_CTRL_REF_SEL (dieOff d) = 1 ∧ (code < 1638 ∨ 2949 < code)
      ∧ c.flag R.MON_STATUS_REF_FALLBACK (dieOff d) = false then do
    setFallback d
    restartVoltage d
  else pure ()

/-- Set a bit of a status field. -/
def setBitOf (f : Fld) (o i : Nat) : CM Unit := do
  let m ← rdM f o
  wrM f o (bitOr m i)

/-- MON_CONVERSION: a die's converter converts the next channel of its scan; `scaled` is the input's value in 2⁻¹⁶ codes
(R389 to R394). -/
def doMonConversion (d : Nat) (scaled : Int) : CM Unit := do
  let c ← get
  let o := dieOff d
  let ch := c.nextChannel d
  let (code, overN, under) := monCode scaled
  modify fun c => { c with convs := Tbl.put 0 c.convs d (Tbl.get 0 c.convs d + 1) }
  whenM overN (setBitOf R.MON_OVR_OVR o ch)
  whenM under (setBitOf R.MON_UNDR_UNDR o ch)
  whenM (decide (ch = 9)) (checkRefin d code)
  whenM (decide (10 ≤ ch ∧ ch ≤ 15)) (thermalConversion d (ch - 10) code)
  let suspect := Tbl.get 0 c.suspect d
  if 0 < suspect then do
    bumpM R.MON_SUSPECT_COUNT o
    match (c.monChan d ch).samples.head? with
    | some p => filterSample d ch p.1 p.2
    | none => filterSample d ch 0 false
  else filterSample d ch code overN
  modify fun c => { c with suspect := Tbl.put 0 c.suspect d (if overN then 2 else suspect - 1) }
  wrM R.MON_STATUS_SCAN_POS o ((ch + 1) % 32)
  let c ← get
  wrM R.MON_STATUS_SCAN_POS o (c.nextChannel d)

/-! ## Writes to its registers (R391 to R393) -/

/-- The reference that starts to settle (R391). -/
def startRef (d sel : Nat) : CM Unit := do
  wrM R.MON_CTRL_REF_SEL (dieOff d) sel
  wrM R.MON_STATUS_REF_SETTLED (dieOff d) 0
  wrM R.MON_STATUS_REF_FALLBACK (dieOff d) 0
  restartVoltage d

/-- REF_SEL_WRITE: 3 is clamped to 2. -/
def doRefSelWrite (src d sel : Nat) : CM Unit := do
  whenM (decide (2 < sel)) (clampEvent src 0 (R.MON_CTRL_REF_SEL.addr + dieOff d))
  startRef d (min 2 sel)

/-- REF_SETTLE: 200 µs for the internal reference, 50 µs otherwise, have passed. -/
def doRefSettle (d : Nat) : CM Unit := wrM R.MON_STATUS_REF_SETTLED (dieOff d) 1

/-- FILTER_WRITE: a write to MON_FILTn restarts the channel's filter. -/
def doFilterWrite (d n v : Nat) : CM Unit := do
  wrM R.MON_FILT_ORDER_M1 (dieOff d + 4 * n) (v / 65536 % 4)
  wrM R.MON_FILT_DECIM_M1 (dieOff d + 4 * n) (v % 1024)
  setMon d n noMon

/-- MON_SCAN_WRITE: the fixed channels stay; a channel that enters the scan restarts its filter (R392, R393). -/
def doMonScanWrite (src d mask_ : Nat) : CM Unit := do
  let old ← rdM R.MON_SCAN_MASK (dieOff d)
  let new := mask_ % 2 ^ 32 ||| fixedScan
  whenM (decide (mask_ % 2 ^ 32 ≠ new)) (clampEvent src 0 (R.MON_SCAN_MASK.addr + dieOff d))
  wrM R.MON_SCAN_MASK (dieOff d) new
  forM_ (upFrom 0 32) fun ch => whenM (bit new ch && !bit old ch) (setMon d ch noMon)

end Sys2Proof.Machine
end

