-- ==== Sys2Proof/Machine/Timebase.lean ====
section
/-! DEFINITION. The timebase (chapter 7): sync edges (R161, R162), loss of the reference (R163), the epoch (R164), timing
samples and θ (R166, R168). -/
namespace Sys2Proof.Machine

/-- Reference cycles of a sync period: 65,536 beats of 64 (R160, R161). -/
def syncPeriod : Nat := 4194304

def Chip.beat (c : Chip) : Nat := c.rd R.TIMEBASE_BEAT_BEAT
/-- The beat counter counts (R160, R163). -/
def Chip.counts (c : Chip) : Bool := c.flag R.TIMEBASE_STATUS_LOCKED || c.flag R.TIMEBASE_STATUS_HOLDOVER
/-- θ and θ_applied (R166, R167). -/
def Chip.theta (c : Chip) : Int := sext 24 (c.rd R.TIMEBASE_THETA_THETA)
def Chip.thetaApplied (c : Chip) : Int := sext 16 (c.rd R.TIMEBASE_THETA_APPLIED_BEATS)
/-- Head time of the local beat, and the local beat of a head-time beat (R167). -/
def Chip.headBeat (c : Chip) : Nat := trunc 48 ((c.beat : Int) - c.thetaApplied)
def Chip.localBeat (c : Chip) (s : Nat) : Nat := trunc 48 ((s : Int) + c.thetaApplied)

/-- A TIME record on the master die (R450, R454). -/
def timeRecord (event : Nat) : CM Unit := do
  let c ← get
  takeRecord c.master 9 ([event, 0, 0, 0] ++ leBytes 4 (c.peek R.TIMEBASE_STATUS_LOCKED.addr)
    ++ leBytes 4 (c.peek R.TIMEBASE_THETA_THETA.addr))

/-- One reference cycle of the time base (R160). -/
def tickTime : CM Unit := do
  let c ← get
  if c.counts then
    if c.refcyc = 63 then do
      set { c with refcyc := 0 }
      wrM R.TIMEBASE_BEAT_BEAT 0 (c.beat + 1)
    else set { c with refcyc := c.refcyc + 1 }
  else pure ()

/-! ## BEAT_SYNC (R161, R162, R164) -/

/-- The counter takes the position of a sync edge. -/
def alignSync : CM Unit := do
  let c ← get
  set { c with refcyc := 0 }
  wrM R.TIMEBASE_BEAT_BEAT 0 (c.beat / 65536 * 65536)

/-- A good edge: the pending epoch takes effect, the misses end.  An edge before its expected position begins the beat. -/
def goodSync (early : Bool) : CM Unit := do
  bumpM R.TIMEBASE_SYNC_GOOD_COUNT
  wrM R.TIMEBASE_STATUS_SYNC_LOST 0 0
  modify fun c => { c with seq := { c.seq with misses := 0 } }
  let c ← get
  if c.flag R.TIMEBASE_STATUS_EPOCH_PENDING then do
    wrM R.TIMEBASE_BEAT_BEAT 0 (c.rd R.TIMEBASE_EPOCH_EPOCH_HI * 65536)
    wrM R.TIMEBASE_STATUS_EPOCH_VALID 0 1
    wrM R.TIMEBASE_STATUS_EPOCH_PENDING 0 0
    whenM early (modify fun c => { c with refcyc := 0 })
  else pure ()

/-- SYNC_EDGE: a rising BEAT_SYNC edge in this reference cycle. -/
def doSyncEdge : CM Unit := do
  let c ← get
  let pos := c.beat % 65536 * 64 + c.refcyc
  let off := min pos (syncPeriod - pos)
  if !c.flag R.TIMEBASE_STATUS_LOCKED then pure ()
  else if !c.flag R.TIMEBASE_STATUS_SYNC_SEEN then do
    alignSync
    wrM R.TIMEBASE_STATUS_SYNC_SEEN 0 1
  else if off ≤ c.rd R.TIMEBASE_CFG_SYNC_TOL then goodSync (decide (syncPeriod / 2 < pos))
  else do
    bumpM R.TIMEBASE_SYNC_ERR_COUNT
    if c.jobRuns then pure () else alignSync

/-- SYNC_MISS: no edge in the window of an expected position (R162). -/
def doSyncMiss : CM Unit := do
  bumpM R.TIMEBASE_SYNC_MISS_COUNT
  modify fun c => { c with seq := { c.seq with misses := c.seq.misses + 1 } }
  let c ← get
  if 4 ≤ c.seq.misses ∧ c.flag R.TIMEBASE_STATUS_SYNC_LOST = false then do
    wrM R.TIMEBASE_STATUS_SYNC_LOST 0 1
    timeRecord 3
  else pure ()

/-! ## RREF (R163) -/

/-- RREF_LOST: RREF stops or leaves its lock range. -/
def doRrefLost : CM Unit := do
  let c ← get
  if c.flag R.TIMEBASE_STATUS_LOCKED then do
    wrM R.TIMEBASE_STATUS_LOCKED 0 0
    wrM R.TIMEBASE_STATUS_RREF_LOST 0 1
    wrM R.TIMEBASE_STATUS_HOLDOVER 0 1
    timeRecord 1
  else pure ()

/-- RREF_RETURN: RREF is back within 1 ms; the loop relocks. -/
def doRrefReturn : CM Unit := do
  let c ← get
  if c.flag R.TIMEBASE_STATUS_HOLDOVER then do
    wrM R.TIMEBASE_STATUS_HOLDOVER 0 0
    wrM R.TIMEBASE_STATUS_LOCKED 0 1
  else pure ()

/-- HOLDOVER_END: 1 ms has passed without RREF; a job goes to HOLD at the next step boundary (R163, R419). -/
def doHoldoverEnd : CM Unit := do
  let c ← get
  if c.flag R.TIMEBASE_STATUS_HOLDOVER then do
    timeRecord 2
    whenM c.stepping (modify fun c => { c with holdCause := if c.holdCause = 0 then 4 else c.holdCause })
  else pure ()

/-! ## The epoch (R164) -/

/-- A set-epoch order: true where it is accepted. -/
def placeEpoch (hi : Nat) : CM Bool := do
  let c ← get
  if c.jobRuns then do
    bumpM R.TIMEBASE_EPOCH_REJECT_COUNT
    pure false
  else do
    wrM R.TIMEBASE_EPOCH_EPOCH_HI 0 hi
    wrM R.TIMEBASE_STATUS_EPOCH_PENDING 0 1
    pure true

/-- EPOCH_WRITE: a write of TIMEBASE_EPOCH. -/
def doEpochWrite (hi : Nat) : CM Unit := do
  let _ ← placeEpoch hi
  pure ()

/-! ## Timing samples (R166, R168) -/

/-- θ is VALID: the head's always (R166). -/
def Chip.thetaValid (c : Chip) : Bool := c.isHead || c.flag R.TIMEBASE_THETA_VALID

/-- TIME_SAMPLE_SEND: a timing sample to the peer of a job port (R166). -/
def doTimeSampleSend (port : Nat) : CM Unit := do
  let c ← get
  match c.portPath port with
  | none => pure ()
  | some g =>
    if c.grpState (port * 4 + g.group) = grpUp && decide (c.grpOwner (port * 4 + g.group) = ownerOwn) then
      onLink (port * 4 + g.group) fun l => { l with queue := l.queue ++
        [⟨g.peer, c.rd R.SEQ_JOB_JOB, 0, .time c.beat c.refcyc c.thetaValid c.theta⟩] }
    else pure ()

/-- The mean of a port's offsets, to nearest, ties to even. -/
def meanOffset (l : List Int) : Int := if l.isEmpty then 0 else divRneInt (l.foldl (· + ·) 0) l.length

/-- TIME: a timing sample is received (R166, R168). -/
def doTime (h : Hdr) (beat refcyc : Nat) (valid : Bool) (theta : Int) : CM Unit := do
  let mine ← receiveFlit h (.time beat refcyc valid theta)
  if mine then do
    let c ← get
    let lat := c.rd R.TORUS_GRP_LAT_LAT (lgOff (h.port * 4 + h.group))
    let here : Int := (c.beat * 64 + c.refcyc : Nat)
    let there : Int := (beat * 64 + refcyc : Nat)
    let off := divRneInt ((here - there) * 100 - lat) 100
    let l := (Tbl.get [] c.seq.offsets h.port ++ [off])
    let l := l.drop (l.length - 16)
    modify fun c => { c with seq := { c.seq with offsets := Tbl.insert h.port l c.seq.offsets } }
    wrM R.TIMEBASE_LINK_OFFSET_VALID (4 * h.port) 1
    wrM R.TIMEBASE_LINK_OFFSET_OFFSET (4 * h.port) (trunc 24 (meanOffset l))
    if c.hopCross h.port = some false ∧ 2 < (meanOffset l).natAbs ∧ c.flag R.TIMEBASE_STATUS_RACK_MISMATCH = false then do
      wrM R.TIMEBASE_STATUS_RACK_MISMATCH 0 1
      timeRecord 5
    else pure ()
    if c.parentHop.map Prod.fst = some h.port ∧ valid = true then do
      wrM R.TIMEBASE_THETA_THETA 0 (trunc 24 (theta + meanOffset l))
      wrM R.TIMEBASE_THETA_VALID 0 1
    else pure ()
    let c ← get
    whenM (decide (64 < (c.theta - 64 * c.thetaApplied).natAbs)) (bumpM R.TIMEBASE_EXCEED_COUNT)
  else pure ()

end Sys2Proof.Machine
end

