-- ==== Sys2Proof/Machine/Serving.lean ====
section
/-! DEFINITION. Serving at the head (chapters 11 and 12): prefix reuse (R301 to R304), the checks of a SUBMIT (R291, R292,
R318, R319), requests (R289, R293, R294), latency and deadlines (R305 to R307), tenants (R314), and the history (R322). -/
namespace Sys2Proof.Machine

/-! ## What the head holds -/

/-- The package admits: it is the head of a running job (R291). -/
def Chip.admits (c : Chip) : Bool := c.stepping && c.isHead

/-- The vocabulary of the pattern in force; none without a pattern. -/
def Chip.vocab (c : Chip) : Option Nat := c.inForce.map fun p => le p.desc 12 4

def putRequest (i : Nat) (r : Request) : CM Unit := onServing fun v => { v with requests := Tbl.insert i r v.requests }
def onRequest (i : Nat) (f : Request → Request) : CM Unit := do
  let c ← get
  match c.request i with
  | none => pure ()
  | some r => putRequest i (f r)
/-- Every request of the head, changed. -/
def mapRequests (f : Nat → Request → Request) : CM Unit := onServing fun v => { v with requests := Tbl.mapVals f v.requests }

/-- A request by its ID and tenant (R293). -/
def Chip.findRequest (c : Chip) (id tenant : Nat) : Option (Nat × Request) :=
  c.serving.requests.find? fun e => decide (e.2.request = id ∧ e.2.tenant = tenant)

/-- A tenant that is enabled and whose keys are installed (R291, R439). -/
def Chip.tenantKnown (c : Chip) (t : Nat) : Bool :=
  (c.tenant t).enabled && (c.key keyTenantData t).isSome && (c.key keyTenantMac t).isSome

/-- An end of a request that takes effect at the next close (R308). -/
def addEnd (status i : Nat) : CM Unit := onRequest i fun r => { r with ends := r.ends ++ [status] }

/-! ## History (R321, R322) -/

def historyLine (i : Nat) : Nat := 45144 + 8 * (i / 384)

/-- The tokens of a history's words, oldest first. -/
def historyOf (ws : List Nat) : List Nat :=
  let w0 := nth 0 ws 0
  (upFrom 0 (bits w0 30 24)).map fun t => nth 0 ws ((bits w0 23 18 + t) % 64) % 2 ^ 18

/-- A history's words with one more token. -/
def pushToken (ws : List Nat) (tok : Nat) : List Nat :=
  let w0 := nth 0 ws 0
  let n := bits w0 30 24
  let first := bits w0 23 18
  let slot := if n < 64 then (first + n) % 64 else first
  let put := setNth (nth 0 ws slot / 2 ^ 18 * 2 ^ 18 + tok % 2 ^ 18) ws slot
  let n' := if n < 64 then n + 1 else 64
  let first' := if n < 64 then first else (first + 1) % 64
  setNth (n' * 2 ^ 24 + first' * 2 ^ 18 + nth 0 put 0 % 2 ^ 18) put 0

def readHistory (i : Nat) : CM (List Nat) := do
  let b ← readLines (historyTile i) 4 (historyLine i) 8
  pure (wordsOf 64 b)
def writeHistory (i : Nat) (ws : List Nat) : CM Unit := writeLines (historyTile i) 4 (historyLine i) 8 (bytesOfWords ws)
def zeroHistory (i : Nat) : CM Unit := writeHistory i (List.replicate 64 0)
def appendHistory (i : Nat) (toks : List Nat) : CM Unit := do
  let ws ← readHistory i
  writeHistory i (toks.foldl pushToken ws)

/-! ## Prefixes (R301 to R304) -/

/-- Entries of the prefix table: 64 bytes each, in the PREFIX regions of the eight dies (R302, R256). -/
def Chip.prefixSlots (c : Chip) : Nat := 4 * c.regionLines 0 5

/-- Chain hashes of a prompt's full blocks after `prev` (R301). -/
def chainHashes (salt : List Nat) : Nat → Option Nat → List Nat → List Nat
  | 0, _, _ => []
  | n + 1, prev, toks =>
    let h := sipHash salt ((match prev with
      | none => []
      | some p => leBytes 8 p) ++ bytesOfWords (toks.take 64))
    h :: chainHashes salt n (some h) (toks.drop 64)

/-- The owner that a tenant's entries carry: its group or itself (R302). -/
def ownerOf (tenant : Nat) (group : Option Nat) : Bool × Nat :=
  match group with
  | some g => (true, g)
  | none => (false, tenant)

/-- The salt of an owner (R301, R435). -/
def Chip.salt (c : Chip) (o : Bool × Nat) : Option (List Nat) := c.key keyPrefixSalt (if o.1 then 1024 + o.2 else o.2)

/-- The eight entries that a hash probes (R302). -/
def Chip.probe (c : Chip) (h : Nat) : List Nat :=
  if c.prefixSlots = 0 then [] else (upFrom 0 8).map fun k => (h + k) % c.prefixSlots

/-- The entry that holds a block. -/
def Chip.lookupBlock (c : Chip) (o : Bool × Nat) (depth h : Nat) : Option Nat :=
  (c.probe h).find? fun id => match Tbl.find? c.prefixes id with
    | some e => decide (e.hash = h ∧ e.isGroup = o.1 ∧ e.owner = o.2 ∧ e.depth = depth)
    | none => false

/-- The entries that hold a chain of blocks, up to the first miss. -/
def Chip.hits (c : Chip) (o : Bool × Nat) : Nat → List Nat → List Nat
  | _, [] => []
  | depth, h :: t =>
    match c.lookupBlock o depth h with
    | none => []
    | some id => id :: c.hits o (depth + 1) t

/-- Pinned entries of a tenant under a handle, by block; following PARENT from the deepest one (R304). -/
def Chip.pinnedUnder (c : Chip) (tenant : Nat) (handle : Nat) : List (Nat × PrefixEntry) :=
  let o := ownerOf tenant (c.tenant tenant).group
  c.prefixes.filter fun e => e.2.pinned && decide (e.2.handle = handle)
    && (decide (e.2.isGroup = o.1 ∧ e.2.owner = o.2) || decide (e.2.isGroup = false ∧ e.2.owner = tenant))

def Chip.chainUp (c : Chip) : Nat → Nat → List Nat
  | 0, _ => []
  | n + 1, id =>
    match Tbl.find? c.prefixes id with
    | none => []
    | some e => if e.depth = 0 then [id] else c.chainUp n e.parent ++ [id]

def Chip.pinnedChain (c : Chip) (tenant handle : Nat) : List Nat :=
  match firstBy (fun (a b : Nat × PrefixEntry) => decide (b.2.depth < a.2.depth)) (c.pinnedUnder tenant handle) with
  | none => []
  | some e => c.chainUp (e.2.depth + 1) e.1

/-- Pinned blocks of a tenant (R304). -/
def Chip.pinnedBlocks (c : Chip) (tenant : Nat) : Nat :=
  let o := ownerOf tenant (c.tenant tenant).group
  (c.prefixes.filter fun e => e.2.pinned && decide (e.2.isGroup = o.1 ∧ e.2.owner = o.2)).length

/-! ## Clamping of a SUBMIT (R292, R318, R319) -/

def fpIsNan (w : Nat) : Bool := decide (0x7F800000 < w % 2 ^ 31)

/-- A non-negative FP32 field: `zero` says that 0 is legal beside `lo`…`hi`. -/
def clampPos (zero : Bool) (neutral lo hi w : Nat) : Nat :=
  if fpIsNan w then neutral
  else if w % 2 ^ 31 = 0 then (if zero then w else lo)
  else if 2 ^ 31 < w then (if zero then 0 else lo)
  else max lo (min hi w)

/-- An FP32 field of −16…+16. -/
def clampSym (w : Nat) : Nat := if fpIsNan w then 0 else w / 2 ^ 31 * 2 ^ 31 + min 0x41800000 (w % 2 ^ 31)

/-- The sampling-parameter block within its legal values. -/
def clampParams (v : Option Nat) (p : SampParams) : SampParams :=
  { p with
    temp := clampPos true 0x3F800000 0x3B800000 0x41800000 p.temp
    topP := clampPos false 0x3F800000 0x33800000 0x3F800000 p.topP
    rep := clampPos false 0x3F800000 0x3D800000 0x41800000 p.rep
    presence := clampSym p.presence
    frequency := clampSym p.frequency
    topK := min 256 p.topK
    stops := p.stops.map fun s => match v with
      | some n => if s.2 then (min (n - 1) s.1, true) else s
      | none => s }

/-- Fields that the clamping changed. -/
def paramClamps (a b : SampParams) : Nat :=
  b2n (a.temp != b.temp) + b2n (a.topP != b.topP) + b2n (a.rep != b.rep) + b2n (a.presence != b.presence)
    + b2n (a.frequency != b.frequency) + b2n (a.topK != b.topK)
    + ((a.stops.zip b.stops).filter fun e => e.1 != e.2).length

/-- `n` clamp events of a gateway's session at a message of a TYPE. -/
def gatewayClamps (session typ n : Nat) : CM Unit := forM_ (upFrom 0 n) fun _ => clampEvent srcGateway session typ

/-- The SUBMIT as the head reads it, its clamp events counted. -/
def clampSubmit (session : Nat) (t : TenantOrder) (b : Submit) : CM Submit := do
  let c ← get
  let v := c.vocab
  let params := clampParams v b.params
  let tokens := b.tokens.map fun x => match v with
    | some n => min (n - 1) x
    | none => x
  let r := { b with priority := max t.cls b.priority, maxTokens := max 1 (min 1048576 b.maxTokens), params := params, tokens := tokens }
  let pc := paramClamps b.params params
  gatewayClamps session 3 (b2n (r.priority != b.priority) + b2n (r.maxTokens != b.maxTokens)
    + ((b.tokens.zip tokens).filter fun e => e.1 != e.2).length + pc)
  bumpM R.SAMPLER_CLAMPS_COUNT 0 pc
  pure r

/-! ## The checks of a SUBMIT (R291) -/

/-- The lowest context index that is FREE on every die and unused at the head (R289). -/
def Chip.freeContext (c : Chip) : Option Nat :=
  (upFrom 0 (min 65536 (c.serving.requests.length + c.descs.length + 1))).find? fun i =>
    (c.request i).isNone && (upFrom 0 8).all fun d => decide ((c.ctxDesc d i).state = ctxFree)

/-- Longest prompt: one segment stream of 4 MiB, the SUBMIT's other fields included (R286, R283). -/
def promptLimit : Nat := (4194304 - 104) / 4

/-- The first status that refuses a SUBMIT that is no RESUME. -/
def Chip.submitFail (c : Chip) (tenant request : Nat) (b : Submit) : Option Nat :=
  let t := c.tenant tenant
  let old := if b.cont then c.findRequest request tenant else none
  let pinnedLen := if b.useHandle && !b.cont then 64 * (c.pinnedChain tenant b.handle).length else 0
  let done := match old with
    | some e => e.2.commit
    | none => pinnedLen
  if !c.admits then some 0x10
  else if !c.tenantKnown tenant then some 0x11
  else if (b.pin || b.useHandle) && !t.privileged then some 0x16
  else if b.useHandle && (c.pinnedUnder tenant b.handle).isEmpty then some 0x15
  else if b.pin && !(c.pinnedUnder tenant b.handle).isEmpty then some 0x17
  else if !b.cont && b.tokens.isEmpty then some 0x19
  else if b.cont && !(match old with
      | some e => decide (e.2.state = 2 ∨ e.2.state = 3) && e.2.marked.isNone
      | none => false) then some 0x1A
  else if !b.cont && decide (t.maxActive ≤ c.tenantActive tenant) then some 0x12
  else if !b.cont && c.freeContext.isNone then some 0x13
  else if t.maxContext < done + b.tokens.length + b.maxTokens ∨ promptLimit < b.tokens.length then some 0x14
  else if b.pin && decide (t.pinMax < c.pinnedBlocks tenant + b.tokens.length / 64) then some 0x18
  else none

/-- ADMIT: the answer to a SUBMIT (R294). -/
def answerAdmit (i : TnpIn) (b : Submit) (request status cached : Nat) : CM Unit := do
  bumpM (if status = 0 then R.SERVE_ADMITTED_COUNT else R.SERVE_REFUSED_COUNT)
  sendStream i.session i.tenant (if status = 0 then request else 0) (.admitted b.clientTag status cached)

/-- A deadline `span` beats after a beat; a target of 0 means none (R306). -/
def deadlineAfter (beat span : Nat) : Option Nat := if span = 0 then none else some (beat + span)

/-- A new request (R289, R291, R302). -/
def admitNew (i : TnpIn) (b : Submit) (x : Nat) : CM Unit := do
  let c ← get
  let t := c.tenant i.tenant
  let o := ownerOf i.tenant t.group
  let pinned := if b.useHandle then c.pinnedChain i.tenant b.handle else []
  let prev := match pinned.getLast? with
    | some id => (Tbl.find? c.prefixes id).map (·.hash)
    | none => none
  let full := b.tokens.length / 64
  let reusable := (b.tokens.length - 1) / 64
  let hashes := match c.salt o with
    | some k => chainHashes k full prev b.tokens
    | none => []
  let hit := c.hits o pinned.length (hashes.take reusable)
  bumpM R.SERVE_PREFIX_HITS 0 (pinned.length + hit.length)
  whenM (decide (hit.length < reusable)) (bumpM R.SERVE_PREFIX_MISSES)
  let uses := Tbl.get 0 c.serving.reuse x
  let id := c.node * 2 ^ 20 + uses % 16 * 2 ^ 16 + x
  let now := c.headBeat
  onServing fun v => { v with reuse := Tbl.put 0 v.reuse x (uses + 1), serials := v.serials + 1 }
  putRequest x {
    request := id, tenant := i.tenant, group := t.group, session := i.session, state := 0, priority := b.priority,
    serial := c.serving.serials, keep := b.keep, stopOnSwitch := b.stopOnSwitch, maxTokens := b.maxTokens,
    seed := b.seed, params := b.params, feed := b.tokens, base := 64 * pinned.length,
    next := 64 * (pinned.length + hit.length), commit := 0, emitted := 0, fresh := true, unbound := true, last := none,
    admitBeat := now, firstBeat := none, lastBeat := none, worst := 0, overN := 0, deadline := deadlineAfter now t.ttft,
    inForce := none, due := false, applied := none, ends := [], marked := none, tookLast := false, hashes := hashes,
    reused := hit.length, publish := hit.length, clean := 0, pin := if b.pin then some b.handle else none,
    pinned := pinned, maps := [], pages := 0 }
  answerAdmit i b id 0 (64 * (pinned.length + hit.length))

/-- Place an order in the next broadcast (R299). -/
def placeOrder (o : Order) : CM Unit := onServing fun v => { v with orders := v.orders ++ [o] }
def noOrder : Order := ⟨0, 0, 0, 0, 0, 0, 0, 0, none, 0, none⟩

/-- A CONTINUE of an IDLE or REMOTE request (R293, R305). -/
def admitContinue (i : TnpIn) (b : Submit) (x : Nat) (r : Request) : CM Unit := do
  let c ← get
  let t := c.tenant i.tenant
  let now := c.headBeat
  whenM (decide (r.state = 3)) (placeOrder { noOrder with op := 7, context := x, request := r.request })
  onServing fun v => { v with serials := v.serials + 1 }
  putRequest x { r with
    state := 0, priority := b.priority, serial := c.serving.serials, keep := b.keep, stopOnSwitch := b.stopOnSwitch,
    maxTokens := b.maxTokens, seed := b.seed, params := b.params, feed := r.last.toList ++ b.tokens, base := r.commit,
    next := r.commit, emitted := 0, fresh := true, admitBeat := now, firstBeat := none, lastBeat := none, worst := 0,
    overN := 0, deadline := deadlineAfter now t.ttft, due := false, tookLast := false,
    pin := if b.pin then some b.handle else none }
  answerAdmit i b r.request 0 r.commit

/-- RESUME of a marked request (R421). -/
def doResume (i : TnpIn) (b : Submit) : CM Unit := do
  let c ← get
  if !c.admits then answerAdmit i b 0 0x10 0
  else if !c.tenantKnown i.tenant then answerAdmit i b 0 0x11 0
  else match c.findRequest i.request i.tenant with
    | none => answerAdmit i b 0 0x20 0
    | some (x, r) =>
      if r.marked = some (b.handle % 2 ^ 32) ∧ b.handle / 2 ^ 32 = r.request then do
        onServing fun v => { v with serials := v.serials + 1 }
        putRequest x { r with marked := none, state := 0, next := r.commit, tookLast := false }
        bumpM R.FAULT_RESUMES_RESUMED
        answerAdmit i b r.request 0 r.commit
      else answerAdmit i b 0 0x15 0

/-- SUBMIT, its RESUME form included (R291, R421). -/
def doSubmit (i : TnpIn) (s : Submit) : CM Unit := do
  if s.resume then doResume i s
  else do
    let c ← get
    let b ← if c.admits && c.tenantKnown i.tenant then clampSubmit i.session (c.tenant i.tenant) s else pure s
    let c ← get
    match c.submitFail i.tenant i.request b with
    | some st => answerAdmit i b 0 st 0
    | none =>
      if b.cont then
        match c.findRequest i.request i.tenant with
        | some (x, r) => admitContinue i b x r
        | none => pure ()
      else match c.freeContext with
        | some x => admitNew i b x
        | none => pure ()

/-! ## CANCEL, QUERY, UNPIN (R293, R294, R304) -/

/-- CANCEL. -/
def doCancel (i : TnpIn) : CM Unit := do
  let c ← get
  match c.findRequest i.request i.tenant with
  | none => answer i 4 0x20
  | some (x, _) => addEnd 3 x

def Request.info (r : Request) : QueryInfo :=
  ⟨r.state, r.priority, r.commit, r.emitted, r.admitBeat, r.firstBeat.getD 0, r.lastBeat.getD 0, r.worst, r.overN⟩

/-- QUERY. -/
def doQuery (i : TnpIn) : CM Unit := do
  let c ← get
  match c.findRequest i.request i.tenant with
  | none => answer i 5 0x20
  | some (_, r) => sendStream i.session i.tenant i.request (.status 5 0 (some r.info))

/-- UNPIN: the handle's entries are no longer pinned. -/
def doUnpin (i : TnpIn) (handle : Nat) : CM Unit := do
  let c ← get
  let es := c.pinnedUnder i.tenant handle
  if es.isEmpty then answer i 6 0x15
  else do
    forM_ es fun e => modify fun c => { c with prefixes := Tbl.insert e.1 { e.2 with pinned := false, handle := 0 } c.prefixes }
    answer i 6 0

/-! ## Sessions (R287, R288) -/

/-- An order of the tail's session record (R299). -/
def sessionOrder (s : Nat) (p : Peer) (isOpen : Bool) : Order :=
  { noOrder with op := 8, status := b2n isOpen, session := s, peer := some p }

/-- OPEN: the head opens a session, the lowest free one (R287). -/
def doOpen (i : TnpIn) (gateway : Nat) : CM Unit := do
  let c ← get
  let raw (status : Nat) : CM Unit := sendTnp i.src ⟨ctrlSession, 0, 0, i.seq, 0, .status 1 status none⟩
  if !c.admits then raw 0x10
  else match (upFrom 0 4096).find? fun s => (Tbl.find? c.serving.sessions s).isNone with
    | none => raw 0x21
    | some s => do
      let x : Session := ⟨i.src, gateway, { noStream with rxNext := (i.seq + 1) % 2 ^ 32, ackDue := true }⟩
      onServing fun v => { v with sessions := Tbl.insert s x v.sessions }
      placeOrder (sessionOrder s i.src true)
      let addr := if i.src.front = 0 then c.serving.serve.tailAddr0 else c.serving.serve.tailAddr1
      sendStream s 0 0 (.opened s c.tailNode (leBytes 16 addr))

/-- A session closes: its requests end at the next close without an entry (R288). -/
def closeSession (s : Nat) : CM Unit := do
  let c ← get
  match Tbl.find? c.serving.sessions s with
  | none => pure ()
  | some x => do
    onServing fun v => { v with sessions := Tbl.erase s v.sessions }
    placeOrder (sessionOrder s x.peer false)
    mapRequests fun _ r => if r.session = s then { r with ends := r.ends ++ [3] } else r

/-- SESSION_IDLE_TIMEOUT: IDLE_MS without a valid message (R288). -/
def doSessionIdleTimeout (s : Nat) : CM Unit := closeSession s

/-! ## Orders from the orchestrator (R313, R314, R271, R272) -/

/-- A tenant order within its legal values: clamp events against the orchestrator. -/
def clampTenant (o : TenantOrder) : CM TenantOrder := do
  let r := { o with cls := min 3 o.cls, policy := min 2 o.policy, maxActive := min 65536 o.maxActive,
                    maxContext := max 1 (min 1048576 o.maxContext) }
  forM_ (upFrom 0 (b2n (r.cls != o.cls) + b2n (r.policy != o.policy) + b2n (r.maxActive != o.maxActive)
    + b2n (r.maxContext != o.maxContext))) fun _ => clampEvent srcOrch 0 0x46
  pure r

/-- TENANT: in effect at the next admission close. -/
def doTenant (i : TnpIn) (o : TenantOrder) : CM Unit := do
  let r ← clampTenant o
  onServing fun v => { v with tenantNext := Tbl.insert i.tenant r v.tenantNext }
  answer i 0x46 0

/-- A request by its ID, of any tenant. -/
def Chip.requestById (c : Chip) (id : Nat) : Option (Nat × Request) := c.serving.requests.find? fun e => decide (e.2.request = id)

/-- PAGE_OUT: of an IDLE request (R313). -/
def doPageOut (i : TnpIn) (id handle : Nat) : CM Unit := do
  let c ← get
  if !c.admits then answer i 0x47 0x10
  else match c.requestById id with
    | none => answer i 0x47 0x20
    | some (x, r) =>
      if r.state = 2 then do
        placeOrder { noOrder with op := 6, context := x, request := id, handle := handle }
        onRequest x fun r => { r with state := 3 }
        answer i 0x47 0
      else answer i 0x47 0x1A

/-- PAGE_IN: of a REMOTE request. -/
def doPageIn (i : TnpIn) (id : Nat) : CM Unit := do
  let c ← get
  if !c.admits then answer i 0x48 0x10
  else match c.requestById id with
    | none => answer i 0x48 0x20
    | some (x, r) =>
      if r.state = 3 then do
        placeOrder { noOrder with op := 7, context := x, request := id }
        onRequest x fun r => { r with state := 2 }
        answer i 0x48 0
      else answer i 0x48 0x1A

end Sys2Proof.Machine
end

