-- ==== Sys2Proof/Machine/Admission.lean ====
section
/-! DEFINITION. Admission closes (chapters 11 to 13): ends and policies (R307, R308), the flips of a close (R366), the batch
(R295 to R297), drafts (R329, R330), publication (R303), the broadcast (R299) and the parameter delivery (R320). -/
namespace Sys2Proof.Machine

/-! ## Ends (R308) -/

/-- The causes of an end, the first that applies foremost (R308); OUTPUT_LOST last. -/
def endOrder : List Nat := [6, 5, 7, 1, 2, 3, 4, 8]

/-- Pages that become free later: `n` of them, ZERO_STEPS steps after the step in which they are released (R297). -/
def releaseLater (n step : Nat) : CM Unit := do
  let c ← get
  whenM (decide (0 < n)) (onServing fun v => { v with released := v.released ++ [(n, step + c.serving.serve.zeroSteps)] })

/-- A request ends: its END order for step `step`, its pages released. -/
def endRequest (step x status : Nat) (r : Request) : CM Unit := do
  placeOrder { noOrder with op := 2, status := status, context := x, request := r.request, tenant := r.tenant }
  releaseLater r.pages step
  onServing fun v => { v with requests := Tbl.erase x v.requests }

/-- The end of a request that takes effect at this close: END_STOP and END_LENGTH leave a KEEP request IDLE (R293). -/
def settleEnd (step x : Nat) (r : Request) : CM Unit :=
  match endOrder.find? fun s => r.ends.contains s with
  | none => pure ()
  | some s =>
    if r.keep && decide (s = 1 ∨ s = 2) then putRequest x { r with state := 2, ends := [], due := false }
    else do
      whenM (decide (s = 4)) (bumpM R.SERVE_POLICY_EVICTED)
      endRequest step x s r

/-- A deadline that a commit has passed: the tenant's policy, once for it (R307). -/
def applyPolicy (x : Nat) (r : Request) : CM Unit := do
  let c ← get
  if r.due then
    match (c.tenant r.tenant).policy with
    | 0 => putRequest x { r with due := false, applied := r.deadline }
    | 1 => putRequest x { r with due := false, applied := r.deadline, ends := r.ends ++ [4] }
    | _ => do
      putRequest x { r with due := false, applied := r.deadline, priority := 3 }
      bumpM R.SERVE_POLICY_DEMOTED
  else pure ()

/-- A request whose context is LOST on some die (R255, R272). -/
def Chip.contextLost (c : Chip) (x : Nat) : Bool := (upFrom 0 8).any fun d => decide ((c.ctxDesc d x).state = ctxLost)

/-- Every end and policy of a close. -/
def closeEnds (step : Nat) : CM Unit := do
  let c ← get
  forM_ c.serving.requests fun e => whenM (c.contextLost e.1) (addEnd 6 e.1)
  let c ← get
  forM_ c.serving.requests fun e => applyPolicy e.1 e.2
  let c ← get
  forM_ c.serving.requests fun e => settleEnd step e.1 e.2

/-! ## Flips (R366) -/

/-- An object may flip at the close for a step. -/
def Chip.flippable (c : Chip) (step : Nat) (l : LoadObj) : Bool :=
  decide (l.state = 4) && decide ((step + 2 ^ 32 - l.notBefore) % 2 ^ 32 < 2 ^ 31)
    && c.seq.jobs.all fun e => (Tbl.get [] c.readySets (readyKey l.kind l.object)).contains e.node

/-- The flips of a close: the pattern first, then insoles in ascending tenant, 192 at most. -/
def Chip.closeFlips (c : Chip) (step : Nat) : List Flip :=
  let pats := (c.loads.filter fun l => decide (l.kind = 1) && c.flippable step l).map fun l => (⟨false, 0, 0, l.object⟩ : Flip)
  let pat := pats.take 1
  let ins := c.loads.filter fun l => decide (l.kind = 3) && c.flippable step l
    && (decide (l.withGen = 0 ∨ l.withGen = c.rd R.LOAD_GEN_ACTIVE_GEN) || pat.any fun f => decide (f.gen = l.withGen))
  let order := (sortBy (fun (a b : LoadObj) => decide (a.tenant ≤ b.tenant)) ins).map fun l => (⟨true, l.version, l.tenant, 0⟩ : Flip)
  (pat ++ order).take 192

/-- The flips bar a tenant's prefix lookups and publication at this close (R371). -/
def barred (fs : List Flip) (r : Request) : Bool := fs.any fun f => !f.insole || (r.group.isNone && decide (f.tenant = r.tenant))

/-! ## The batch (R296, R297) -/

/-- A batch in the making: its slots, its key positions, the pages held on one die. -/
structure Plan where
  slots : List BatchSlot
  attn  : Nat
  pages : Nat
  params : List SamplerRec

/-- Pages that every request, the prefix table and late releases hold on one die (R297). -/
def Chip.pagesHeld (c : Chip) (step : Nat) : Nat :=
  let own := (c.serving.requests.map fun e => e.2.pages).foldl (· + ·) 0
  let shared := unique (Tbl.keys c.prefixes ++ c.serving.requests.flatMap fun e => e.2.maps)
  let late := ((c.serving.released.filter fun e => decide (step < e.2)).map (·.1)).foldl (· + ·) 0
  own + shared.length + late

/-- Pages that `n` positions from `pos` add to what a request holds. -/
def newPages (r : Request) (pos n : Nat) : Nat := cdiv (pos + n) 64 - (r.maps.length + r.pages)

/-- The three budgets of R296 hold with `n` more slots of a request. -/
def Chip.fits (c : Chip) (p : Plan) (r : Request) (pos n : Nat) : Bool :=
  decide (p.slots.length + n ≤ c.serving.serve.batchMax
    ∧ p.attn + ((upFrom pos n).map (· + 1)).foldl (· + ·) 0 ≤ c.serving.serve.attnBudget
    ∧ p.pages + newPages r pos n ≤ c.serving.framesMin)

/-- The most slots up to a limit that fit; 0 where none does. -/
def Chip.mostThatFit (c : Chip) (p : Plan) (r : Request) (pos : Nat) : Nat → Nat
  | 0 => 0
  | n + 1 => if c.fits p r pos (n + 1) then n + 1 else c.mostThatFit p r pos n

/-- The requests in the order of R296. -/
def Chip.inOrder (c : Chip) : List (Nat × Request) :=
  sortBy (fun (a b : Nat × Request) => decide (a.2.priority < b.2.priority ∨ (a.2.priority = b.2.priority ∧
    (a.2.admitBeat < b.2.admitBeat ∨ (a.2.admitBeat = b.2.admitBeat ∧ a.2.serial ≤ b.2.serial))))) c.serving.requests

def Request.promptEnd (r : Request) : Nat := r.base + r.feed.length
/-- It is past its prompt (R296). -/
def Request.decoding (r : Request) : Bool := decide (r.state = 1 ∧ r.promptEnd ≤ r.next)
/-- It may take slots: no drafting request takes slots in two steps in a row (R329). -/
def Request.mayTake (r : Request) : Bool := !(decide (0 < r.params.draftMax) && r.tookLast)

/-- Every die holds the context RESIDENT, or it is to be bound (R293). -/
def Chip.resident (c : Chip) (x : Nat) (r : Request) : Bool :=
  r.unbound || (upFrom 0 8).all fun d => decide ((c.ctxDesc d x).state = ctxResident)

/-- The tokens that followed the last earlier occurrence of the last `n` tokens of a history, `d` at most (R329). -/
def draftsOf (h : List Nat) (n d : Nat) : List Nat :=
  if h.length ≤ n ∨ d = 0 then []
  else match (upFrom 0 (h.length - n)).reverse.find? fun i => decide ((h.drop i).take n = h.drop (h.length - n)) with
    | none => []
    | some i => (h.drop (i + n)).take d

/-- A slot of a request. -/
def slotOf (x : Nat) (r : Request) (pos tok : Nat) (sample draft prefill : Bool) : BatchSlot :=
  ⟨r.request, x, r.tenant, sample, draft, prefill, true, pos, tok⟩

/-- The first slot of a request: BIND, its prefix lookup and its MAP orders (R299, R302). -/
def bindRequest (fs : List Flip) (r : Request) : CM Request := do
  let c ← get
  let o := ownerOf r.tenant r.group
  let bar := barred fs r
  let pinned := if bar then [] else r.pinned
  let hit := if bar then [] else c.hits o pinned.length (r.hashes.take ((r.feed.length - 1) / 64))
  let ids := pinned ++ hit
  pure { r with maps := ids, next := 64 * (r.pinned.length + hit.length), publish := hit.length, reused := hit.length }

/-- The orders that go with a request's first slot. -/
def bindOrders (step x : Nat) (r : Request) : CM Unit := do
  placeOrder { noOrder with op := 1, context := x, request := r.request, tenant := r.tenant, group := r.group, session := r.session }
  forM_ ((upFrom 0 r.maps.length).zip r.maps) fun e => do
    placeOrder { noOrder with op := 3, context := x, request := r.request, page := e.1, pfx := e.2, tenant := r.tenant }
    modify fun c => match Tbl.find? c.prefixes e.2 with
      | some p => { c with prefixes := Tbl.insert e.2 { p with lastStep := step } c.prefixes }
      | none => c

/-- A request takes slots: the plan with them, the request after them, the parameter record of a turn's first slot. -/
def takeSlots (step gen x : Nat) (p : Plan) (r : Request) (ss : List BatchSlot) (next : Nat) : CM Plan := do
  whenM r.unbound (bindOrders step x r)
  let pos := match ss with
    | s :: _ => s.position
    | [] => 0
  let add := newPages r pos ss.length
  putRequest x { r with state := 1, next := next, tookLast := true, fresh := false, unbound := false, pages := r.pages + add }
  let rec_ : List SamplerRec := if r.fresh then [⟨x, r.stopOnSwitch, r.unbound, gen, r.maxTokens, r.seed, r.params⟩] else []
  pure { slots := p.slots ++ ss, attn := p.attn + (ss.map fun s => s.position + 1).foldl (· + ·) 0, pages := p.pages + add,
         params := p.params ++ rec_ }

/-- A decode request's slots (R296, R329, R330). -/
def decodeSlots (step gen : Nat) (p : Plan) (e : Nat × Request) : CM Plan := do
  let c ← get
  let (x, r) := e
  if !(r.decoding && r.mayTake && r.ends.isEmpty && r.marked.isNone) then pure p
  else if 0 < r.params.draftMax then do
    let ws ← readHistory x
    let ds := draftsOf (historyOf ws) (r.params.ngramM1 + 1) (min r.params.draftMax (r.maxTokens - r.emitted - 1))
    match c.mostThatFit p r r.commit (ds.length + 1) with
    | 0 => do
      bumpM R.SERVE_DEFERRED_COUNT
      pure p
    | n + 1 => do
      whenM ds.isEmpty (bumpM R.SAMPLER_NO_MATCH_COUNT)
      let base := slotOf x r r.commit (r.last.getD 0) true false false
      let more := ((upFrom 0 n).zip (ds.take n)).map fun d => slotOf x r (r.commit + d.1 + 1) d.2 true true false
      takeSlots step gen x p r (base :: more) r.next
  else if c.fits p r r.next 1 then takeSlots step gen x p r [slotOf x r r.next 0 true false false] (r.next + 1)
  else do
    bumpM R.SERVE_DEFERRED_COUNT
    pure p

/-- A request's prefill chunk (R296). -/
def prefillSlots (step gen : Nat) (fs : List Flip) (p : Plan) (e : Nat × Request) : CM Plan := do
  let c ← get
  let (x, r0) := e
  if !(decide (r0.state ≤ 1) && decide (r0.next < r0.promptEnd) && r0.mayTake && r0.ends.isEmpty && r0.marked.isNone
      && c.resident x r0) then pure p
  else if r0.unbound && !r0.pinned.isEmpty && (barred fs r0 || r0.pinned.any fun id => (Tbl.find? c.prefixes id).isNone) then do
    bindOrders step x { r0 with maps := [] }
    putRequest x { r0 with unbound := false, ends := r0.ends ++ [6] }
    pure p
  else do
    let r ← if r0.unbound then bindRequest fs r0 else pure r0
    match c.mostThatFit p r r.next (min c.serving.serve.prefillMax (r.promptEnd - r.next)) with
    | 0 => pure p
    | n + 1 =>
      takeSlots step gen x p r ((upFrom r.next (n + 1)).map fun q =>
        slotOf x r q (nth 0 r.feed (q - r.base)) (decide (q + 1 = r.promptEnd)) false true) (r.next + n + 1)

/-! ## Publication (R303) -/

/-- The entry that a block is inserted in: the first empty one of its probe, else the unpinned one used longest ago. -/
def Chip.publishAt (c : Chip) (h : Nat) : Option (Nat × Bool) :=
  match (c.probe h).find? fun id => (Tbl.find? c.prefixes id).isNone with
  | some id => some (id, false)
  | none =>
    let free := (c.probe h).filterMap fun id => match Tbl.find? c.prefixes id with
      | some e => if e.pinned then none else some (id, e.lastStep)
      | none => none
    (firstBy (fun (a b : Nat × Nat) => decide (a.2 < b.2)) free).map fun e => (e.1, true)

/-- A prefix entry leaves the table; of the requests that map its frame the first counts it as its own page. -/
def orphanPrefix (id : Nat) : CM Unit := do
  let c ← get
  match c.serving.requests.find? fun e => e.2.maps.contains id with
  | none => pure ()
  | some (x, r) => putRequest x { r with pages := r.pages + 1 }
  mapRequests fun _ r => { r with maps := r.maps.filter (· != id) }

/-- Publish a committed block of a request (R303, R371). -/
def publishBlock (step x : Nat) (r : Request) : CM Unit := do
  let c ← get
  let page := r.pinned.length + r.publish
  let o := ownerOf r.tenant r.group
  let h := nth 0 r.hashes r.publish
  if page < r.clean ∨ (c.salt o).isNone then putRequest x { r with publish := r.publish + 1 }
  else match c.publishAt h with
    | none => putRequest x { r with publish := r.publish + 1 }
    | some (id, evict) => do
      whenM evict do
        placeOrder { noOrder with op := 5, pfx := id }
        orphanPrefix id
        match Tbl.find? c.prefixes id with
        | some e => onServing fun v => { v with evicted := v.evicted ++ [(id, e)] }
        | none => pure ()
      placeOrder { noOrder with op := 4, context := x, request := r.request, page := page, pfx := id, tenant := r.tenant, group := r.group }
      let parent := if page = 0 then 0 else r.maps.getLast?.getD 0
      let entry : PrefixEntry := ⟨h, o.1, o.2, false, page, parent, step, 0, []⟩
      modify fun c => { c with prefixes := Tbl.insert id entry c.prefixes }
      onRequest x fun q => { q with publish := q.publish + 1, maps := q.maps ++ [id], pages := q.pages - 1 }

/-- Every block that a request has committed and not published; at most its blocks in number. -/
def publishRequest (step x : Nat) : Nat → CM Unit
  | 0 => pure ()
  | n + 1 => do
    let c ← get
    match c.request x with
    | none => pure ()
    | some r =>
      if r.publish < r.hashes.length ∧ 64 * (r.pinned.length + r.publish + 1) ≤ r.commit then do
        publishBlock step x r
        publishRequest step x n
      else pure ()

/-! ## The close (R295, R296, R299, R320) -/

/-- Send a delivery to every package of the job but this one. -/
def toPackages (m : PkgMsg) : CM Unit := do
  let c ← get
  forM_ c.others fun n => enqueue ⟨n, c.rd R.SEQ_JOB_JOB, 1, .pkg m⟩

/-- The generation in force in the step being formed. -/
def closeGen (active : Nat) (fs : List Flip) : Nat :=
  match fs.find? fun f => !f.insole with
  | some f => f.gen
  | none => active

/-- ADMISSION_CLOSE: the head forms the next step's batch. -/
def doAdmissionClose : CM Unit := do
  let c ← get
  let step := (c.rd R.SEQ_STEP_STEP + 1) % 2 ^ 32
  if !c.admits || c.serving.closed == some step then pure ()
  else do
    reachBeat (c.localBeat (c.rd R.SEQ_START_BEAT + nth 0 c.serving.serve.close (c.rd R.SEQ_STATE_GEAR)))
    onServing fun v => { v with tenants := v.tenantNext.foldl (fun m e => Tbl.insert e.1 e.2 m) v.tenants, tenantNext := [], closed := some step }
    closeEnds step
    let c ← get
    let fs := c.closeFlips step
    let gen := closeGen (c.rd R.LOAD_GEN_ACTIVE_GEN) fs
    modify fun c => { c with seq := { c.seq with flips := fs } }
    mapRequests fun _ r => if barred fs r then { r with clean := max r.clean (cdiv r.next 64) } else r
    let c ← get
    forM_ c.serving.requests fun e => whenM (!barred fs e.2) (publishRequest step e.1 e.2.hashes.length)
    let c ← get
    let p0 : Plan := ⟨[], 0, c.pagesHeld step, []⟩
    let order := c.inOrder
    let p1 ← foldM_ p0 order (decodeSlots step gen)
    let p ← foldM_ p1 order (prefillSlots step gen fs)
    let took := p.slots.map (·.context)
    mapRequests fun x r => { r with tookLast := took.contains x }
    let c ← get
    let b : Broadcast := ⟨step, gen, p.slots, c.serving.orders⟩
    onServing fun v => { v with orders := [], batchIn := some b,
                                released := v.released.filter fun e => decide (step < e.2) }
    toPackages (.batch b)
    if c.isTail then onServing fun v => { v with paramsIn := some (step, p.params) }
    else enqueue ⟨c.tailNode, c.rd R.SEQ_JOB_JOB, 1, .pkg (.params step p.params)⟩

end Sys2Proof.Machine
end

