-- ==== Sys2Proof/Machine/Deliveries.lean ====
section
/-! DEFINITION. Deliveries between packages (chapters 11 and 12) and what each package does with them at a step start:
results (R334), orders (R299), allocation (R264), the batch table (R298). -/
namespace Sys2Proof.Machine

/-! ## Receipt (R299, R300, R320, R333) -/

/-- Hold a delivery for the next step. -/
def holdDelivery (m : PkgMsg) : CM Unit := onServing fun v =>
  match m with
  | .batch b => { v with batchIn := some b }
  | .params s rs => { v with paramsIn := some (s, rs) }
  | .results s rs => { v with resultsIn := some (s, rs) }

/-- BATCH_BROADCAST, PARAMETER_DELIVERY, RESULT_DELIVERY: the whole delivery has come, flit by flit. -/
def doDeliver (hs : List Hdr) (m : PkgMsg) : CM Unit := do
  let mine ← receiveAll hs (.pkg m)
  whenM mine (holdDelivery m)

/-- Which deliveries of a step the package lacks: the broadcast, the results of the step before, a tail's parameters. -/
def Chip.lacksBatch (c : Chip) (step : Nat) : Bool := !(c.serving.batchIn.map (·.step) == some step)
def Chip.lacksResults (c : Chip) (step : Nat) : Bool :=
  !(c.serving.resultsIn.map (fun r => (r.1 + 1) % 2 ^ 32) == some step)
def Chip.lacksParams (c : Chip) (step : Nat) : Bool := c.isTail && !(c.serving.paramsIn.map Prod.fst == some step)

/-- BATCH_LATE: one beat before the next step's start a delivery is missing; the package does not run the step. -/
def doBatchLate : CM Unit := do
  let c ← get
  let step := (c.rd R.SEQ_STEP_STEP + 1) % 2 ^ 32
  if c.stepping && c.seq.next.isSome && (c.lacksBatch step || c.lacksResults step || c.lacksParams step) then do
    whenM (c.lacksResults step) (bumpM R.SAMPLER_RESULT_LATE_COUNT)
    modify fun c => { c with seq := { c.seq with skip := true } }
    raisePackage 0x41
  else pure ()

/-! ## Results at a step start (R334, R305, R306, R420) -/

/-- The head's record of a request after a step's result. -/
def Chip.afterResult (c : Chip) (r : Request) (q : ResultRec) : Request :=
  let beat := c.serving.commitBeat
  let tbt := (c.tenant r.tenant).tbt
  let commit := r.commit + q.adv
  let r := { r with
    commit := commit, emitted := r.emitted + q.tokens.length
    next := if 0 < r.params.draftMax && decide (r.promptEnd ≤ commit) then commit else r.next
    last := match q.tokens.getLast? with
      | some t => some t
      | none => r.last }
  let r := if q.tokens.isEmpty then r
    else
      let gap := match r.lastBeat with
        | some b => beat - b
        | none => 0
      { r with
        firstBeat := some (r.firstBeat.getD beat), lastBeat := some beat, worst := max r.worst gap
        overN := r.overN + b2n (decide (0 < tbt ∧ tbt < gap)), deadline := deadlineAfter beat tbt }
  match q.status with
  | 0 => r
  | 5 => { r with state := 2, marked := some commit, next := commit, due := false, ends := r.ends.filter (· != 4) }
  | s => { r with ends := r.ends ++ [s] }

/-- The result delivery of the step that has committed. -/
def applyResults (rs : List ResultRec) : CM Unit := forM_ rs fun q => do
  forM_ (upFrom 0 8) fun d => do
    let c ← get
    whenM (decide ((c.ctxDesc d q.context).state ≠ ctxFree)) (onDesc d q.context fun x => { x with commit := x.commit + q.adv })
  let c ← get
  match c.isHead, c.request q.context with
  | true, some r => do
    whenM (!q.tokens.isEmpty) (appendHistory q.context q.tokens)
    putRequest q.context (c.afterResult r q)
  | _, _ => pure ()

/-- A request whose prompt has committed pins the entries it maps under its handle (R304). -/
def pinPrompts : CM Unit := do
  let c ← get
  forM_ c.serving.requests fun e =>
    match e.2.pin with
    | some h =>
      if e.2.promptEnd ≤ e.2.commit ∧ e.2.hashes.length ≤ e.2.publish then do
        forM_ e.2.maps fun id => modify fun c => match Tbl.find? c.prefixes id with
          | some p => { c with prefixes := Tbl.insert id { p with pinned := true, handle := h } c.prefixes }
          | none => c
        putRequest e.1 { e.2 with pin := none }
      else pure ()
    | none => pure ()

/-! ## Orders (R299) -/

/-- A page of a context maps a frame; its page-table block is allocated with it. -/
def mapFrame (d x page frame : Nat) (shared grouped : Bool) : CM Unit := do
  let c ← get
  let blk := c.freeBlock d
  onDesc d x fun q => { q with
    entries := Tbl.insert page ⟨frame, shared, grouped⟩ q.entries
    blocks := if (Tbl.find? q.blocks (page / 256)).isSome then q.blocks else Tbl.insert (page / 256) blk q.blocks }

/-- MAP (R268, R299). -/
def orderMap (o : Order) : CM Unit := do
  let c ← get
  match Tbl.find? c.prefixes o.pfx with
  | none => pure ()
  | some e => forM_ e.frames fun f => do
    let c ← get
    setFrame f.1 f.2 { c.frame f.1 f.2 with refs := (c.frame f.1 f.2).refs + 1 }
    mapFrame f.1 o.context o.page f.2 true e.isGroup

/-- The entry whose frames the page before maps. -/
def Chip.parentPrefix (c : Chip) (x page : Nat) : Nat :=
  if page = 0 then 0
  else ((c.prefixes.find? fun e => decide (e.2.depth + 1 = page) && !e.2.frames.isEmpty && e.2.frames.all fun f =>
    match Tbl.find? (c.ctxDesc f.1 x).entries (page - 1) with
    | some p => decide (p.frame = f.2)
    | none => false).map Prod.fst).getD 0

/-- PUBLISH (R268, R303): the page's frame on each die becomes the prefix's. -/
def orderPublish (step : Nat) (o : Order) : CM Unit := do
  let c ← get
  let frames := (upFrom 0 8).filterMap fun d => (Tbl.find? (c.ctxDesc d o.context).entries o.page).map fun p => (d, p.frame)
  let own := ownerOf o.tenant o.group
  let entry : PrefixEntry := match Tbl.find? c.prefixes o.pfx with
    | some e => { e with frames := frames }
    | none => ⟨0, own.1, own.2, false, o.page, c.parentPrefix o.context o.page, step, 0, frames⟩
  modify fun c => { c with prefixes := Tbl.insert o.pfx entry c.prefixes }
  forM_ frames fun f => do
    let c ← get
    setFrame f.1 f.2 { c.frame f.1 f.2 with refs := (c.frame f.1 f.2).refs + 1 }
    onDesc f.1 o.context fun q => { q with entries := match Tbl.find? q.entries o.page with
      | some p => Tbl.insert o.page { p with shared := true } q.entries
      | none => q.entries }

/-- BIND: the descriptor on every die, and at the head a zero history (R299, R323). -/
def orderBind (o : Order) : CM Unit := do
  forM_ (upFrom 0 8) fun d => setDesc d o.context ⟨ctxResident, o.tenant, o.request, 0, o.group, 0, [], []⟩
  let c ← get
  whenM c.isHead (zeroHistory o.context)
  whenM c.isTail (onServing fun v => { v with contexts := Tbl.insert o.context ⟨o.session, o.request, false⟩ v.contexts })
  match c.request o.context with
  | some r => modify fun c => { c with promptBlocks := Tbl.insert o.context (r.hashes.length + r.pinned.length) c.promptBlocks }
  | none => pure ()

/-- END: the context ends; the tail owes its session an entry with the status, where the turn has not ended there (R299,
R310, R288). -/
def orderEnd (o : Order) : CM Unit := do
  endContext o.context
  let c ← get
  modify fun c => { c with promptBlocks := Tbl.erase o.context c.promptBlocks }
  match c.isTail, Tbl.find? c.serving.contexts o.context with
  | true, some t => onServing fun v => { v with
      contexts := Tbl.erase o.context v.contexts
      endsDue := if !t.ended && (Tbl.find? v.tail t.session).isSome then v.endsDue ++ [(t.session, t.request, o.status)] else v.endsDue }
  | _, _ => pure ()

/-- DROP: the table's reference to a prefix is released (R268).  At the head the entry may already hold its successor. -/
def orderDrop (dropped : List (Nat × PrefixEntry)) (o : Order) : CM Unit := do
  let c ← get
  let e := match dropped.find? fun e => decide (e.1 = o.pfx) with
    | some e => some e.2
    | none => Tbl.find? c.prefixes o.pfx
  match e with
  | none => pure ()
  | some e => do
    forM_ e.frames fun f => releaseFrame f.1 f.2
    whenM (!c.isHead) (modify fun c => { c with prefixes := Tbl.erase o.pfx c.prefixes })

/-- SESSION: the tail's session record is opened or closed. -/
def orderSession (o : Order) : CM Unit := do
  let c ← get
  if c.isTail then onServing fun v => { v with tail := match o.status % 2, o.peer with
      | 1, some p => Tbl.insert o.session ⟨p, [], none, none⟩ v.tail
      | _, _ => Tbl.erase o.session v.tail }
  else pure ()

/-- An order of the broadcast of step `step` (R299). -/
def applyOrder (step : Nat) (inBatch : List Nat) (dropped : List (Nat × PrefixEntry)) (o : Order) : CM Unit :=
  match o.op with
  | 1 => orderBind o
  | 2 => orderEnd o
  | 3 => orderMap o
  | 4 => orderPublish step o
  | 5 => orderDrop dropped o
  | 6 => startPageOut o.context o.handle (inBatch.contains o.context)
  | 7 => startPageIn o.context
  | 8 => orderSession o
  | _ => pure ()

/-- The head's states of requests between turns follow their descriptors (R289, R271, R272). -/
def syncPaging : CM Unit := do
  let c ← get
  forM_ c.serving.requests fun e => do
    let r := e.2
    let st := (upFrom 0 8).map fun d => (c.ctxDesc d e.1).state
    if r.unbound ∨ (r.state ≠ 2 ∧ r.state ≠ 3) then pure ()
    else if st.all fun s => decide (s = ctxRemote) then putRequest e.1 { r with state := 3, pages := 0, maps := [] }
    else if st.all fun s => decide (s = ctxResident ∨ s = ctxPagingIn) then
      putRequest e.1 { r with state := 2, pages := if r.maps.isEmpty then max r.pages (cdiv r.commit 64) else r.pages }
    else pure ()

/-! ## The batch table (R298) -/

/-- A slot's 16 bytes. -/
def BatchSlot.bytes (s : BatchSlot) : List Nat :=
  leBytes 4 s.request ++ leBytes 2 s.context
    ++ leBytes 2 (s.tenant % 1024 + b2n s.sample * 4096 + b2n s.draft * 8192 + b2n s.prefill * 16384 + b2n s.valid * 32768)
    ++ leBytes 4 (s.position % 2 ^ 20) ++ leBytes 4 (s.token % 2 ^ 18)

/-- The bytes of lines 0 to 1,031: line 0, zeros, the slots. -/
def tableBytes (step gen : Nat) (ss : List BatchSlot) : List Nat :=
  leBytes 4 step ++ leBytes 2 ss.length ++ leBytes 2 gen ++ List.replicate 248 0 ++ ss.flatMap BatchSlot.bytes

/-- Non-zero bytes as cells, from an address. -/
def cellsFrom : Nat → List Nat → Memory
  | _, [] => []
  | a, b :: t => if b % 256 = 0 then cellsFrom (a + 1) t else (a, BitVec.ofNat 8 b) :: cellsFrom (a + 1) t

/-- The table in lines 0 to 1,031 of slot 0 of a tile, written under the slot's generation (R298, R144). -/
def placeTable (t : Nat) (bytes : List Nat) (slots : Map BatchSlot) : CM Unit := do
  let c ← get
  let base := c.rd R.SPAD_SLOT_BASE_BASE (slotOff t 0)
  let gen := c.rd R.SPAD_SLOT_GEN_GEN (slotOff t 0)
  let lo := 32 * base
  let hi := 32 * (base + 1032)
  let units := upFrom (base / 8) 129
  onTileM t fun x => { x with
    batch := slots
    mem := (x.mem.filter fun e => decide (e.1 < lo)) ++ cellsFrom lo bytes ++ (x.mem.filter fun e => decide (hi ≤ e.1))
    symErr := Tbl.keep (fun p => !decide (base ≤ p ∧ p < base + 1032)) x.symErr
    tags := units.foldl (fun m u => Tbl.put 0 m u (gen * 256 + 255)) x.tags
    tagSplit := x.tagSplit.filter fun u => !units.contains u }

/-- Copy a batch into every tile; token words stand at the head only (R298, R299). -/
def copyBatch (b : Broadcast) : CM Unit := do
  let c ← get
  let ss := if c.isHead then b.slots else b.slots.map fun s => { s with token := 0 }
  let table := tableBytes b.step b.gen ss
  let m := (upFrom 0 ss.length).zip ss
  forM_ (upFrom 0 384) fun t => placeTable t table m

/-- The head fills a plain decode slot's token with the request's last emitted one (R334). -/
def fillTokens (ss : List BatchSlot) : CM (List BatchSlot) := do
  let c ← get
  pure (ss.map fun s => match c.request s.context with
    | some r => if s.prefill || s.draft || decide (0 < r.params.draftMax) then s else { s with token := r.last.getD 0 }
    | none => s)

/-! ## The start of a new step (R264, R299, R334) -/

def noBatch (step gen : Nat) : Broadcast := ⟨step, gen, [], []⟩

/-- Results, then orders, then the allocation; then the batch table.  A package that lacks a delivery does without. -/
def startDeliveries (step : Nat) : CM Unit := do
  let c ← get
  match c.serving.resultsIn with
  | some (k, rs) => whenM (decide ((k + 1) % 2 ^ 32 = step)) (applyResults rs)
  | none => pure ()
  let b := match c.serving.batchIn with
    | some b => if b.step = step then b else noBatch step (c.rd R.LOAD_GEN_ACTIVE_GEN)
    | none => noBatch step (c.rd R.LOAD_GEN_ACTIVE_GEN)
  let c ← get
  forM_ b.orders (applyOrder step (b.slots.map (·.context)) c.serving.evicted)
  onServing fun v => { v with evicted := [] }
  let c ← get
  whenM c.isHead do
    pinPrompts
    syncPaging
  allocateStep b.slots
  let c ← get
  let ss ← if c.isHead then fillTokens b.slots else pure b.slots
  let b := { b with slots := ss }
  onServing fun v => { v with batch := b, batchIn := none, resultsIn := none, draws := [] }
  mapRequests fun _ r => { r with inForce := r.deadline }
  copyBatch b

end Sys2Proof.Machine
end

