-- ==== Sys2Proof/Machine/Sampler.lean ====
section
/-! DEFINITION. The sampler at the tail (chapter 12): its state (R321, R323), the draw (R325, R326), drafts (R331), stopping
(R335, R336), results and step packets (R309 to R311, R328, R332, R333). -/
namespace Sys2Proof.Machine

/-! ## Where the state lies (R321) -/

/-- The 64 bytes of a sampling-parameter block (R318). -/
def SampParams.bytes (p : SampParams) : List Nat :=
  leBytes 4 p.temp ++ leBytes 4 p.topP ++ leBytes 4 p.rep ++ leBytes 4 p.presence ++ leBytes 4 p.frequency
    ++ leBytes 2 p.topK ++ [b2n p.ignoreEnd + 2 * b2n p.resetCounts, p.draftMax % 8 + 16 * (p.ngramM1 % 4)]
    ++ ((upFrom 0 8).flatMap fun k => match p.stops[k]? with
      | some s => leBytes 4 (s.1 % 2 ^ 18 + b2n s.2 * 2 ^ 31)
      | none => [0, 0, 0, 0])
    ++ List.replicate 8 0

/-- The block that 64 bytes hold. -/
def paramsOf (b : List Nat) : SampParams :=
  { temp := le b 0 4, topP := le b 4 4, rep := le b 8 4, presence := le b 12 4, frequency := le b 16 4, topK := le b 20 2
    ignoreEnd := bit (nth 0 b 22) 0, resetCounts := bit (nth 0 b 22) 1
    draftMax := nth 0 b 23 % 8, ngramM1 := nth 0 b 23 / 16 % 4
    stops := (upFrom 0 8).map fun k => (le b (24 + 4 * k) 4 % 2 ^ 18, bit (le b (24 + 4 * k) 4) 31) }

/-- A sampler record in its 256 bytes: the record of R320, EMITTED, and the SEED the draws need. -/
def samplerBytes (r : SamplerRec) (emitted : Nat) : List Nat :=
  leBytes 2 r.context ++ leBytes 2 (b2n r.stopOnSwitch + 2 * b2n r.newRequest) ++ leBytes 2 r.turnGen ++ [0, 0]
    ++ leBytes 4 r.maxTokens ++ [0, 0, 0, 0] ++ r.params.bytes ++ leBytes 4 emitted ++ leBytes 8 r.seed

def samplerOf (b : List Nat) : SamplerRec × Nat :=
  (⟨le b 0 2, bit (le b 2 2) 0, bit (le b 2 2) 1, le b 4 2, le b 8 4, le b 84 8, paramsOf (b.drop 16)⟩, le b 80 4)

def readSampler (x : Nat) : CM (SamplerRec × Nat) := do
  let b ← readLines (historyTile x) 4 (recordLine x) 8
  pure (samplerOf b)
def writeSampler (r : SamplerRec) (emitted : Nat) : CM Unit :=
  writeLines (historyTile r.context) 4 (recordLine r.context) 8 (samplerBytes r emitted)

/-- Entry `b` of a context's count table. -/
def readCount (x b : Nat) : CM Nat := do
  let l ← readLine (historyTile x) 4 (countLine x + b / 16)
  pure (le l (2 * (b % 16)) 2)
def writeCount (x b v : Nat) : CM Unit := do
  let l ← readLine (historyTile x) 4 (countLine x + b / 16)
  writeLine (historyTile x) 4 (countLine x + b / 16) (l.take (2 * (b % 16)) ++ leBytes 2 v ++ l.drop (2 * (b % 16) + 2))
def zeroCounts (x : Nat) : CM Unit := writeLines (historyTile x) 4 (countLine x) 256 []

/-- The records of a parameter delivery take effect before the step's first draw (R320, R323). -/
def applyParams (rs : List SamplerRec) : CM Unit := forM_ rs fun r => do
  whenM (r.newRequest || r.params.resetCounts) (zeroCounts r.context)
  writeSampler r 0
  onServing fun v => { v with contexts := match Tbl.find? v.contexts r.context with
    | some t => Tbl.insert r.context { t with ended := false } v.contexts
    | none => v.contexts }

def startParams (step : Nat) : CM Unit := do
  let c ← get
  match c.isTail, c.serving.paramsIn with
  | true, some (s, rs) =>
    if s = step then do
      applyParams rs
      onServing fun v => { v with paramsIn := none }
    else pure ()
  | _, _ => pure ()

/-! ## The draw (R325, R326) -/

/-- The bucket of a token. -/
def bucket (i : Nat) : Nat := i * 0x9E3779B1 % 2 ^ 32 / 2 ^ 20

/-- The draw value u as an FP32 word (R326). -/
def drawValue (seed step j : Nat) : FM Nat :=
  fpOfBin false (sipHash (leBytes 8 seed ++ List.replicate 8 0) (leBytes 4 step ++ [j % 256, 0, 0, 0]) / 2 ^ 40) (-24)

/-- A logit after its penalties; `n` is its bucket's count. -/
def penalise (p : SampParams) (n z : Nat) : FM Nat :=
  if n = 0 then pure z
  else do
    let x ← fpRead z
    let z ← if p.rep = fpOne then pure z else if fpLt ⟨false, 0, 0⟩ x then fpDiv z p.rep else fpMul z p.rep
    let k ← fpOfBin false n 0
    let f ← fpMul p.frequency k
    let z ← fpSub z f
    fpSub z p.presence

/-- Running sums of exp(cand − cand₀), each rounded, in order. -/
def cumulate (c0 : Nat) : Nat → List Nat → FM (List Nat)
  | _, [] => pure []
  | acc, z :: t => do
    let d ← fpSub z c0
    let e ← fpExp d
    let s ← fpAdd acc e
    let r ← cumulate c0 s t
    pure (s :: r)

/-- The token of one slot: `counts` gives the penalty count of each bucket (R325). -/
def drawToken (p : SampParams) (counts : Nat → Nat) (u : Nat) (logits : List Nat) : FM Nat := do
  let zs ← fmZip (fun i z => penalise p (counts (bucket i)) z) (upFrom 0 logits.length) logits
  if p.temp % 2 ^ 31 = 0 then do
    let r ← fpRanked zs
    pure ((r.map (·.1)).headD 0)
  else do
    let zs ← fmMap (fun z => fpDiv z p.temp) zs
    let ranked ← fpRanked zs
    let cand := ranked.take (if p.topK = 0 then 256 else p.topK)
    let cum ← cumulate ((cand.map (·.2)).headD 0) 0 (cand.map (·.2))
    let t ← fpMul p.topP (cum.getLastD 0)
    let cut := (indexOf (fun s => !fpLt (fpDecode s) (fpDecode t)) cum).getD (cum.length - 1)
    let lim ← fpMul u (nth 0 cum cut)
    let m := (indexOf (fun s => fpLt (fpDecode lim) (fpDecode s)) (cum.take (cut + 1))).getD cut
    pure ((cand.map (·.1))[m]?.getD 0)

/-- The slots of a context in the batch, in order. -/
def Chip.slotsOf (c : Chip) (x : Nat) : List BatchSlot := c.serving.batch.slots.filter fun s => s.valid && decide (s.context = x)

/-- Offset of a slot within its request's slots, and the drafts before it (R326, R331). -/
def Chip.slotOffset (c : Chip) (slot : Nat) (s : BatchSlot) : Nat :=
  ((c.serving.batch.slots.take slot).filter fun q => q.valid && decide (q.context = s.context)).length

/-- SAMPLER_DRAW: the logits of a sampled slot are in, and its token is drawn (R324, R325). -/
def doSamplerDraw (slot : Nat) (logits : List Nat) : CM Unit := do
  let c ← get
  match c.serving.batch.slots[slot]? with
  | none => pure ()
  | some s =>
    if c.stepping && c.isTail && s.valid && s.sample then do
      let (r, _) ← readSampler s.context
      let j := c.slotOffset slot s
      let drafts := if s.prefill then [] else (((c.slotsOf s.context).take (j + 1)).filter (·.draft)).map (·.token)
      let bs := unique ((upFrom 0 logits.length).map bucket)
      let ns ← mapM_ bs fun b => readCount s.context b
      let table := bs.zip ns
      let counts (b : Nat) : Nat :=
        let n := ((table.find? fun e => decide (e.1 = b)).map (·.2)).getD 0
        min 65535 (n + (drafts.filter fun x => decide (bucket x = b)).length)
      let tok := ((do
        let u ← drawValue r.seed (c.rd R.SEQ_STEP_STEP) j
        drawToken r.params counts u logits : FM Nat) {}).1
      bumpM R.SAMPLER_DRAWS_COUNT
      whenM (decide (r.params.temp % 2 ^ 31 = 0)) (bumpM R.SAMPLER_GREEDY_COUNT)
      onServing fun v => { v with draws := Tbl.insert slot tok v.draws }
    else pure ()

/-! ## Emission (R331, R332, R335, R336) -/

/-- Drafts that equal the draw before them, in order. -/
def acceptedDrafts : List Nat → List Nat → Nat
  | x :: xs, y :: ys => if x = y then acceptedDrafts xs ys + 1 else 0
  | _, _ => 0

/-- A token that ends a turn: a STOP token, or an end token of the pattern (R335). -/
def Chip.endsTurn (c : Chip) (p : SampParams) (y : Nat) : Bool :=
  (p.stops.any fun s => s.2 && decide (s.1 = y))
    || (!p.ignoreEnd && match c.inForce with
      | none => false
      | some pat => (upFrom 0 4).any fun k => decide (le pat.desc (32 + 4 * k) 4 = 2 ^ 31 + y))

/-- The tokens emitted and the status they leave: up to the first that meets a condition. -/
def Chip.emit (c : Chip) (p : SampParams) (emitted maxTok : Nat) : List Nat → List Nat × Nat
  | [] => ([], 0)
  | y :: t =>
    if c.endsTurn p y then ([y], 1)
    else if maxTok ≤ emitted + 1 then ([y], 2)
    else
      let r := c.emit p (emitted + 1) maxTok t
      (y :: r.1, r.2)

/-- Add 1 to the count of each emitted token (R328). -/
def countTokens (x : Nat) (toks : List Nat) : CM Unit := forM_ toks fun y => do
  let n ← readCount x (bucket y)
  if 65535 ≤ n then bumpM R.SAMPLER_COUNT_SAT_COUNT else writeCount x (bucket y) (n + 1)

/-- The draws of a request's sampled slots; a slot not drawn yields a free value. -/
def drawsOf (x : Nat) : CM (List Nat) := do
  let c ← get
  let at_ := ((upFrom 0 c.serving.batch.slots.length).zip c.serving.batch.slots).filter fun e =>
    e.2.valid && e.2.sample && decide (e.2.context = x)
  mapM_ at_ fun e => match Tbl.find? c.serving.draws e.1 with
    | some t => pure t
    | none => freeValue 18

/-- What a committed step gives a request: its result record (R332, R333). -/
def requestResult (step : Nat) (settled : Bool) (x : Nat) : CM ResultRec := do
  let c ← get
  let ended := ((Tbl.find? c.serving.contexts x).map (·.ended)).getD true
  if ended || Tbl.find? c.serving.skips x == some step then pure ⟨x, 0, 0, []⟩
  else if settled then do
    onServing fun v => { v with skips := Tbl.insert x ((step + 1) % 2 ^ 32) v.skips }
    pure ⟨x, 0, 5, []⟩
  else do
    let ss := c.slotsOf x
    let prefill := ss.any (·.prefill)
    let (r, emitted) ← readSampler x
    let ys ← drawsOf x
    if ys.isEmpty then pure ⟨x, ss.length, 0, []⟩
    else if r.stopOnSwitch && decide (c.serving.batch.gen ≠ r.turnGen) then do
      bumpM R.SAMPLER_SWITCH_ENDS_COUNT
      pure ⟨x, 0, 7, []⟩
    else do
      let xs := (ss.filter (·.draft)).map (·.token)
      let a := acceptedDrafts xs ys
      bumpM R.SAMPLER_DRAFTED_COUNT 0 xs.length
      bumpM R.SAMPLER_ACCEPTED_COUNT 0 a
      let e := c.emit r.params emitted r.maxTokens (ys.take (a + 1))
      countTokens x e.1
      writeSampler r (emitted + e.1.length)
      whenM (decide (e.2 = 1)) (bumpM R.SAMPLER_ENDS_STOP)
      whenM (decide (e.2 = 2)) (bumpM R.SAMPLER_ENDS_LENGTH)
      pure ⟨x, if prefill then ss.length else e.1.length, e.2, e.1⟩

/-! ## Step packets (R309 to R311) -/

/-- Whether a token of a request carries LATE: by the head's record where this package is the head (R306). -/
def lateMark (x : Nat) : CM Bool := do
  let c ← get
  match c.isHead, c.request x with
  | true, some r => pure (match r.inForce with
      | some d => decide (d < c.serving.commitBeat)
      | none => false)
  | true, none => pure false
  | false, _ => do
    let v ← freeValue 1
    pure (decide (v = 1))

/-- The entry of a result, with its session; none for an empty result. -/
def entryOf (q : ResultRec) : CM (Option (Nat × StepEntry)) := do
  let c ← get
  match Tbl.find? c.serving.contexts q.context with
  | none => pure none
  | some t =>
    if q.tokens.isEmpty ∧ q.status = 0 then pure none
    else do
      let late ← lateMark q.context
      whenM late (bumpM R.SERVE_LATE_COUNT 0 q.tokens.length)
      let n := q.tokens.length
      let toks := ((upFrom 0 n).zip q.tokens).map fun e => (e.2, late, decide (q.status ≠ 0 ∧ e.1 + 1 = n))
      let handle := if q.status = 5 then some (t.request * 2 ^ 32 + (c.ctxDesc 0 q.context).commit) else none
      whenM (decide (q.status ≠ 0 ∧ q.status ≠ 5)) (onServing fun v => { v with
        contexts := Tbl.insert q.context { t with ended := true } v.contexts })
      pure (some (t.session, ⟨t.request, c.serving.batch.gen, q.status, toks, handle⟩))

/-- Packets that leave a session's window unacknowledged end their requests (R311). -/
def loseOutput (t : TailSession) (gone : List (Nat × List StepEntry × Nat)) : CM Unit := forM_ gone fun g => do
  let acked := match t.acked with
    | some a => decide ((a + 2 ^ 32 - g.1) % 2 ^ 32 < 2 ^ 31)
    | none => false
  if acked then pure ()
  else forM_ g.2.1 fun e => do
    let c ← get
    match c.serving.requests.find? fun r => decide (r.2.request = e.request) with
    | some (x, r) => if r.ends.contains 8 then pure () else do
        addEnd 8 x
        bumpM R.SERVE_OUTPUT_LOST_COUNT
    | none => bumpM R.SERVE_OUTPUT_LOST_COUNT

/-- Send a session's step packet and keep it (R309, R311). -/
def sendPacket (step s : Nat) (es : List StepEntry) : CM Unit := do
  let c ← get
  match Tbl.find? c.serving.tail s with
  | none => pure ()
  | some t => do
    let beat := c.serving.commitBeat
    sendTnp t.peer ⟨s, 0, step, 0, 0, .step beat es⟩
    bumpM R.SERVE_STEP_PKTS_COUNT
    let all := t.packets ++ [(step, es, beat)]
    let overN := all.length - c.serving.serve.stepKeep
    let gone := all.take overN
    let last := match gone.getLast? with
      | some g => some g.1
      | none => t.gone
    onServing fun v => { v with tail := Tbl.insert s { t with packets := all.drop overN, gone := last } v.tail }
    loseOutput t gone

/-- The step packets of a step: entries in batch order, then ends without a slot. -/
def sendPackets (step : Nat) (es : List (Nat × StepEntry)) : CM Unit :=
  forM_ (unique (es.map Prod.fst)) fun s => sendPacket step s ((es.filter fun e => decide (e.1 = s)).map Prod.snd)

/-- The tail at a commit: results to every package, packets to the sessions (R309, R328, R333). -/
def tailCommit (step : Nat) (settled : Bool) : CM Unit := do
  let c ← get
  if c.isTail then do
    let xs := unique ((c.serving.batch.slots.filter (·.valid)).map (·.context))
    let rs ← mapM_ xs (requestResult step settled)
    onServing fun v => { v with resultsIn := some (step, rs) }
    toPackages (.results step rs)
    let es ← mapM_ rs entryOf
    let c ← get
    let ends := c.serving.endsDue.map fun e => (e.1, (⟨e.2.1, c.serving.batch.gen, e.2.2, [], none⟩ : StepEntry))
    onServing fun v => { v with endsDue := [], draws := [] }
    sendPackets step (es.filterMap id ++ ends)
  else pure ()

/-- STEP_ACK: a gateway's ACK names the last packet received whole (R311). -/
def doStepAck (session step : Nat) : CM Unit := onServing fun v =>
  match Tbl.find? v.tail session with
  | none => v
  | some t => { v with tail := Tbl.insert session { t with acked := some step } v.tail }

/-- RESEND: kept packets again, or GONE (R311). -/
def doResend (i : TnpIn) (first count : Nat) : CM Unit := do
  let c ← get
  match Tbl.find? c.serving.tail i.session with
  | none => pure ()
  | some t => do
    let n := max 1 (min 1024 count)
    whenM (decide (n ≠ count)) (clampEvent srcGateway i.session 8)
    let wanted (s : Nat) : Bool := decide ((s + 2 ^ 32 - first) % 2 ^ 32 < n)
    forM_ (t.packets.filter fun p => wanted p.1) fun p => do
      sendTnp t.peer ⟨i.session, 0, p.1, 0, 0, .step p.2.2 p.2.1⟩
      bumpM R.SERVE_RESENDS_RESENT
    match t.gone with
    | some g =>
      if (g + 2 ^ 32 - first) % 2 ^ 32 < 2 ^ 31 then do
        sendTnp t.peer ⟨i.session, i.tenant, 0, 0, 0, .status 8 0x22 none⟩
        bumpM R.SERVE_RESENDS_GONE
      else pure ()
    | none => pure ()

end Sys2Proof.Machine
end

