-- ==== Sys2Proof/Machine/Steps.lean ====
section
/-! DEFINITION. Jobs and steps (chapter 7): start, stop and gear orders (R175, R177, R241), the step start (R112, R210),
pegs of JOB scope (R155, R209), the commit (R170, R171). -/
namespace Sys2Proof.Machine

/-! ## Job start (R164, R169, R175, R241, R276, R552) -/

/-- A group record that refuses a start: its cause (R241). -/
def Chip.pathFail (c : Chip) (job : Nat) (g : PathGroup) : Option Nat :=
  let n := g.port * 4 + g.group
  if c.grpOwner n = ownerTransit then some 0x35
  else if c.grpState n ≠ grpUp then some 0x36
  else
    let agrees := match (c.link n).peer with
      | none => false
      | some p => decide (p.node = g.peer ∧ p.job = job ∧ (p.kind = ownerOwn ∨ p.kind = ownerTransit) ∧ p.lanes = g.lanes)
          && p.enc == g.enc
    if !agrees then some 0x37
    else if c.rd R.TORUS_GRP_LAT_LAT_MAX (lgOff n) < c.rd R.TORUS_GRP_LAT_LAT (lgOff n) then some 0x38 else none

/-- The status that refuses a start, if any. -/
def Chip.startFail (c : Chip) (job b0 : Nat) : Option Nat :=
  let stackLost := (upFrom 0 8).any fun d => decide (c.rd R.CTX_STATUS_STACK (dieOff d) = 3)
  if c.jobRuns || c.intrusive then some 0x30
  else if c.rd R.SEQ_STATE_STATE ≠ seqAccepted ∨ c.rd R.SEQ_JOB_JOB ≠ job ∨ stackLost = true then some 0x31
  else if b0 ≤ c.headBeat then some 0x32
  else if !c.flag R.TIMEBASE_STATUS_SYNC_SEEN || !c.flag R.TIMEBASE_STATUS_EPOCH_VALID
      || c.flag R.TIMEBASE_STATUS_EPOCH_PENDING then some 0x33
  else if !c.thetaValid || (!c.isHead && decide (65536 < c.theta.natAbs)) then some 0x34
  else firstSome (c.pathFail job) c.seq.paths

/-- Show the announced gear (R177). -/
def showGear : CM Unit := do
  let c ← get
  let g := c.rd R.SEQ_STATE_GEAR
  wrM R.SEQ_STATE_GEAR_NEXT 0 c.seq.gearLater
  wrM R.SEQ_STATE_GEAR_PENDING 0 (b2n (decide (c.seq.gearSoon ≠ g ∨ c.seq.gearLater ≠ g)))

/-- What this package is for the running job (R316, R338). -/
def showRoles (runs : Bool) : CM Unit := do
  let c ← get
  wrM R.SERVE_STATUS_HEAD 0 (b2n (runs && c.isHead))
  wrM R.SERVE_STATUS_TAIL 0 (b2n (runs && c.isTail))
  wrM R.SERVE_STATUS_ADMITTING 0 (b2n (runs && c.isHead))
  wrM R.SAMPLER_STATUS_HEAD 0 (b2n (runs && c.isHead))
  wrM R.SAMPLER_STATUS_TAIL 0 (b2n (runs && c.isTail))

/-- What a run leaves behind for the next run or step: nothing. -/
def clearRun : CM Unit := modify fun c => { c with
  arrived := false, lateStep := false, uncovered := false, probing := none, replayAt := none
  replicaOut := [], jobPegs := [], downDone := [], upTree := [], arrivals := []
  seq := { c.seq with pegsIn := [], slip := false } }

/-- The tasks of the job start on every slot that has lines; CONST lines go in (R143, R344). -/
def startTasks (job : Nat) : CM Unit := forM_ (upFrom 0 384) fun t => do
  forM_ (upFrom 0 8) fun s => do
    let c ← get
    whenM (decide (0 < c.rd R.SPAD_SLOT_BOUND_LINES (slotOff t s))) (taskStart t s job)
  writeConst t

/-- Free windows end with the acceptance of a start (R186, R385). -/
def endFreeWindows : CM Unit := do
  abandonTruings
  let c ← get
  forM_ allBoards fun b => whenM (decide (c.arrState b = arrProgram)) (doProgramWindowEnd b)

/-- The replica named for this package from the boundary on (R411). -/
def takeReplica : CM Unit := do
  let c ← get
  match c.replicaNext with
  | none => pure ()
  | some r => do
    wrM R.FAULT_REPLICA_VALID 0 1
    wrM R.FAULT_REPLICA_NODE 0 r.node
    modify fun c => { c with replicaNext := none }

/-- The job begins (R175). -/
def beginJob (job gear b0 frames : Nat) : CM Unit := do
  endFreeWindows
  wrM R.SEQ_STATE_STATE 0 seqRunning
  wrM R.SEQ_STATE_GEAR 0 gear
  wrM R.SEQ_STATE_ADVISE 0 0
  wrM R.SEQ_B0_BEAT 0 b0
  wrM R.SEQ_START_BEAT 0 b0
  wrM R.SEQ_STEP_STEP 0 0
  wrM R.SEQ_ROTATION_PHASE 0 0
  wrM R.SEQ_LAG_BEATS 0 0
  wrM R.SEQ_LAST_VALID 0 0
  wrM R.SEQ_LAST_LATE 0 0
  wrM R.SEQ_LAST_SLIP 0 0
  wrM R.SEQ_LAST_COMMIT_OFFSET 0 0
  wrM R.FAULT_STATUS_REPLAY 0 0
  wrM R.FAULT_STATUS_REPLAYING 0 0
  wrM R.FAULT_STATUS_SETTLING 0 0
  wrM R.FAULT_UNCOVERED_RUN_STEPS 0 0
  clearRun
  takeReplica
  modify fun c => { c with
    runFault := false, nextFault := false, holdCause := 0, notices := [], pkgCauses := []
    seq := { c.seq with gearSoon := gear, gearLater := gear, gearOrder := none, stopAt := none, next := some b0, posted := false,
                        commitOwn := none, flips := [], skip := false, advisedAt := none } }
  showGear
  showRoles true
  onServing fun v => { v with
    framesMin := frames, requests := [], released := [], orders := [], evicted := [], closed := none, batchIn := none
    paramsIn := none, resultsIn := none, batch := noBatch 0 0, contexts := [], tail := [], draws := [], skips := []
    commitBeat := 0, endsDue := [] }
  let c ← get
  whenM c.isHead (forM_ c.serving.sessions fun s => placeOrder (sessionOrder s.1 s.2.peer true))
  startTasks job
  raiseRails gear
  forM_ (c.loads.filter fun l => decide (l.state = 4 ∧ (l.kind = 1 ∨ l.kind = 3))) fun l => tellReady l.kind l.object true 0

/-- START: a start order (R175). -/
def doStart (i : TnpIn) (job gear b0 frames : Nat) : CM Unit := do
  let c ← get
  match c.startFail (job % 4096) (b0 % 2 ^ 48) with
  | some s => answer i 0x40 s
  | none => do
    whenM (decide (2 < gear)) (clampEvent srcOrch 0 0x40)
    beginJob (job % 4096) (min 2 gear) (b0 % 2 ^ 48) frames
    answer i 0x40 0

/-! ## The end of a job (R175, R267, R441, R243) -/

/-- Every request and task of the job ends; its groups become FREE; the list stays accepted. -/
def endJob : CM Unit := do
  let c ← get
  forM_ (unique ((c.descs.filter fun e => decide (e.2.state ≠ ctxFree)).map fun e => e.1 % 65536)) endContext
  modify fun c => { c with promptBlocks := [], pagings := [] }
  onServing fun v => { v with
    requests := [], orders := [], evicted := [], closed := none, batchIn := none, paramsIn := none, resultsIn := none
    contexts := [], tail := [], draws := [], skips := [], endsDue := [], released := [] }
  forM_ (upFrom 0 384) fun t => do
    forM_ (upFrom 0 8) fun s => taskEnd t s
    let c ← get
    whenM (decide (c.tileState t ≠ tileShelved)) (wrM R.TILE_STATE_STATE (tileOff t) tileReady)
    onTileM t fun x => { x with hold := .none, issued := [], sends := [], recvs := [], retained := [], ending := false, wrapWait := [] }
    showRetained t
  forM_ (upFrom 0 24) fun g => whenM (decide (c.grpOwner g = ownerOwn)) (freeGroup g)
  showRoles false
  clearRun
  wrM R.SEQ_STATE_STATE 0 seqAccepted
  wrM R.SEQ_STATE_GEAR_PENDING 0 0
  wrM R.FAULT_STATUS_HOLD 0 0
  wrM R.FAULT_STATUS_HOLD_CAUSE 0 0
  wrM R.FAULT_STATUS_REPLAY 0 0
  wrM R.FAULT_STATUS_REPLAYING 0 0
  wrM R.FAULT_STATUS_SETTLING 0 0
  modify fun c => { c with
    faultQueue := [], notices := [], pkgCauses := [], runFault := false, nextFault := false, holdCause := 0, replicaServe := []
    readmits := [], testing := c.testing ++ c.readmits
    seq := { c.seq with next := none, posted := false, stopAt := none, commitOwn := none, flips := [], skip := false } }

/-- `a` is an earlier step than `b`, modulo 2³² (R172). -/
def stepBefore (a b : Nat) : Bool := decide (0 < (b + 2 ^ 32 - a) % 2 ^ 32 ∧ (b + 2 ^ 32 - a) % 2 ^ 32 < 2 ^ 31)

/-- STOP: a stop order names the last step; one already begun is clamped to the current one (R175, R313, R419). -/
def doStop (i : TnpIn) (job last : Nat) : CM Unit := do
  let c ← get
  if !c.jobRuns || decide (c.rd R.SEQ_JOB_JOB ≠ job % 4096) then answer i 0x41 0x10
  else if c.rd R.SEQ_STATE_STATE = seqHold then do
    endJob
    answer i 0x41 0
  else do
    let cur := c.rd R.SEQ_STEP_STEP
    let early := stepBefore (last % 2 ^ 32) cur
    whenM early (clampEvent srcOrch 0 0x41)
    let stop := if early then cur else last % 2 ^ 32
    if stop = cur ∧ c.seq.next.isSome = true ∧ c.flag R.SEQ_LAST_VALID = true then endJob
    else do
      wrM R.SEQ_STATE_STATE 0 seqStopping
      modify fun c => { c with seq := { c.seq with stopAt := some stop } }
    answer i 0x41 0

/-- GEAR: the head takes a gear order into its next commit message; gear 3 and the announced gear change nothing
(R177). -/
def doGear (i : TnpIn) (job gear : Nat) : CM Unit := do
  let c ← get
  if !c.stepping || !c.isHead || decide (c.rd R.SEQ_JOB_JOB ≠ job % 4096) then answer i 0x42 0x10
  else do
    whenM (decide (gear < 3)) (modify fun c => { c with seq := { c.seq with
      gearOrder := if gear = c.seq.gearLater then none else some gear } })
    answer i 0x42 0

/-- EPOCH: a set-epoch order of the orchestrator (R164). -/
def doEpoch (i : TnpIn) (hi : Nat) : CM Unit := do
  let ok ← placeEpoch hi
  answer i 0x43 (if ok then 0 else 0x30)

/-! ## The step start (R112, R172, R178, R210, R410) -/

/-- STEP_START_POST: the sequencer posts the next step's start (R210). -/
def doStepStartPost : CM Unit := do
  let c ← get
  if c.stepping && c.seq.next.isSome && decide (c.holdCause = 0) then
    modify fun c => { c with seq := { c.seq with posted := true } }
  else pure ()

/-- A tile's engine begins its program (R112, R136). -/
def startEngine (t : Nat) (replay : Bool) : CM Unit := do
  let c ← get
  if c.tileState t = tileShelved then pure ()
  else do
    onTileM t fun x => { x with xregs := [], hold := .none, issued := [], sends := [], ending := false, charged := 0 }
    wrM R.TILE_STATE_PC (tileOff t) 0
    wrM R.TILE_STATE_BANK (tileOff t) (c.rd R.SEQ_STATE_GEAR)
    wrM R.TILE_STATE_STATE (tileOff t) (if replay then tileReplay else tileRun)
    wrM R.TILE_STEP_STEP (tileOff t) (c.rd R.SEQ_STEP_STEP)
    whenM replay (bumpM R.TILE_REPLAYS_COUNT (tileOff t))

/-- The package's share of the run is uncovered: one notice for the run (R410). -/
def shareUncovered : CM Unit := do
  let c ← get
  if c.uncovered then pure ()
  else do
    modify fun c => { c with uncovered := true }
    raisePackage 0x4A

/-- The engines of a run begin; tiles, halves and dies out of service leave their share uncovered (R410). -/
def startEngines (replay : Bool) : CM Unit := do
  forM_ (upFrom 0 384) fun t => startEngine t replay
  let c ← get
  whenM ((upFrom 0 384).any fun t => decide (c.tileState t = tileShelved)) shareUncovered

/-- The gear of the step takes effect (R177, R178). -/
def enterGear : CM Unit := do
  let c ← get
  let old := c.rd R.SEQ_STATE_GEAR
  if c.seq.gearSoon ≠ old then do
    wrM R.SEQ_STATE_GEAR 0 c.seq.gearSoon
    bumpM R.SEQ_GEAR_CHANGES_COUNT
    wrM R.SEQ_STATE_ADVISE 0 0
  else pure ()
  modify fun c => { c with seq := { c.seq with gearSoon := c.seq.gearLater } }
  showGear
  switchClocks

/-- STEP_START: the start beat of a new step (R112). -/
def doStepStart : CM Unit := do
  let c ← get
  match c.seq.next with
  | none => pure ()
  | some s =>
    if c.stepping && c.seq.posted && decide (c.holdCause = 0) then do
      reachBeat (c.localBeat s)
      let first := !c.flag R.SEQ_LAST_VALID
      let step := if first then 0 else (c.rd R.SEQ_STEP_STEP + 1) % 2 ^ 32
      finishHeld
      wrM R.SEQ_STEP_STEP 0 step
      wrM R.SEQ_START_BEAT 0 s
      whenM (!first) (wrM R.SEQ_ROTATION_PHASE 0
        ((c.rd R.SEQ_ROTATION_PHASE + 1) % (c.rd R.SEQ_ROTATION_ROTATION_M1 + 1)))
      modify fun c => { c with runStart := c.beat, seq := { c.seq with next := none, posted := false } }
      enterGear
      let c ← get
      if c.seq.skip then pure ()
      else do
        startDeliveries step
        startParams step
        startEngines false
    else pure ()

/-! ## Pegs of JOB scope (R155, R158, R171, R209, R231) -/

/-- The children's arrivals at a peg, where every child's has come. -/
def Chip.childArrivals (c : Chip) (id : Nat) : Option (List PegMsg) :=
  let of (port : Nat) : Option PegMsg := (c.seq.pegsIn.find? fun e => decide (e.1 = port ∧ e.2.pegId = id
    ∧ e.2.step = c.rd R.SEQ_STEP_STEP ∧ e.2.replay = c.rd R.FAULT_STATUS_REPLAY)).map (·.2)
  let l := c.children.map fun k => of k.1
  if l.all (·.isSome) then some (l.filterMap fun x => x) else none

/-- The combined arrival of this package and those behind it (R167, R171, R403). -/
def Chip.combined (c : Chip) (id : Nat) (last : Bool) (kids : List PegMsg) : PegMsg :=
  { done := false, pegId := id, step := c.rd R.SEQ_STEP_STEP, replay := c.rd R.FAULT_STATUS_REPLAY
    slip := (last && c.seq.slip) || kids.any (·.slip)
    late := (last && c.lateStep) || kids.any (·.late)
    fault := (last && c.runFault) || kids.any (·.fault)
    arrived := 1 + kids.foldl (fun n m => n + m.arrived) 0 }

/-- Send a PEG flit. -/
def sendPeg (node : Nat) (m : PegMsg) : CM Unit := do
  let c ← get
  enqueue ⟨node, c.rd R.SEQ_JOB_JOB, 0, .peg m⟩

/-- S(k + 1) (R170). -/
def Chip.nextStart (c : Chip) (slip : Bool) : Nat :=
  max (c.rd R.SEQ_START_BEAT + c.rd R.SEQ_LEN_L (4 * c.rd R.SEQ_STATE_GEAR)) (c.headBeat + c.rd R.SEQ_GAP_RESUME_GAP) + b2n slip

/-- Segments of a commit of `f` flip orders on a group (R231). -/
def commitSegs (enc : Bool) (f : Nat) : Nat := max 1 (cdiv f (if enc then 10 else 12))

/-- The head sends the commit message to every package, itself included (R171). -/
def sendCommit (slip late : Bool) : CM Unit := do
  let c ← get
  let gear := c.seq.gearOrder.getD c.seq.gearLater
  let m : CommitMsg := { step := c.rd R.SEQ_STEP_STEP, replay := c.rd R.FAULT_STATUS_REPLAY, slip := slip, late := late, gear := gear
                         next := c.nextStart slip, flips := c.seq.flips }
  modify fun c => { c with seq := { c.seq with commitOwn := some m, gearOrder := none, flips := [] }, probing := none }
  forM_ c.others fun n => do
    let enc := match c.routeOf n with
      | some g => c.flag R.TORUS_GRP_STATE_ENC (lgOff g)
      | none => false
    let segs := commitSegs enc m.flips.length
    forM_ (upFrom 0 segs) fun k => enqueue ⟨n, c.rd R.SEQ_JOB_JOB, 0, .commit m k segs⟩

/-- A JOB peg is complete at the head: DONE to every package, or for the commit peg the commit message.  A faulted run
never commits (R403). -/
def headPeg (last : Bool) (m : PegMsg) : CM Unit := do
  let c ← get
  if last then whenM (!m.fault && !c.notices.any fun n => decide (n.step = m.step ∧ n.replay = m.replay)) (sendCommit m.slip m.late)
  else do
    forM_ c.others fun n => sendPeg n { m with done := true }
    modify fun c => { c with downDone := c.downDone ++ [(4, 0)] }

/-- The package's oldest JOB peg joins those of the packages behind it and goes toward the head. -/
def settlePeg : CM Unit := do
  let c ← get
  match c.jobPegs with
  | [] => pure ()
  | id :: rest =>
    match c.childArrivals id with
    | none => pure ()
    | some kids => do
      let last := c.arrived && rest.isEmpty
      let m := c.combined id last kids
      modify fun c => { c with jobPegs := rest, seq := { c.seq with pegsIn := c.seq.pegsIn.filter fun e => !decide (e.2.pegId = id) } }
      if c.isHead then
        if m.arrived = c.rd R.SEQ_JOB_PACKAGES then headPeg last m else pure ()
      else match c.parentHop with
        | none => pure ()
        | some p => sendPeg p.2 m

/-- Every JOB peg that can go on, oldest first. -/
def settlePegs : CM Unit := do
  let c ← get
  forM_ c.jobPegs fun _ => settlePeg

/-- PEG: an arrival of a package behind this one, or the head's DONE (R231).  A flagged arrival is a fault of the run
(R403, R407). -/
def doPegFlit (h : Hdr) (m : PegMsg) : CM Unit := do
  let mine ← receiveFlit h (.peg m)
  if mine then do
    let c ← get
    if !c.stepping || c.seq.next.isSome || decide (m.step ≠ c.rd R.SEQ_STEP_STEP ∨ m.replay ≠ c.rd R.FAULT_STATUS_REPLAY) then pure ()
    else if m.done then modify fun c => { c with downDone := c.downDone ++ [(4, 0)] }
    else do
      modify fun c => { c with seq := { c.seq with pegsIn := c.seq.pegsIn ++ [(h.port, m)] } }
      whenM (c.isHead && m.fault) (modify fun c => { c with notices := c.notices ++ [⟨c.node, 4, 0, m.replay, m.step, 0⟩] })
      settlePegs
  else pure ()

/-- PEG_ARRIVAL, and what follows at JOB scope (R209). -/
def doPegArrivalJob (k : Nat) : CM Unit := do
  doPegArrival k
  settlePegs

/-! ## The commit (R170 to R174, R179) -/

/-- Operations in flight complete into nothing: issue queues, pegs and receives that are not retained go (R408). -/
def abandonTile (t : Nat) : CM Unit := do
  let c ← get
  onTileM t fun x => { x with hold := .none, issued := [], sends := [], ending := false
                              recvs := x.recvs.filter fun r => r.retain && r.done }
  whenM (c.running t) (wrM R.TILE_STATE_STATE (tileOff t) tileReady)
  showRetained t

/-- The package abandons a run (R408). -/
def abandonRun : CM Unit := do
  forM_ (upFrom 0 384) abandonTile
  modify fun c => { c with upTree := [], arrivals := [], downDone := [], jobPegs := [], replicaOut := []
                           seq := { c.seq with pegsIn := [], slip := false } }
  onServing fun v => { v with draws := [] }

/-- Retention ends with the commit (R135); the receives of the step are done with. -/
def endRetention : CM Unit := forM_ (upFrom 0 384) fun t => do
  onTileM t fun x => { x with recvs := [], retained := [], partials := [] }
  showRetained t

/-- What the commit shows in the SEQ registers, and the lag (R170, R179). -/
def showCommit (m : CommitMsg) : CM Unit := do
  let c ← get
  let s := c.rd R.SEQ_START_BEAT
  let due := s + c.rd R.SEQ_LEN_L (4 * c.rd R.SEQ_STATE_GEAR)
  let excess := m.next - due
  wrM R.SEQ_LAST_VALID 0 1
  wrM R.SEQ_LAST_LATE 0 (b2n m.late)
  wrM R.SEQ_LAST_SLIP 0 (b2n m.slip)
  wrM R.SEQ_LAST_COMMIT_OFFSET 0 (min (c.headBeat - s) (2 ^ 20 - 1))
  bumpM R.SEQ_LAG_BEATS 0 excess
  whenM (decide (0 < excess)) (bumpM R.SEQ_LATE_STEPS_COUNT)
  let slowed := (upFrom 0 16).any fun h => c.flag R.TIMEBASE_HALF_CLK_SLOWED (4 * h)
  if slowed && decide (0 < excess) then do
    wrM R.SEQ_STATE_ADVISE 0 1
    let again := match c.seq.advisedAt with
      | none => true
      | some k => decide (1024 ≤ (m.step + 2 ^ 32 - k) % 2 ^ 32)
    whenM again do
      modify fun c => { c with seq := { c.seq with advisedAt := some m.step } }
      report ⟨0x14, 4, 0, 0, m.step, min 2 (c.rd R.SEQ_STATE_GEAR + 1)⟩
  else pure ()

/-- A package whose arrival carried SLIP takes θ into force (R167). -/
def applySlip : CM Unit := do
  let c ← get
  if c.arrived && c.seq.slip then do
    wrM R.TIMEBASE_THETA_APPLIED_BEATS 0 (trunc 16 (divRneInt c.seq.latched 64))
    bumpM R.TIMEBASE_SLIPS_COUNT
    timeRecord 4
  else pure ()

/-- Deadlines that the commit beat has passed (R306, R307). -/
def passDeadlines : CM Unit := do
  let c ← get
  mapRequests fun _ r => match r.deadline with
    | some d => if d < c.serving.commitBeat ∧ r.applied ≠ some d then { r with due := true } else r
    | none => r

/-- The faults of the step are done with; those found after the arrival belong to the next step (R402, R404). -/
def clearFaults (step : Nat) : CM Unit := modify fun c => { c with
  faultQueue := c.faultQueue.filterMap fun e =>
    let q := e.2.filter fun x => decide (x.step ≠ step)
    if q.isEmpty then none else some (e.1, q)
  notices := c.notices.filter fun n => decide (n.step ≠ step)
  pkgCauses := if c.nextFault then c.pkgCauses else []
  runFault := c.nextFault, nextFault := false }

/-- A settled commit counts toward HOLD, another ends the count (R409, R419). -/
def countSettled (settled : Bool) (step : Nat) : CM Unit := do
  let c ← get
  if settled then do
    bumpM R.FAULT_SETTLED_COUNT
    let n := min (c.rd R.FAULT_UNCOVERED_RUN_STEPS + 1) (c.rd R.FAULT_CFG_UNCOVERED_MAX)
    wrM R.FAULT_UNCOVERED_RUN_STEPS 0 n
    report ⟨0x15, 4, 0, 0, step, (unique ((c.serving.batch.slots.filter (·.valid)).map (·.context))).length⟩
    whenM (decide (c.rd R.FAULT_CFG_UNCOVERED_MAX ≤ n)) (modify fun c => { c with holdCause := if c.holdCause = 0 then 3 else c.holdCause })
  else wrM R.FAULT_UNCOVERED_RUN_STEPS 0 0

/-- Flip orders, the PATTERN order first (R106, R366, R367). -/
def applyFlips (fs : List Flip) : CM Unit := do
  forM_ (fs.filter fun f => !f.insole) fun f => flipPattern f.gen true
  forM_ (fs.filter fun f => f.insole) fun f => flipInsole f.tenant f.version

/-- The next start has passed: the package does not run the step (R174). -/
def lateCommit (m : CommitMsg) : CM Unit := do
  let c ← get
  if c.localBeat m.next < c.beat then do
    bumpM R.SEQ_COMMIT_LATE_COUNT
    modify fun c => { c with seq := { c.seq with skip := true } }
    raisePackage 0x40
  else pure ()

/-- Step k commits at the package (R171). -/
def commitStep (m : CommitMsg) : CM Unit := do
  let c ← get
  let settled := c.flag R.FAULT_STATUS_SETTLING
  if settled then abandonRun else completeScope 4 0
  onServing fun v => { v with commitBeat := c.headBeat }
  showCommit m
  applySlip
  tailCommit m.step settled
  passDeadlines
  adjustDrift
  commitStaged
  rejoinEdges
  rejoinGroups
  takeReplica
  endRetention
  clearFaults m.step
  clearRun
  countSettled settled m.step
  wrM R.FAULT_STATUS_REPLAY 0 0
  wrM R.FAULT_STATUS_REPLAYING 0 0
  wrM R.FAULT_STATUS_SETTLING 0 0
  modify fun c => { c with replicaServe := [], seq := { c.seq with next := some m.next, gearLater := m.gear, posted := false, skip := false } }
  whenM (decide (m.gear ≠ c.seq.gearLater)) (raiseRails m.gear)
  showGear
  applyFlips m.flips
  if c.seq.stopAt = some m.step then endJob else lateCommit m
  flushReports

/-- A commit message that this package may take: of its running step, and not yet taken. -/
def Chip.takesCommit (c : Chip) (m : CommitMsg) : Bool :=
  c.stepping && c.seq.next.isNone && decide (m.step = c.rd R.SEQ_STEP_STEP)
    && (decide (m.replay = c.rd R.FAULT_STATUS_REPLAY) || c.flag R.FAULT_STATUS_SETTLING)

/-- COMMIT: all segments of the head's message have come; at the head, its own message takes effect (R171). -/
def doCommit (w : Option (List Hdr × CommitMsg)) : CM Unit := do
  match w with
  | none => do
    let c ← get
    match c.seq.commitOwn with
    | none => pure ()
    | some m => do
      modify fun c => { c with seq := { c.seq with commitOwn := none } }
      whenM (c.takesCommit m) (commitStep m)
  | some (hs, m) => do
    let mine ← receiveAll hs (.commit m 0 hs.length)
    if mine then do
      let c ← get
      whenM (c.takesCommit m) (commitStep m)
    else pure ()

end Sys2Proof.Machine
end

