-- ==== Sys2Proof/Machine/Recovery.lean ====
section
/-! DEFINITION. Recovery (chapter 15): notices, replays and settled steps (R407 to R410), the replica service (R411 to R413),
tests and re-admission (R415 to R417), timeouts and HOLD (R418, R419), FAULT_ORDER (R426), resume windows (R420). -/
namespace Sys2Proof.Machine

/-- The step runs at this package: between its start and its commit. -/
def Chip.stepRuns (c : Chip) : Bool := c.stepping && c.seq.next.isNone

/-! ## Replay (R407, R408) -/

/-- Units out of service whose test a replay gap begins: the widest of each, but for HELD ones and halves whose supply or
heat keeps them out (R416, R470, R478). -/
def Chip.testable (c : Chip) : List Nat :=
  let dies := (upFrom 0 8).filter fun d => c.out 3 d && !c.held 3 d
  let halves := (upFrom 0 16).filter fun h => c.out 2 h && !c.held 2 h && !c.out 3 (h / 2)
    && !c.tripped h && !c.flag R.PWR_H_STATE_SUPPLY_FAIL (halfWin h)
  let tiles := (upFrom 0 384).filter fun t => c.out 1 t && !c.held 1 t && !c.out 2 (halfOfTile t) && !c.out 3 (t / 48)
  dies.map (unitKey 3) ++ halves.map (unitKey 2) ++ tiles.map (unitKey 1)

/-- A package takes a replay order: it abandons its run, and tests begin (R408, R416). -/
def takeReplay (replay start : Nat) : CM Unit := do
  abandonRun
  let c ← get
  wrM R.FAULT_STATUS_REPLAY 0 replay
  wrM R.FAULT_STATUS_REPLAYING 0 1
  modify fun c => { c with
    runFault := false, uncovered := false, arrived := false, lateStep := false, probing := none
    replayAt := some (c.localBeat start)
    testing := unique (c.testing ++ c.testable ++ c.readmits), readmits := [] }
  if c.localBeat start < c.beat then do
    modify fun c => { c with seq := { c.seq with skip := true } }
    raisePackage 0x40
  else pure ()

/-- A newer replay of the running step. -/
def Chip.takesReplay (c : Chip) (replay step : Nat) : Bool :=
  c.stepRuns && decide (step = c.rd R.SEQ_STEP_STEP ∧ c.rd R.FAULT_STATUS_REPLAY < replay) && !c.flag R.FAULT_STATUS_SETTLING

/-- REPLAY: the head's order arrives (R408). -/
def doReplay (h : Hdr) (replay step start : Nat) : CM Unit := do
  let mine ← receiveFlit h (.ctrl (.replay replay step start))
  let c ← get
  whenM (mine && c.takesReplay replay step) (takeReplay replay start)

/-- The head orders the next replay of the step (R407). -/
def orderReplay (wide : Bool) : CM Unit := do
  let c ← get
  let r := c.rd R.FAULT_STATUS_REPLAY + 1
  let k := c.rd R.SEQ_STEP_STEP
  let start := c.headBeat + (if wide then c.rd R.FAULT_GAP_READMIT_GAP else c.rd R.FAULT_GAP_REPLAY_GAP)
  forM_ c.others fun n => sendCtrl n (.replay r k start)
  takeReplay r start

/-- The head settles the step: SETTLE, then the commit message (R409). -/
def orderSettle : CM Unit := do
  let c ← get
  forM_ c.others fun n => sendCtrl n (.settle (c.rd R.FAULT_STATUS_REPLAY) (c.rd R.SEQ_STEP_STEP))
  wrM R.FAULT_STATUS_SETTLING 0 1
  sendCommit false c.lateStep

/-- The notices of the current run. -/
def Chip.runNotices (c : Chip) : List Notice :=
  c.notices.filter fun n => decide (n.step = c.rd R.SEQ_STEP_STEP ∧ n.replay = c.rd R.FAULT_STATUS_REPLAY)

/-- The head's answer to what it holds for the current run: a replay, or the step is settled (R407, R409).  While a probe
waits for answers, what it has found so far waits with it (R418). -/
def headReacts : CM Unit := do
  let c ← get
  let ns := c.runNotices
  let waits := (match c.probing with
    | some (_, left) => !left.isEmpty
    | none => false) && ns.all fun n => decide (n.cause = 0x14)
  if !c.isHead || !c.stepRuns || c.seq.commitOwn.isSome || c.flag R.FAULT_STATUS_SETTLING || ns.isEmpty || waits then pure ()
  else if decide (c.rd R.FAULT_CFG_MAX_REPLAYS ≤ c.rd R.FAULT_STATUS_REPLAY) || ns.any fun n => decide (n.cls = 4 ∧ n.cause = 0x4A) then
    orderSettle
  else orderReplay (ns.any fun n => decide (n.cls = 1 ∨ n.cls = 2 ∨ n.cls = 3))

/-- FAULT_NOTICE: the head takes a notice; one of an older run is absorbed (R407, R408). -/
def doFaultNotice (h : Hdr) (n : Notice) : CM Unit := do
  let mine ← receiveFlit h (.ctrl (.notice n))
  let c ← get
  let cur := c.rd R.SEQ_STEP_STEP
  let old := stepBefore n.step cur || (decide (n.step = cur) && (decide (n.replay < c.rd R.FAULT_STATUS_REPLAY) || !c.stepRuns))
  whenM (mine && c.isHead && c.stepping && !old) (modify fun c => { c with notices := c.notices ++ [n] })

/-- SETTLE (R409). -/
def doSettle (h : Hdr) (replay step : Nat) : CM Unit := do
  let mine ← receiveFlit h (.ctrl (.settle replay step))
  let c ← get
  whenM (mine && c.stepRuns && decide (step = c.rd R.SEQ_STEP_STEP)) (wrM R.FAULT_STATUS_SETTLING 0 1)

/-! ## The replay start (R407, R410, R417) -/

/-- The key slots that the batch's contexts need are occupied (R270). -/
def Chip.keysHeld (c : Chip) : Bool := (c.serving.batch.slots.filter (·.valid)).all fun s =>
  let x := c.ctxDesc 0 s.context
  (c.key 1 s.tenant).isSome && (match x.group with
    | some g => (c.key 2 g).isSome
    | none => true)

/-- Every lane group of the job is UP and every die reaches every other (R417). -/
def Chip.pathsUp (c : Chip) : Bool :=
  c.seq.paths.all (fun g => decide (c.grpState (g.port * 4 + g.group) = grpUp))
    && (upFrom 0 8).all fun a => (upFrom 0 8).all fun b => decide (a = b) || (c.route a b).isSome

/-- The allocation of the batch succeeds: nothing is raised by it (R264). -/
def tryAllocate : CM Bool := do
  let c ← get
  let c' := ((allocateStep c.serving.batch.slots).run c).2
  let same (cause : Nat) : Bool := decide (c'.rd R.FAULT_CAUSE_COUNT (4 * cause) = c.rd R.FAULT_CAUSE_COUNT (4 * cause))
  if same 0x43 && same 0x44 then do
    set c'
    pure true
  else pure false

/-- The check of R417 for one cause. -/
def packageCheck (cause : Nat) : CM Bool := do
  let c ← get
  let step := c.rd R.SEQ_STEP_STEP
  match cause with
  | 0x40 | 0x41 => pure (!c.seq.skip || !(c.lacksBatch step || c.lacksResults step || c.lacksParams step) || !c.flag R.SEQ_LAST_VALID)
  | 0x43 | 0x44 => tryAllocate
  | 0x45 => pure c.keysHeld
  | 0x48 | 0x20 => pure c.pathsUp
  | 0x4A => pure (!(upFrom 0 384).any fun t => decide (c.tileState t = tileShelved))
  | _ => pure true

/-- REPLAY_START: the new run begins at its START (R407). -/
def doReplayStart : CM Unit := do
  let c ← get
  match c.replayAt with
  | none => pure ()
  | some s =>
    if c.stepRuns && !c.flag R.FAULT_STATUS_SETTLING then do
      reachBeat s
      finishHeld
      let oks ← mapM_ (unique c.pkgCauses) packageCheck
      let ok := oks.all fun b => b
      modify fun c => { c with replayAt := none, runStart := c.beat, pkgCauses := if ok then [] else c.pkgCauses }
      bumpM R.FAULT_REPLAYS_COUNT
      if !ok then shareUncovered
      else do
        whenM c.seq.skip do
          startDeliveries (c.rd R.SEQ_STEP_STEP)
          startParams (c.rd R.SEQ_STEP_STEP)
          modify fun c => { c with seq := { c.seq with skip := false } }
        startEngines true
    else pure ()

/-! ## Replica service (R411 to R413) -/

/-- REPLICA: the replica table; this package's own entry waits for the next step boundary (R411). -/
def doReplica (job : Nat) (rows : List ReplicaRow) : CM Unit := do
  let c ← get
  let bad (r : ReplicaRow) : Bool :=
    let n := r.replica % 4096
    !(c.seq.jobs.any fun e => decide (e.node = n)) || decide (n = c.node) || !c.flag R.TORUS_PATH_VALID (4 * n)
  if c.rd R.SEQ_STATE_STATE = seqEmpty ∨ c.rd R.SEQ_JOB_JOB ≠ job % 4096 then pure ()
  else do
    forM_ (rows.filter bad) fun _ => clampEvent srcOrch 0 0x49
    let me := (indexOf (fun e : JobEntry => decide (e.node = c.node)) c.seq.jobs).getD 0
    match (rows.filter fun r => !bad r && decide (r.index = me)).getLast? with
    | none => pure ()
    | some r => modify fun c => { c with replicaNext := some ⟨r.replica % 4096, r.crc⟩ }

/-- The ARR a request names, as the serving tile's own program holds it. -/
def Chip.servedArr (c : Chip) (r : ReplicaReq) : Option ReplicaServe :=
  let t := r.die * 48 + r.tile
  match decodeWord ((c.tile t).word (c.rd R.TILE_STATE_BANK (tileOff t)) r.index) with
  | some (.arr _ loc span sM1 afmt _ _ _ _ _ _) =>
    if r.tile * 128 + loc = r.board then some ⟨r, span, sM1 + 1, nfmtOfBit afmt⟩ else none
  | _ => none

def ReplicaServe.run (s : ReplicaServe) (c : Chip) : Run := c.runOf (s.req.die * 6144 + s.req.board) s.span s.spans s.afmt

/-- The status with which the serving tile answers a request (R412). -/
def Chip.replicaCheck (c : Chip) (r : ReplicaReq) : Nat :=
  let t := r.die * 48 + r.tile
  if r.crc ≠ c.rd R.FAULT_SHARE_CRC_CRC then 1
  else match c.servedArr r with
    | none => 2
    | some s =>
      let run := s.run c
      let lines := r.vcount * (narrowLines s.afmt (run.rows / 32) + 64)
      if !c.copyValid (r.die * 6144 + r.board) then 2
      else if c.rd R.SPAD_SLOT_BOUND_LINES (slotOff t 2) < lines then 3
      else if c.rd R.TILE_STANDIN_CFG_RESERVE (tileOff t) < (c.tile t).charged + standinStrokes r.vcount run then 4
      else 0

/-- REPLICA_REQ: the serving tile checks a request, and charges it to its reserve (R412). -/
def doReplicaReq (h : Hdr) (r : ReplicaReq) : CM Unit := do
  let mine ← receiveFlit h (.ctrl (.replicaReq r))
  if mine then do
    let c ← get
    match c.replicaCheck r, c.servedArr r with
    | 0, some s => do
      let t := r.die * 48 + r.tile
      let n := standinStrokes r.vcount (s.run c)
      strokes t n
      onTileM t fun x => { x with charged := x.charged + n }
      modify fun c => { c with replicaServe := c.replicaServe ++ [s] }
    | status, _ => do
      bumpM R.FAULT_REPLICA_REFUSED_IN
      sendCtrl r.node (.replicaDone r status)
  else pure ()

/-- One vector's column values: the defined span results, scaled and added under step 1 of R91. -/
def replicaVector (s : ReplicaServe) (v : Nat) : CM (List Nat) := do
  let t := s.req.die * 48 + s.req.tile
  let c ← get
  let r := s.run c
  let n := narrowLines s.afmt (r.rows / 32)
  let b ← readLines t 2 (v * n) n
  let blocks := blocksOf s.afmt (r.rows / 32) b
  let drives ← countedM t (spanDrives s.afmt r.spanRows blocks)
  countedM t (c.scaledSums r (drives.map (·.1)) (c.definedSpans r (drives.flatMap (·.2))))

/-- REPLICA_RETURN: the mill has finished the k-th service; the values go back, then REPLICA_DONE (R412). -/
def doReplicaReturn (k : Nat) : CM Unit := do
  let c ← get
  match c.replicaServe[k]? with
  | none => pure ()
  | some s => do
    let t := s.req.die * 48 + s.req.tile
    modify fun c => { c with replicaServe := c.replicaServe.eraseIdx k }
    let vs ← mapM_ (upFrom 0 s.req.vcount) (replicaVector s)
    let ls := vs.flatMap fun v => (upFrom 0 64).map fun l => (bytesOfWords v).drop (32 * l) |>.take 32
    bumpM R.FAULT_REPLICA_SERVED_COUNT
    inject (packetsOf (fun first data =>
      { src := c.place t, dest := ⟨s.req.node, s.req.die, s.req.tile⟩, step := s.req.step, replay := s.req.replay, index := s.req.index
        total := ls.length, vl := 1, detour := false, body := .lines 2 0 first true 0 data }) (ls.length + 1) 0 ls)
    sendCtrl s.req.node (.replicaDone s.req 0)

/-- The request is refused: the ARR produces nothing and the share is uncovered (R130, R410, R425). -/
def replicaRefused (o : ReplicaOut) (status : Nat) : CM Unit := do
  let c ← get
  modify fun c => { c with replicaOut := dropFirst (fun x => decide (x = o)) c.replicaOut }
  onTileM o.tile fun x => { x with issued := dropFirst (fun i => i.index = o.index && i.replica) x.issued }
  bumpM R.FAULT_REPLICA_REFUSED_OUT
  report ⟨0x16, 1, 0, unitWord (o.tile / 48) (o.tile % 48), c.stepNow, status⟩
  raiseUncovered o.tile

/-- The ARR completes on the returned values: steps 2 and 3 of R91, then its destination (R412). -/
def replicaVectorDone (o : ReplicaOut) (i : EInstr) (v : Nat) : CM Unit :=
  match i with
  | .arr add loc span sM1 afmt ins _ src dst seq gslot => do
    let c ← get
    let t := o.tile
    let x := { c.tile t with xregs := o.xregs }
    let r := c.runOf (boardOf t loc) span (sM1 + 1) (nfmtOfBit afmt)
    let blocks ← readNarrow t r.afmt (x.vline src v) (r.rows / 32)
    let cols ← readLines t 2 (64 * v) 64
    let tenant := (c.setTile t x).vectorTenant t src seq v gslot
    let vals ← finishColumns t r ins tenant blocks (wordsOf 512 cols)
    if add then do
      let old ← readFp t (x.vline dst v) 512
      let sums ← countedM t (fmZip fpAdd old vals)
      writeFp t (x.vline dst v) sums
    else writeFp t (x.vline dst v) vals
  | _ => pure ()

/-- REPLICA_DONE: the requester completes or uncovers the ARR (R412). -/
def doReplicaDone (h : Hdr) (r : ReplicaReq) (status : Nat) : CM Unit := do
  let mine ← receiveFlit h (.ctrl (.replicaDone r status))
  let c ← get
  let t := r.die * 48 + r.tile
  let current := mine && decide (r.step = c.stepNow ∧ r.replay = c.replayNow)
  match c.replicaOut.find? fun o => decide (o.tile = t ∧ o.index = r.index) with
  | none => pure ()
  | some o =>
    if !current then pure ()
    else if status ≠ 0 then replicaRefused o status
    else do
      modify fun c => { c with replicaOut := dropFirst (fun x => decide (x = o)) c.replicaOut }
      match decodeWord ((c.tile t).word (c.rd R.TILE_STATE_BANK (tileOff t)) r.index) with
      | none => pure ()
      | some i => forM_ (upFrom 0 r.vcount) (replicaVectorDone o i)
      onTileM t fun x => { x with issued := amend (fun q => q.index = r.index) (fun q => { q with replica := false }) x.issued }

/-- REPLICA_TIMEOUT: no REPLICA_DONE within PROBE_BEATS is a refusal (R413). -/
def doReplicaTimeout (k : Nat) : CM Unit := do
  let c ← get
  match c.replicaOut[k]? with
  | none => pure ()
  | some o => do
    reachBeat (o.sent + c.rd R.FAULT_CFG_PROBE_BEATS)
    let status ← freeValue 32
    replicaRefused o status

/-! ## Tests of units and re-admission (R415, R416, R425) -/

/-- A unit by its key: class, die, index within the die. -/
def unitOfKey (key : Nat) : Nat × Nat × Nat :=
  let n := key % 2 ^ 20
  match key / 2 ^ 20 with
  | 1 => (1, n / 48, n % 48)
  | 2 => (2, n / 2, n % 2)
  | 3 => (3, n, 0)
  | c => (c, 0, 0)

/-- A tile comes back into service. -/
def readmitTile (t : Nat) : CM Unit := do
  let c ← get
  whenM (decide (c.tileState t = tileShelved) && !c.held 1 t)
    (wrM R.TILE_STATE_STATE (tileOff t) (if c.rd R.SEQ_STATE_STATE = seqEmpty then tileIdle else tileReady))

/-- A unit that has passed its test comes back with what it contains (R416). -/
def readmitUnit (key : Nat) : CM Unit := do
  let n := key % 2 ^ 20
  let drop (ks : List Nat) : CM Unit := modify fun c => { c with outUnits := c.outUnits.filter fun k => !ks.contains k }
  match key / 2 ^ 20 with
  | 1 => readmitTile n
  | 2 => do
    drop [unitKey 2 n]
    forM_ (halfTiles n) readmitTile
  | _ => do
    drop [unitKey 3 n, unitKey 2 (2 * n), unitKey 2 (2 * n + 1)]
    forM_ (halfTiles (2 * n) ++ halfTiles (2 * n + 1)) readmitTile

/-- UNIT_TEST_DONE: the test of a tile, half or die ends (R416).  A unit that passes before START has computed its share;
its waiting record says so (R425).  A failure counts as a shelving (R406). -/
def doUnitTestDone (key : Nat) (pass : Bool) : CM Unit := do
  let c ← get
  if !c.testing.contains key then pure ()
  else do
    let (cls, die, idx) := unitOfKey key
    modify fun c => { c with testing := c.testing.filter (· != key) }
    if pass then do
      readmitUnit key
      report ⟨0x11, cls, 0, unitWord die idx, c.stepNow, c.replayNow⟩
      whenM c.replayAt.isSome (modify fun c => { c with reports := c.reports.map fun r =>
        if r.event = 0x10 ∧ r.cls = cls ∧ r.unit = unitWord die idx ∧ r.step = c.stepNow then { r with detail := r.detail % 256 } else r })
    else do
      let held ← countShelving cls (key % 2 ^ 20)
      whenM held do
        modify fun c => { c with heldUnits := c.heldUnits ++ [key] }
        becomeHeld cls die idx (key % 2 ^ 20) 0

/-! ## FAULT_ORDER (R426) -/

/-- The unit of an order within its legal values: clamp events for what lies outside. -/
def orderUnit (src cls die idx : Nat) : CM (Nat × Nat × Nat) := do
  let place := R.FAULT_ORDER_ACTION.addr
  let cls' := min 4 cls
  let top := match cls' with
    | 0 => 6143
    | 1 => 47
    | 2 => 1
    | _ => 0
  let idx' := min top idx
  whenM (cls' != cls) (clampEvent src 0 place)
  whenM (idx' != idx) (clampEvent src 0 place)
  pure (cls', die % 8, idx')

/-- SHELVE: a unit is shelved with cause MGMT. -/
def doShelve (src cls die idx : Nat) : CM Unit := do
  let (cls, die, idx) ← orderUnit src cls die idx
  let c ← get
  takeFault (if cls = 4 then c.master else die) cls idx c.replayNow 0x08

/-- READMIT: the test or truing of a SHELVED unit; of any other, one clamp event (R426). -/
def doReadmit (src cls die idx : Nat) : CM Unit := do
  let (cls, die, idx) ← orderUnit src cls die idx
  let c ← get
  let refuse := clampEvent src 0 R.FAULT_ORDER_ACTION.addr
  match cls with
  | 0 =>
    let b := die * 6144 + idx
    if c.arrState b ≠ arrShelved then refuse
    else if c.jobRuns then pure ()
    else startTruing b truingFull true
  | 1 => if c.out 1 (die * 48 + idx) && !c.held 1 (die * 48 + idx) then orderTest (unitKey 1 (die * 48 + idx)) else refuse
  | 2 => if c.out 2 (die * 2 + idx) && !c.held 2 (die * 2 + idx) then orderTest (unitKey 2 (die * 2 + idx)) else refuse
  | 3 => if c.out 3 die && !c.held 3 die then orderTest (unitKey 3 die) else refuse
  | _ => refuse

/-! ## Timeouts (R173, R418) -/

/-- Tiles of the package that have not arrived at the peg the head waits for. -/
def Chip.notArrived (c : Chip) : List Nat :=
  if c.arrived || !c.jobPegs.isEmpty then []
  else (upFrom 0 384).filter fun t => (decide (c.tileState t = tileRun) || decide (c.tileState t = tileReplay))
    && !(match (c.tile t).hold with
      | .peg 4 _ true => true
      | _ => false)

/-- The package's own share of a probe: its tiles that have not arrived are shelved (R418). -/
def probeTiles : CM (List Nat) := do
  let c ← get
  let ts := c.notArrived
  forM_ ts fun t => takeFault (t / 48) 1 (t % 48) c.replayNow 0x14
  pure ts

/-- The head has the answers it waited for, or has given up on them: it orders a replay (R418). -/
def probeOver (node cls cause : Nat) : CM Unit := modify fun c => { c with
  notices := c.notices ++ [⟨node, cls, cause, c.replayNow, c.stepNow, 0⟩] }

/-- TACK_TIMEOUT: the commit peg is not complete by its time; the head probes every package (R173, R418). -/
def doTackTimeout : CM Unit := do
  let c ← get
  if c.isHead && c.stepRuns && c.seq.commitOwn.isNone && c.probing.isNone && !c.flag R.FAULT_STATUS_SETTLING then do
    reachBeat (c.localBeat (c.rd R.SEQ_START_BEAT + c.rd R.SEQ_LEN_L (4 * c.rd R.SEQ_STATE_GEAR) + c.rd R.SEQ_TIMEOUT_STEP_TIMEOUT))
    let c ← get
    modify fun c => { c with probing := some (c.headBeat, c.others) }
    forM_ c.others fun n => sendCtrl n (.probe c.stepNow)
    let ts ← probeTiles
    whenM (ts.isEmpty && c.others.isEmpty) (probeOver c.node 4 0)
  else pure ()

/-- PROBE: a package answers with its tiles that have not arrived, which its die controllers shelve (R418). -/
def doProbe (h : Hdr) (step : Nat) : CM Unit := do
  let mine ← receiveFlit h (.ctrl (.probe step))
  let c ← get
  if mine && c.stepRuns && decide (step = c.stepNow) then do
    let ts ← probeTiles
    sendCtrl c.headNode (.probeReply c.node step ts)
  else pure ()

/-- PROBE_REPLY (R418). -/
def doProbeReply (h : Hdr) (node step : Nat) (tiles : List Nat) : CM Unit := do
  let mine ← receiveFlit h (.ctrl (.probeReply node step tiles))
  let c ← get
  match c.probing with
  | none => pure ()
  | some (b, left) =>
    if mine && decide (step = c.stepNow) && left.contains node then do
      modify fun c => { c with probing := some (b, left.filter (· != node)) }
      if tiles.isEmpty then whenM (left.filter (· != node)).isEmpty (probeOver node 4 0)
      else probeOver node 1 0x14
    else pure ()

/-- NO_REPLY: packages that have not answered within PROBE_BEATS are shelved with cause NO_REPLY (R418). -/
def doNoReply : CM Unit := do
  let c ← get
  match c.probing with
  | none => pure ()
  | some (b, left) =>
    if left.isEmpty then pure ()
    else do
      reachBeat (c.localBeat (b + c.rd R.FAULT_CFG_PROBE_BEATS))
      modify fun c => { c with probing := some (b, []) }
      bumpM R.FAULT_CAUSE_COUNT (4 * 0x49) left.length
      forM_ left fun n => do
        report ⟨0x10, 4, 0x49, 0, c.stepNow, c.replayNow⟩
        probeOver n 4 0x49

/-! ## HOLD (R419) -/

/-- HOLD: the head passes a package's HOLD to every package; a package goes into HOLD with the head (R419). -/
def doHold (h : Hdr) (cause step node : Nat) : CM Unit := do
  let mine ← receiveFlit h (.ctrl (.hold cause step node))
  let c ← get
  if mine && c.stepping then do
    modify fun c => { c with holdCause := if c.holdCause = 0 then 6 else c.holdCause }
    whenM c.isHead (forM_ c.others fun n => sendCtrl n (.hold cause step node))
  else pure ()

/-- The tail's last step packet: RESUBMIT to every request QUEUED or RUNNING, as far as the tail knows them (R419). -/
def lastPackets : CM Unit := do
  let c ← get
  if c.isTail then do
    let bound := (c.serving.contexts.filter fun e => !e.2.ended).map fun e =>
      (e.2.session, (⟨e.2.request, c.serving.batch.gen, 5, [], some (e.2.request * 2 ^ 32 + (c.ctxDesc 0 e.1).commit)⟩ : StepEntry))
    let queued := (c.serving.requests.filter fun e => decide (e.2.state = 0) && (Tbl.find? c.serving.contexts e.1).isNone).map fun e =>
      (e.2.session, (⟨e.2.request, c.serving.batch.gen, 5, [], some (e.2.request * 2 ^ 32 + e.2.commit)⟩ : StepEntry))
    sendPackets c.stepNow (bound ++ queued)
  else pure ()

/-- HOLD_ENTRY: the package enters HOLD at the step boundary (R419). -/
def doHoldEntry : CM Unit := do
  let c ← get
  if c.stepping && c.seq.next.isSome && decide (c.holdCause ≠ 0) then do
    let cause := c.holdCause
    wrM R.SEQ_STATE_STATE 0 seqHold
    wrM R.FAULT_STATUS_HOLD 0 1
    wrM R.FAULT_STATUS_HOLD_CAUSE 0 cause
    wrM R.SERVE_STATUS_ADMITTING 0 0
    bumpM R.FAULT_HOLDS_COUNT
    let r : Report := ⟨0x13, 4, 0, 0, c.stepNow, cause⟩
    report r
    takeRecord c.master 5 r.bytes
    whenM (decide (cause ≠ 6)) do
      if c.isHead then forM_ c.others fun n => sendCtrl n (.hold cause c.stepNow c.node)
      else sendCtrl c.headNode (.hold cause c.stepNow c.node)
    lastPackets
    mapRequests fun _ r => if r.state = 0 ∨ r.state = 1 then { r with state := 2, marked := some r.commit } else r
    modify fun c => { c with holdCause := 0, faultQueue := [], notices := [], runFault := false, nextFault := false
                             seq := { c.seq with posted := false, skip := false } }
    flushReports
  else pure ()

/-! ## Resume windows (R420) -/

/-- RESUME_EXPIRY: a marked request that has not been resumed in time ends at the next close. -/
def doResumeExpiry (x : Nat) : CM Unit := do
  let c ← get
  match c.request x with
  | none => pure ()
  | some r =>
    if r.marked.isSome then do
      putRequest x { r with marked := none, ends := r.ends ++ [3] }
      bumpM R.FAULT_RESUMES_EXPIRED
    else pure ()

end Sys2Proof.Machine
end

