-- ==== Sys2Proof/Machine/Orders.lean ====
section
/-! DEFINITION. Transit and release orders (R240), and the READY and FAIL flits of the loaders (R365). -/
namespace Sys2Proof.Machine

/-! ## Transits (R240, R313) -/

/-- The groups whose lanes a span of `lanes` lanes from group `g` takes. -/
def spanGroups (g lanes : Nat) : List Nat := if lanes = 8 then [g, g + 1] else [g]

/-- A group can carry a transit: it is FREE, no wide group takes its lanes, and the accepted list does not name them. -/
def Chip.groupFree (c : Chip) (port g : Nat) : Bool :=
  let low := port * 4 + g / 2 * 2
  decide (c.grpOwner (port * 4 + g) = ownerFree)
    && !(decide (c.grpOwner low ≠ ownerFree) && c.flag R.TORUS_GRP_STATE_LANES8 (lgOff low))
    && !c.seq.paths.any fun p => decide (p.port = port) && (spanGroups p.group p.lanes).contains g

/-- Both link keys of a span are installed (R435). -/
def Chip.linkKeyed (c : Chip) (port g : Nat) : Bool :=
  (c.key keyLink (8 * port + 2 * g)).isSome && (c.key keyLink (8 * port + 2 * g + 1)).isSome

/-- The status that refuses a transit order, if any. -/
def Chip.transitFail (c : Chip) (dim group lanes : Nat) (enc : Bool) : Option Nat :=
  let legal := decide (lanes = 4) || (decide (lanes = 8) && decide (group % 2 = 0))
  let free := [2 * dim, 2 * dim + 1].all fun p => (spanGroups group (if legal then lanes else 4)).all (c.groupFree p)
  if !free then some 0x39
  else if !legal then some 0x3A
  else if enc && !(c.linkKeyed (2 * dim) group && c.linkKeyed (2 * dim + 1) group) then some 0x3B
  else none

/-- One end of a transit: the group trains under the job, its partner is the other end. -/
def joinGroup (port out group job lanes : Nat) (enc : Bool) : CM Unit := do
  let g := port * 4 + group
  defineGroup g { owner := ownerTransit, job := job, wide := decide (lanes = 8), enc := enc,
                  latMax := R.TORUS_GRP_LAT_LAT_MAX.reset, w1 := R.TORUS_GRP_WEIGHTS_W1.reset,
                  w2 := R.TORUS_GRP_WEIGHTS_W2.reset, w3 := R.TORUS_GRP_WEIGHTS_W3.reset }
  wrM R.TORUS_GRP_TRANSIT_VALID (lgOff g) 1
  wrM R.TORUS_GRP_TRANSIT_PORT_OUT (lgOff g) out
  wrM R.TORUS_GRP_TRANSIT_GROUP_OUT (lgOff g) group

/-- A field of a control order above its largest value is read as that value, and counted (R423). -/
def orderField (typ hi v : Nat) : CM Nat := do
  whenM (decide (hi < v)) (clampEvent srcOrch 0 typ)
  pure (min hi v)

/-- TRANSIT (R240, R313): group `group` of the dimension's two ports becomes a transit of the job. -/
def doTransit (i : TnpIn) (job dim group lanes : Nat) (enc : Bool) : CM Unit := do
  let dim ← orderField 0x44 2 dim
  let group ← orderField 0x44 3 group
  let c ← get
  match c.transitFail dim group lanes enc with
  | some e => answer i 0x44 e
  | none => do
    joinGroup (2 * dim) (2 * dim + 1) group (job % 4096) lanes enc
    joinGroup (2 * dim + 1) (2 * dim) group (job % 4096) lanes enc
    answer i 0x44 0

/-- RELEASE (R240, R313): the groups of a transit are FREE again at once. -/
def doRelease (i : TnpIn) (dim group : Nat) : CM Unit := do
  let dim ← orderField 0x45 2 dim
  let group ← orderField 0x45 3 group
  forM_ [2 * dim, 2 * dim + 1] fun p => do
    let c ← get
    whenM (decide (c.grpOwner (p * 4 + group) = ownerTransit)) (freeGroup (p * 4 + group))
  answer i 0x45 0

/-- Every transit of the package ends (R444). -/
def releaseTransits : CM Unit := forM_ (upFrom 0 24) fun g => do
  let c ← get
  whenM (decide (c.grpOwner g = ownerTransit)) (freeGroup g)

/-! ## READY and FAIL (R365) -/

/-- READY: a package reports an object READY to the head. -/
def doReady (h : Hdr) (kind node obj code : Nat) : CM Unit := do
  let mine ← receiveFlit h (.ctrl (.ready kind node obj code))
  whenM mine (headReady kind node obj true)

/-- FAIL: a package's object was refused or aborted. -/
def doFail (h : Hdr) (kind node obj code : Nat) : CM Unit := do
  let mine ← receiveFlit h (.ctrl (.fail kind node obj code))
  whenM mine (headReady kind node obj false)

end Sys2Proof.Machine
end

