-- ==== Sys2Proof/Machine/Sec.lean ====
section
/-! DEFINITION. Lifecycle orders and tokens (R427 to R432), key commands (R435 to R438), entry to DEBUG (R443, R444). -/
namespace Sys2Proof.Machine

/-! ## Lifecycle (R427 to R429) -/

def lcManufacture : Nat := 0
def lcProvisioned : Nat := 1
def lcOperational : Nat := 2
def lcDebug : Nat := 3
def lcDecommissioned : Nat := 4

/-- The state that a fuse pattern stands for (R428). -/
def lcOfFuse (lc : Nat) : Nat :=
  match lc with
  | 0 => lcManufacture
  | 1 => lcProvisioned
  | 3 => lcOperational
  | _ => lcDecommissioned

def Chip.lifecycle (c : Chip) : Nat := c.rd R.SEC_LC_STATE
def Chip.zeroising (c : Chip) : Bool := c.flag R.SEC_ZEROISE_ACTIVE

/-- Test grade of a lifecycle state (R549). -/
def gradeOf (state : Nat) : Nat :=
  match state with
  | 1 => 2
  | 2 => 1
  | _ => 3

/-- A slot of owner hashes is programmed (R430). -/
def programmed (hash : List Nat) : Bool := hash.any fun b => decide (b ≠ 0)

/-- Show a lifecycle state with what it opens. -/
def showState (st : Nat) : CM Unit := do
  wrM R.SEC_LC_STATE 0 st
  wrM R.TEST_STATUS_GRADE 0 (gradeOf st)

/-- Read the fuses into their shadow and the registers that show them (R428, R448, R497). -/
def readFuses : CM Unit := do
  modify fun c => { c with fuseShadow := c.fuses, keyGated := false }
  let c ← get
  let f := c.fuses
  wrM R.SEC_LC_DEBUG_READY 0 0
  wrM R.SEC_LC_FUSED 0 (lcOfFuse f.lc)
  wrM R.SEC_LC_OWNERS 0 (mask [programmed f.owner0, programmed f.owner1])
  wrM R.SEC_LC_REVOKED 0 f.revoked
  wrM R.SEC_UID_UID 0 f.uid
  wrM R.PKG_ID_STEPPING 0 f.stepping
  showState (lcOfFuse f.lc)

/-- A lifecycle order has completed: status, and the SECURITY record (R448, R450, R454). -/
def lcResult (command result : Nat) : CM Unit := do
  wrM R.SEC_LC_STATUS_VALID 0 1
  wrM R.SEC_LC_STATUS_BUSY 0 0
  wrM R.SEC_LC_STATUS_COMMAND 0 command
  wrM R.SEC_LC_STATUS_RESULT 0 result
  let c ← get
  takeRecord c.master 13 (leBytes 4 (c.peek R.SEC_LC_STATUS_VALID.addr) ++ leBytes 4 (c.peek R.SEC_LC_STATE.addr))

/-- Fuse bits are only ever blown (R428). -/
def blow (a b : List Nat) : List Nat := List.zipWith (· ||| ·) a b

/-- Every bit of a fuse word blown. -/
def allOnes (n : Nat) : List Nat := List.replicate n 0xFF

/-- The lifecycle fuse and every key and hash fuse of a DECOMMISSIONED part (R429). -/
def Fuses.decommissioned (f : Fuses) : Fuses :=
  { f with lc := 7, pkgKey := allOnes 32, owner0 := allOnes 48, owner1 := allOnes 48 }

def onFuses (f : Fuses → Fuses) : CM Unit := modify fun c => { c with fuses := f c.fuses }

/-- Bytes of the words of a register array, `n` words. -/
def Chip.wordsAt (c : Chip) (f : Fld) (n : Nat) : List Nat := (upFrom 0 n).flatMap fun w => leBytes 4 (c.rd f (4 * w))

/-- Fill the words of a register array from bytes. -/
def putWords (f : Fld) (b : List Nat) : CM Unit :=
  forM_ (upFrom 0 (cdiv b.length 4)) fun w => wrM f (4 * w) (le b (4 * w) 4)

/-- PROVISION: from MANUFACTURE, with a package key and an OWNER0 hash (R429, R434, R448). -/
def doProvision : CM Unit := do
  let c ← get
  let b := c.wordsAt R.SEC_PROV_BYTES 32
  if c.flag R.SEC_LC_STATUS_BUSY then pure ()
  else if c.lifecycle = lcManufacture && programmed (b.take 32) && programmed ((b.drop 32).take 48) then do
    onFuses fun f => { f with lc := f.lc ||| 1, pkgKey := blow f.pkgKey (b.take 32),
                              owner0 := blow f.owner0 ((b.drop 32).take 48), owner1 := blow f.owner1 (b.drop 80) }
    lcResult 0 0
  else lcResult 0 6

/-- DECOMMISSION, written to SEC_LC_CMD: from MANUFACTURE only (R429). -/
def doDecommission : CM Unit := do
  let c ← get
  if c.flag R.SEC_LC_STATUS_BUSY then pure ()
  else if c.lifecycle = lcManufacture then do
    onFuses Fuses.decommissioned
    lcResult 0 0
  else lcResult 0 6

/-! ## Keys (R435 to R438) -/

def lastSlot (kind : Nat) : Nat :=
  match kind with
  | 1 | 3 => 1023
  | 2 => 255
  | 4 => 1279
  | 5 | 6 => 0
  | 7 => 47
  | _ => 49

def wrappedLen (kind : Nat) : Nat :=
  match kind with
  | 1 | 2 | 8 => 72
  | 3 | 5 | 6 => 40
  | 4 => 24
  | _ => 48

/-- The legal slot that a written SLOT stands for: beyond the range the last one; between the two front ports' MACSEC
slots the nearest one (R423, R448). -/
def legalSlot (kind slot : Nat) : Nat :=
  if kind = 8 ∧ 17 < slot ∧ slot < 32 then (if slot < 25 then 17 else 32) else min slot (lastSlot kind)

def legalKind (kind : Nat) : Nat := if kind = 0 then 1 else min kind 8

/-- A write of SEC_KEY_SEL (R448); dropped and counted while BUSY (R438). -/
def writeKeySel (src kind slot : Nat) : CM Unit := do
  let c ← get
  let place := R.SEC_KEY_SEL_KIND.addr
  if c.flag R.SEC_KEY_STATUS_BUSY then clampEvent src 0 place
  else do
    let k := legalKind kind
    whenM (decide (k ≠ kind)) (clampEvent src 0 place)
    whenM (decide (legalSlot k slot ≠ slot)) (clampEvent src 0 place)
    wrM R.SEC_KEY_SEL_KIND 0 k
    wrM R.SEC_KEY_SEL_SLOT 0 (legalSlot k slot)

/-- A write of SEC_KEY_DATA_w; dropped and counted while BUSY (R438). -/
def writeKeyData (src w v : Nat) : CM Unit := do
  let c ← get
  if c.flag R.SEC_KEY_STATUS_BUSY then clampEvent src 0 (R.SEC_KEY_DATA_BYTES.addr + 4 * w)
  else wrM R.SEC_KEY_DATA_BYTES (4 * w) v

/-- A write of SEC_KEY_CMD: 1 INSTALL or 2 ERASE begins (R437); dropped and counted while BUSY (R438). -/
def writeKeyCmd (src cmd : Nat) : CM Unit := do
  let c ← get
  if c.flag R.SEC_KEY_STATUS_BUSY then clampEvent src 0 R.SEC_KEY_CMD_CMD.addr
  else if cmd % 4 = 1 ∨ cmd % 4 = 2 then do
    let kind := c.rd R.SEC_KEY_SEL_KIND
    wrM R.SEC_KEY_STATUS_BUSY 0 1
    modify fun c => { c with keyCmd := some ⟨decide (cmd % 4 = 2), kind, c.rd R.SEC_KEY_SEL_SLOT,
      (c.wordsAt R.SEC_KEY_DATA_BYTES 18).take (wrappedLen kind)⟩ }
  else pure ()

/-- The lane group of a LINK slot. -/
def linkSlotGroup (slot : Nat) : Nat := slot / 8 * 4 + slot % 8 / 2

/-- The slot is the transmit SA in use of its front port. -/
def Chip.saInUse (c : Chip) (slot : Nat) : Bool :=
  decide (slot % 32 < 2) && decide (Tbl.find? c.txSa (slot / 32) = some (slot % 32))

/-- A descriptor not FREE of the package satisfies `p`. -/
def Chip.anyDesc (c : Chip) (p : CtxDesc → Bool) : Bool := c.descs.any fun e => decide (e.2.state ≠ ctxFree) && p e.2

/-- Why an erase of a slot that holds a key is refused (R437): 0 for none. -/
def Chip.eraseRefused (c : Chip) (kind slot : Nat) : Nat :=
  let used := match kind with
    | 1 | 3 => c.anyDesc (fun d => decide (d.tenant = slot)) || c.loads.any fun l => decide (l.kind = 3 ∧ l.tenant = slot)
    | 2 => c.anyDesc (fun d => decide (d.group = some slot)) || c.prefixes.any fun e => e.2.isGroup && decide (e.2.owner = slot)
    | 7 => decide (c.grpState (linkSlotGroup slot) = grpUp)
    | 8 => c.saInUse slot
    | _ => false
  if used then 3 else 0

/-- An occupied slot refuses an install (R437). -/
def Chip.installRefused (c : Chip) (kind slot : Nat) : Bool :=
  match kind with
  | 7 => decide (c.grpState (linkSlotGroup slot) = grpUp)
  | 8 => c.saInUse slot
  | _ => true

/-- What a new key begins: a link's flit count, a MACsec SA's packet numbers (R437). -/
def keyBegins (kind slot : Nat) : CM Unit :=
  match kind with
  | 7 => whenM (decide (slot % 2 = 0)) (do
      let g := linkSlotGroup slot
      onLink g fun l => { l with count := 0 }
      wrM R.TORUS_GRP_ENC_CTR_COUNT_HI (lgOff g) 0
      wrM R.TORUS_GRP_STATE_ENC_WARN (lgOff g) 0)
  | 8 =>
    let f := slot / 32
    if slot % 32 < 2 then do
      modify fun c => { c with txSa := Tbl.insert f (slot % 32) c.txSa, txPn := Tbl.insert f 1 c.txPn }
      wrM R.FRONT_STATUS_SAK (frontOff f) 1
      wrM R.FRONT_STATUS_PN_WARN (frontOff f) 0
      wrM R.FRONT_STATUS_PN_END (frontOff f) 0
    else modify fun c => { c with rxPn := Tbl.insert slot 1 c.rxPn }
  | _ => pure ()

/-- The RESULT of a key command, which takes effect where it is 0 (R437). -/
def applyKeyCmd (k : KeyCmd) : CM Nat := do
  let c ← get
  let at_ := k.kind * 4096 + k.slot
  let held := (c.key k.kind k.slot).isSome
  if (c.lifecycle ≠ lcProvisioned ∧ c.lifecycle ≠ lcOperational) ∨ c.zeroising = true ∨ c.keyGated = true then pure 4
  else if k.erase then
    if !held then pure 0
    else if c.eraseRefused k.kind k.slot ≠ 0 then pure 3
    else do
      modify fun c => { c with keys := Tbl.erase at_ c.keys }
      pure 0
  else if held && c.installRefused k.kind k.slot then pure 2
  else match keyUnwrap c.fuseShadow.pkgKey ([0xA6, 0xA6, k.kind, 0] ++ leBytes 4 k.slot) k.wrapped with
    | none => pure 1
    | some key => do
      modify fun c => { c with keys := Tbl.insert at_ key c.keys }
      keyBegins k.kind k.slot
      pure 0

/-- The key command in progress ends with a result. -/
def endKeyCmd (result : Nat) : CM Unit := do
  modify fun c => { c with keyCmd := none }
  wrM R.SEC_KEY_STATUS_VALID 0 1
  wrM R.SEC_KEY_STATUS_BUSY 0 0
  wrM R.SEC_KEY_STATUS_RESULT 0 result
  whenM (decide (result ≠ 0)) (bumpM R.SEC_KEY_REFUSED_COUNT)

/-- KEY_COMMAND_DONE (R438): BUSY clears and the command takes effect. -/
def doKeyCommandDone : CM Unit := do
  let c ← get
  match c.keyCmd with
  | none => pure ()
  | some k => do
    let r ← applyKeyCmd k
    endKeyCmd r

/-- INSTALL: SEC_KEY_SEL, SEC_KEY_DATA and SEC_KEY_CMD are written in turn (R437). -/
def doInstall (src kind slot : Nat) (wrapped : List Nat) : CM Unit := do
  writeKeySel src kind slot
  forM_ (upFrom 0 (min 18 (cdiv wrapped.length 4))) fun w => writeKeyData src w (le wrapped (4 * w) 4)
  writeKeyCmd src 1

/-- ERASE: SEC_KEY_SEL and SEC_KEY_CMD are written (R437). -/
def doErase (src kind slot : Nat) : CM Unit := do
  writeKeySel src kind slot
  writeKeyCmd src 2

/-! ## Entering DEBUG (R443, R444) -/

/-- Zero data with valid check bytes in every scratchpad line and tag (R444 item 3, R497). -/
def clearScratchpads : CM Unit := modify fun c => { c with
  tiles := Tbl.mapVals (fun _ x => { x with mem := [], symErr := [], tags := [], tagSplit := [], topk := [] }) c.tiles }

/-- A die whose stack is FAILED is not written. -/
def Chip.stackFailed (c : Chip) (d : Nat) : Bool := decide (c.rd R.CTX_STATUS_STACK (dieOff d) = 3)

/-- Zero data with valid check bytes in every context-store line, SHADOW included, and with the lines what they held:
descriptors, frames, prefix table, library, staged loads (R444 item 4, R497). -/
def clearStores : CM Unit := modify fun c => { c with
  kv := Tbl.keep (fun a => c.stackFailed (a / 32 / 2 ^ 30)) c.kv
  ctxErr := Tbl.keep (fun a => c.stackFailed (a / 2 ^ 30)) c.ctxErr
  boards := Tbl.mapVals (fun b x => if c.stackFailed (b / 6144) then x
    else { x with codes := [], scales := [], ladderL := [], ladderU := [] }) c.boards
  poison := c.poison.filter fun p => c.stackFailed (p / 1024 / 6144)
  descs := [], frames := [], pagings := [], prefixes := [], promptBlocks := [], loads := [], embedAt := 0, bodyAt := [] }

/-- Insole arrays, descriptors, welt standby tables, delivery and retry buffers (R444 item 5); the mill keeps no state
between operations. -/
def clearBuffers : CM Unit := do
  forM_ (upFrom 0 384) fun t => do
    forM_ (upFrom 0 64) fun n => wrM R.INSOLE_DESC_DESC (tileOff t + 8 * n) 0
    onTileM t fun x => { x with insole := [], insoleScale := [], weltStandby := [], waivedStandby := [],
                                standbyDegraded := false, droppedStandby := 0, buffer := [], partials := [] }
  modify fun c => { c with insoleJobs := [], links := Tbl.mapVals (fun _ l => { noLink with count := l.count }) c.links }

/-- An accepted DEBUG order: sessions close, every lane group is FREE, every key goes, the package key is gated off;
zeroisation runs (R438, R444 items 1 and 2). -/
def enterDebug : CM Unit := do
  let c ← get
  whenM c.keyCmd.isSome (endKeyCmd 4)
  wrM R.SEC_ZEROISE_ACTIVE 0 1
  wrM R.SEC_ZEROISE_ELAPSED_US 0 0
  wrM R.SEC_LC_STATUS_BUSY 0 1
  forM_ (Tbl.keys c.serving.sessions) closeSession
  forM_ (upFrom 0 24) fun g => whenM (decide (c.grpState g ≠ grpUnused)) (freeGroup g)
  modify fun c => { c with keys := [], keyGated := true, txSa := [], txPn := [], rxPn := [] }
  forM_ [0, 1] fun f => wrM R.FRONT_STATUS_SAK (frontOff f) 0

/-- ZEROISATION_COMPLETE: the stores are zero; DEBUG with DEBUG_READY (R444 items 3 to 6). -/
def doZeroisationComplete (us : Nat) : CM Unit := do
  let c ← get
  if c.zeroising then do
    clearScratchpads
    clearStores
    clearBuffers
    showState lcDebug
    wrM R.SEC_LC_DEBUG_READY 0 1
    wrM R.SEC_ZEROISE_ACTIVE 0 0
    wrM R.SEC_ZEROISE_ELAPSED_US 0 (min us 65535)
    lcResult 2 0
  else pure ()

/-! ## Tokens (R430 to R432) -/

/-- The 224 bytes of a token of a COMMAND (R431). -/
def Token.bytes (command : Nat) (t : Token) : List Nat :=
  leBytes 4 t.magic ++ leBytes 2 t.version ++ [command, t.owner % 256] ++ leBytes 8 t.uid ++ leBytes 8 t.challenge
    ++ leBytes 8 t.reserved ++ padTo 96 t.pub ++ padTo 96 t.sig

/-- The transition of R429: 0, 6 TRANSITION or 7 BUSY. -/
def Chip.transitionFail (c : Chip) (command owner : Nat) : Nat :=
  if c.lifecycle ≠ lcProvisioned ∧ c.lifecycle ≠ lcOperational then 6
  else match command with
    | 1 => if c.lifecycle = lcProvisioned then 0 else 6
    | 4 => if bit (c.rd R.SEC_LC_OWNERS) (1 - owner) && !bit (c.rd R.SEC_LC_REVOKED) (1 - owner) then 0 else 6
    | _ => if c.jobRuns then 7 else 0

/-- The first check that a token fails, 0 for none (R432). -/
def Chip.tokenFail (c : Chip) (b : List Nat) : Nat :=
  let command := nth 0 b 6
  let owner := nth 0 b 7
  let pub := (b.drop 32).take 96
  let hash := if owner = 0 then c.fuseShadow.owner0 else c.fuseShadow.owner1
  if c.rd R.SEC_CHALLENGE_ATTEMPTS = 2 ^ 32 - 1 then 5
  else if b.take 6 ≠ [0x4C, 0x43, 0x54, 0x4B, 0x01, 0x00] ∨ command = 0 ∨ 4 < command then 1
  else if 2 ≤ owner ∨ bit (c.rd R.SEC_LC_OWNERS) owner = false ∨ bit (c.rd R.SEC_LC_REVOKED) owner = true then 2
  else if sha384 pub ≠ hash then 2
  else if !ecdsaVerify pub (b.drop 128) (b.take 128) then 3
  else if le b 8 8 ≠ c.rd R.SEC_UID_UID then 4
  else if le b 16 8 ≠ c.rd R.SEC_CHALLENGE_CYCLES * 2 ^ 32 + c.rd R.SEC_CHALLENGE_ATTEMPTS then 5
  else c.transitionFail command owner

/-- A TOKEN order: the token in SEC_TOKEN is checked and carried out; the challenge advances (R429, R432). -/
def tokenOrder : CM Unit := do
  let c ← get
  let b := c.wordsAt R.SEC_TOKEN_BYTES 56
  let command := nth 0 b 6
  bumpM R.SEC_CHALLENGE_ATTEMPTS
  if c.flag R.SEC_LC_STATUS_BUSY then pure ()
  else
    let fail := c.tokenFail b
    if fail ≠ 0 then lcResult command fail
    else match command with
      | 1 => do
        onFuses fun f => { f with lc := f.lc ||| 3 }
        lcResult command 0
      | 2 => enterDebug
      | 3 => do
        onFuses Fuses.decommissioned
        lcResult command 0
      | _ => do
        onFuses fun f => { f with revoked := bitOr f.revoked (1 - nth 0 b 7) }
        lcResult command 0

/-- A token of a COMMAND is written into SEC_TOKEN, and TOKEN to SEC_LC_CMD. -/
def sendToken (command : Nat) (t : Token) : CM Unit := do
  putWords R.SEC_TOKEN_BYTES (t.bytes command)
  tokenOrder

def doOperate (t : Token) : CM Unit := sendToken 1 t
def doDebug (t : Token) : CM Unit := sendToken 2 t
def doTokenDecommission (t : Token) : CM Unit := sendToken 3 t
def doRevoke (t : Token) : CM Unit := sendToken 4 t

/-- A write of SEC_LC_CMD: 1 PROVISION, 2 TOKEN, 3 DECOMMISSION; 0 does nothing (R448). -/
def writeLcCmd (cmd : Nat) : CM Unit :=
  match cmd % 4 with
  | 1 => doProvision
  | 2 => tokenOrder
  | 3 => doDecommission
  | _ => pure ()

/-- A write of SEC_PROV_w: dropped and counted outside MANUFACTURE (R448). -/
def writeProv (src w v : Nat) : CM Unit := do
  let c ← get
  if c.lifecycle = lcManufacture then wrM R.SEC_PROV_BYTES (4 * w) v
  else clampEvent src 0 (R.SEC_PROV_BYTES.addr + 4 * w)

end Sys2Proof.Machine
end

