-- ==== Sys2Proof/Machine/Test.lean ====
section
/-! DEFINITION. Test and debug access (chapter 22): the TAP (R550 to R553), the multiplexers (R555, R556), raw reads
(R558), stages under test halt (R559). -/
namespace Sys2Proof.Machine

/-! ## The TAP (R550 to R553) -/

def irExtest : Nat := 0x00
def irIdcode : Nat := 0x01
def irSample : Nat := 0x02
def irClamp : Nat := 0x03
def irHighz : Nat := 0x04
def irIntscan : Nat := 0x20
def irBypass : Nat := 0xFF

/-- An instruction register code is refused: INTSCAN outside grade FULL (R549), an intrusive one while a job runs
(R552). -/
def Chip.irRefused (c : Chip) (ir : Nat) : Bool :=
  (decide (ir = irIntscan) && decide (c.rd R.TEST_STATUS_GRADE ≠ 3))
    || ([irExtest, irClamp, irHighz].contains ir && c.jobRuns)

/-- Load an instruction; a refused one loads as BYPASS and is counted (R549, R552).  True where it has loaded. -/
def loadIr (ir : Nat) : CM Bool := do
  let c ← get
  if c.irRefused ir then do
    wrM R.TEST_STATUS_IR 0 irBypass
    bumpM R.TEST_REFUSED_COUNT
    pure false
  else do
    wrM R.TEST_STATUS_IR 0 ir
    pure true

def tdo (n v : Nat) : CM Unit := modify fun c => { c with sent := c.sent ++ [.tdo n v] }

/-- The bypass register captures 0. -/
def scanBypass : CM Unit := tdo 1 0

/-- Cells of the boundary register (R551). -/
def boundaryCells : Nat := 124

/-- A scan of the boundary register: what the cells captured goes out, what is shifted in is updated. -/
def scanBoundary (lands shift : Nat) : CM Unit := do
  tdo boundaryCells (lands % 2 ^ boundaryCells)
  modify fun c => { c with boundary := shift % 2 ^ boundaryCells }

/-- TEST_LOGIC_RESET: IDCODE is loaded (R550). -/
def doTestLogicReset : CM Unit := wrM R.TEST_STATUS_IR 0 irIdcode

/-- EXTEST: the lands are driven from the boundary register (R550, R552); one scan of it. -/
def doExtest (lands shift : Nat) : CM Unit := do
  let ok ← loadIr irExtest
  if ok then scanBoundary lands shift else scanBypass

/-- The identification register (R550). -/
def Chip.idcode (c : Chip) : Nat := c.rd R.PKG_ID_STEPPING % 16 * 2 ^ 28 + 0xC008 * 2 ^ 12 + 0x2F3 * 2 + 1

/-- IDCODE (R550). -/
def doIdcode : CM Unit := do
  wrM R.TEST_STATUS_IR 0 irIdcode
  let c ← get
  tdo 32 c.idcode

/-- SAMPLE/PRELOAD (R550). -/
def doSamplePreload (lands shift : Nat) : CM Unit := do
  wrM R.TEST_STATUS_IR 0 irSample
  scanBoundary lands shift

/-- CLAMP (R550, R552). -/
def doClamp : CM Unit := do
  let _ ← loadIr irClamp
  scanBypass

/-- HIGHZ (R550, R552). -/
def doHighz : CM Unit := do
  let _ ← loadIr irHighz
  scanBypass

/-- BYPASS, or any code that R550 does not list. -/
def doBypass : CM Unit := do
  wrM R.TEST_STATUS_IR 0 irBypass
  scanBypass

/-- INTSCAN (R553). -/
def doIntscan : CM Unit := do
  let ok ← loadIr irIntscan
  whenM (!ok) scanBypass

/-- INTSCAN_CAPTURE: the first Capture-DR in INTSCAN, once every flush has ended: from here on the part does nothing
outside the TAP (R553). -/
def doIntscanCapture : CM Unit := do
  let c ← get
  whenM (decide (c.rd R.TEST_STATUS_IR = irIntscan)
      && (upFrom 0 8).all fun d => !c.flag R.EVR_STATUS_FLUSHING (dieOff d))
    (wrM R.TEST_STATUS_INTSCAN_USED 0 1)

/-! ## Multiplexers (R555, R556) -/

/-- Do a TEST write inside its grade; outside it the write is dropped and counted (R549). -/
def graded (src place : Nat) (ok : Bool) (m : CM Unit) : CM Unit := if ok then m else clampEvent src 0 place

/-- Set a field from its bits of a written word, clamped to its legal values (R423). -/
def setField (src o v : Nat) (f : Fld) : CM Unit := do
  let x := bits v (f.lsb + f.width - 1) f.lsb
  let y := max f.lo (min f.hi x)
  whenM (decide (y ≠ x)) (clampEvent src 0 (f.addr + o))
  wrM f o y

/-- Set a field whose other codes stand for 0 (R555, R556). -/
def setCode (src v : Nat) (f : Fld) (legal : Nat → Bool) : CM Unit := do
  let x := bits v (f.lsb + f.width - 1) f.lsb
  whenM (!legal x) (clampEvent src 0 f.addr)
  wrM f 0 (if legal x then x else 0)

def tmuxGroup (g : Nat) : Bool := decide (g ≤ 8)
def tanaNode (n : Nat) : Bool := decide (n ≤ 0x0B ∨ (0x10 ≤ n ∧ n ≤ 0x13) ∨ n = 0x18 ∨ n = 0x19)

/-- TMUX_SELECT: a write of TEST_TMUX, in grade FULL (R549, R555). -/
def doTmuxSelect (src v : Nat) : CM Unit := do
  let c ← get
  graded src R.TEST_TMUX_EN.addr (decide (c.rd R.TEST_STATUS_GRADE = 3)) do
    forM_ [R.TEST_TMUX_EN, R.TEST_TMUX_DIE, R.TEST_TMUX_TILE] (setField src 0 v)
    setCode src v R.TEST_TMUX_GROUP tmuxGroup

/-- TANA_SELECT: a write of TEST_TANA, in grade ANALOGUE or FULL (R549, R556). -/
def doTanaSelect (src v : Nat) : CM Unit := do
  let c ← get
  graded src R.TEST_TANA_EN.addr (decide (2 ≤ c.rd R.TEST_STATUS_GRADE)) do
    forM_ [R.TEST_TANA_EN, R.TEST_TANA_DIE, R.TEST_TANA_SUB, R.TEST_TANA_BOARD] (setField src 0 v)
    setCode src v R.TEST_TANA_NODE tanaNode

/-- A write of TEST_CTRL: in MANUFACTURE only (R561). -/
def writeTestCtrl (src v : Nat) : CM Unit := do
  let c ← get
  graded src R.TEST_CTRL_VSET_SCAN.addr (decide (c.lifecycle = lcManufacture)) (setField src 0 v R.TEST_CTRL_VSET_SCAN)

/-! ## Stages under test halt (R559) -/

/-- STAGE_RUN: RUN bits order stages 7 to 11 while TEST_HALT is set; in DECOMMISSIONED never stage 11 (R498). -/
def doStageRun (src v : Nat) : CM Unit := do
  let c ← get
  graded src R.TEST_STAGE_RUN.addr (c.flag R.PKG_STAGE_TEST_HALT) do
    let m := v % 4096 / 128 * 128
    let m := if c.lifecycle = lcDecommissioned then m % 2048 else m
    modify fun c => { c with ordered := c.ordered ||| m }

/-! ## Raw reads (R558) -/

/-- Raw reads are open (R549). -/
def Chip.rawOpen (c : Chip) : Bool := decide (c.lifecycle = lcDebug) && c.flag R.SEC_LC_DEBUG_READY

/-- Writes of TEST_RAW_SEL and TEST_RAW_LOC (R549, R561). -/
def writeRawSel (src v : Nat) : CM Unit := do
  let c ← get
  graded src R.TEST_RAW_SEL_SRC.addr c.rawOpen (forM_ [R.TEST_RAW_SEL_SRC, R.TEST_RAW_SEL_ADDR] (setField src 0 v))

def writeRawLoc (src v : Nat) : CM Unit := do
  let c ← get
  graded src R.TEST_RAW_LOC_DIE.addr c.rawOpen
    (forM_ [R.TEST_RAW_LOC_DIE, R.TEST_RAW_LOC_TILE, R.TEST_RAW_LOC_ARRAY] (setField src 0 v))

/-- The last unit of a source. -/
def rawLast (kind : Nat) : Nat :=
  match kind with
  | 0 => 131071
  | 1 => stackLines - 1
  | _ => 4095

/-- RAW_READ: TEST_RAW_CMD.READ is written (R558, R560); dropped and counted outside DEBUG_READY, or while BUSY. -/
def doRawRead (src : Nat) : CM Unit := do
  let c ← get
  graded src R.TEST_RAW_CMD_READ.addr (c.rawOpen && !c.flag R.TEST_RAW_STATUS_BUSY) do
    let kind := c.rd R.TEST_RAW_SEL_SRC
    let a := c.rd R.TEST_RAW_SEL_ADDR
    whenM (decide (rawLast kind < a)) (clampEvent src 0 R.TEST_RAW_SEL_ADDR.addr)
    wrM R.TEST_RAW_STATUS_BUSY 0 1
    let r : RawRead := ⟨kind, c.rd R.TEST_RAW_LOC_DIE, c.rd R.TEST_RAW_LOC_TILE, c.rd R.TEST_RAW_LOC_ARRAY, min a (rawLast kind)⟩
    modify fun c => { c with rawRead := some r }

/-- The 4-bit code at a row and column of an insole array (R98): DOWN slots lie in ascending columns, UP slots in
ascending columns, then rows. -/
def Chip.insoleCode (c : Chip) (t array row col : Nat) : Nat :=
  let x := c.tile t
  if bit (c.rd R.INSOLE_MODE_UP (tileOff t)) array then
    Tbl.get 0 x.insole ((array * 32 + (row / 64 * 4 + col / 128)) * 8192 + row % 64 * 128 + col % 128)
  else Tbl.get 0 x.insole ((array * 32 + col / 16) * 8192 + row * 16 + col % 16)

/-- The 32 bytes of an insole unit. -/
def Chip.insoleUnit (c : Chip) (t array addr : Nat) : List Nat := (upFrom 0 32).map fun k =>
  let col := 2 * (32 * (addr % 8) + k)
  c.insoleCode t array (addr / 8) col + 16 * c.insoleCode t array (addr / 8) (col + 1)

/-- What a raw read finds: the bytes, how many symbols of the codeword are wrong, the tag. -/
structure RawUnit where
  bytes : List Nat
  errs  : Nat
  gen   : Nat
  mask  : Nat
  coded : Bool
  deriving DecidableEq, Repr

def Chip.rawUnit (c : Chip) (r : RawRead) : RawUnit :=
  let t := r.die * 48 + r.tile
  match r.src with
  | 0 =>
    let x := c.tile t
    let tag := Tbl.get 0 x.tags (r.addr / 8)
    ⟨lineBytes x.mem r.addr, Tbl.get 0 x.symErr r.addr, tag / 256, b2n (bit tag (r.addr % 8)), true⟩
  | 1 => ⟨lineBytes c.kv (globalLine r.die r.addr), Tbl.get 0 c.ctxErr (globalLine r.die r.addr), 0, 0, true⟩
  | _ => ⟨c.insoleUnit t r.array r.addr, 0, 0, 0, false⟩

/-- RAW_READ_DONE: the data registers hold the stored bytes (R558).  A codeword with wrong symbols shows free bytes; the
check bytes of a valid one are free too, the RS code's generator not being given, but for zero data, whose check bytes
are 0 in any linear code. -/
def doRawReadDone : CM Unit := do
  let c ← get
  match c.rawRead with
  | none => pure ()
  | some r => do
    let u := c.rawUnit r
    forM_ (upFrom 0 8) fun w =>
      if u.errs = 0 then wrM R.TEST_RAW_DATA_BYTES (4 * w) (le u.bytes (4 * w) 4)
      else do
        let v ← freeValue 32
        wrM R.TEST_RAW_DATA_BYTES (4 * w) v
    if u.coded && (decide (u.errs ≠ 0) || u.bytes.any fun b => decide (b ≠ 0)) then do
      let v ← freeValue 32
      wrM R.TEST_RAW_DATA_BYTES 32 v
    else wrM R.TEST_RAW_DATA_BYTES 32 0
    wrM R.TEST_RAW_STATUS_VALID 0 1
    wrM R.TEST_RAW_STATUS_BUSY 0 0
    wrM R.TEST_RAW_STATUS_SYNDROME 0 (b2n (decide (u.errs ≠ 0)))
    wrM R.TEST_RAW_STATUS_TAG_MASK 0 u.mask
    wrM R.TEST_RAW_STATUS_TAG_GEN 0 u.gen
    modify fun c => { c with rawRead := none }

end Sys2Proof.Machine
end

