-- ==== Sys2Proof/Machine/Flash.lean ====
section
/-! DEFINITION. What the part stores without power while it runs: the calibration store (R494, R495) and the
operating-seconds count (R518). -/
namespace Sys2Proof.Machine

/-- The flash is wired to the part and answers (R483, R484, R552). -/
def Chip.flashReady (c : Chip) : Bool := c.boot.flash && decide (c.rd R.PKG_STRAPS_FLASH_MODE ≠ 3)

/-- The copy that a save writes: one that is invalid, else the one of lower SEQ (R495). -/
def Chip.saveCopy (c : Chip) : Nat :=
  match Tbl.find? c.calCopies 0, Tbl.find? c.calCopies 1 with
  | none, _ => 0
  | some _, none => 1
  | some a, some b => if seqBefore a.seq b.seq then 0 else 1

/-- A save ends with a result (R519). -/
def endSave (result : Nat) : CM Unit := do
  modify fun c => { c with saving := none }
  wrM R.PKG_CAL_SAVE_BUSY 0 0
  wrM R.PKG_CAL_SAVE_VALID 0 1
  wrM R.PKG_CAL_SAVE_RESULT 0 result

/-- SAVE: PKG_CAL_SAVE.SAVE is written (R495); dropped and counted while a save runs, or while an intrusive JTAG
instruction has cut the flash off (R552). -/
def doSave (src : Nat) : CM Unit := do
  let c ← get
  if c.flag R.PKG_CAL_SAVE_BUSY || c.intrusive then clampEvent src 0 R.PKG_CAL_SAVE_SAVE.addr
  else if !c.flashReady then endSave 1
  else do
    let k := c.saveCopy
    wrM R.PKG_CAL_SAVE_BUSY 0 1
    modify fun c => { c with saving := some k, calCopies := Tbl.erase k c.calCopies }

/-- SAVE_DONE: the images and then the header are written, or an erase, program or status read has failed (R495). -/
def doSaveDone (ok : Bool) : CM Unit := do
  let c ← get
  match c.saving with
  | none => pure ()
  | some k =>
    if ok && !c.intrusive then do
      let seq := match Tbl.find? c.calCopies (1 - k) with
        | none => 1
        | some o => nextSeq o.seq
      modify fun c => { c with calCopies := Tbl.insert k ⟨seq, c.taps⟩ c.calCopies }
      wrM R.PKG_CAL_SEQ_SEQ 0 seq
      endSave 0
    else endSave 2

/-- OPSEC_TICK: an operating second has passed; every 1,024th is stored (R518). -/
def doOpsecTick : CM Unit := do
  bumpM R.PKG_OPSEC_SECONDS
  let c ← get
  let n := c.rd R.PKG_OPSEC_SECONDS
  whenM (decide (n % 1024 = 0)) (modify fun c => { c with
    opsecRing := (c.opsecRing ++ [n]).drop (c.opsecRing.length + 1 - 64) })

/-- The count that a power-on resumes (R518). -/
def Chip.opsecResume (c : Chip) : Nat := if c.opsecRing.isEmpty then 0 else c.opsecRing.foldl max 0 + 1024

end Sys2Proof.Machine
end

