-- ==== Sys2Proof/Machine/RegFile.lean ====
section
/-! DEFINITION. Reads and writes of registers (R17 to R22): what a read does besides returning a value (R21, R387, R463),
the fields a write sets with their clamping (R423), and the registers whose writes act. -/
namespace Sys2Proof.Machine

/-! ## Reads -/

/-- RC fields are cleared by the read that returns them (R17). -/
def clearOnRead (r : Reg) (o : Nat) : CM Unit := forM_ r.fields fun f => whenM (decide (f.acc = .rc)) (wrM f o 0)

/-- What a read of a word does before it returns: TIMEBASE_BEAT_LO latches REFCYC, TRUE_IMAGE_0 latches the image
(R387). -/
def beforeRead (x : RegAt) : CM Unit := do
  if x.reg.addr = R.TIMEBASE_BEAT_BEAT.addr then do
    let c ← get
    wrM R.TIMEBASE_REFCYC_REFCYC 0 c.refcyc
  else if x.reg.addr = R.TRUE_IMAGE_BYTES.addr ∧ x.off % 0x800 = 0 then latchImage (boardOfOff x.off)
  else pure ()

/-- After a read of a window word: UNCORR says whether it met an uncorrectable codeword; word 63 moves the cursor
(R463). -/
def afterRead (x : RegAt) (uncorr : Bool) : CM Unit := do
  if x.reg.addr = R.EVR_WINDOW_BYTES.addr then do
    let d := dieOfOff x.off
    wrM R.EVR_WINDOW_STATUS_UNCORR (dieOff d) (b2n uncorr)
    whenM (decide (x.off % 0x20000000 = 252)) (windowAdvance d)
  else pure ()

/-- A read of a word: unmapped offsets read 0 (R22); the lowest word of a wide value loads its shadow, an upper word
reads it (R21).  `uncorr` says that a logbook word's codeword is uncorrectable: it reads 0. -/
def readWord (a : Nat) (uncorr : Bool) : CM Nat :=
  match regAt a with
  | none => pure 0
  | some x =>
    if 0 < x.word then do
      let c ← get
      pure (c.peek a)
    else do
      beforeRead x
      let c ← get
      let v := c.value x.reg x.off
      whenM (decide (1 < x.reg.words)) (modify fun c => { c with
        shadows := Tbl.put 0 c.shadows (x.reg.addr + x.off) (v / 2 ^ 32) })
      clearOnRead x.reg x.off
      let bad := uncorr && decide (x.reg.addr = R.EVR_WINDOW_BYTES.addr)
        && c.flag R.EVR_CURSOR_SRC (dieOff (dieOfOff x.off))
      afterRead x bad
      pure (if bad then 0 else v % 2 ^ 32)

def readReg (a : Nat) : CM Nat := readWord a false

/-- WIDE_VALUE_READ: a read of the lowest word of a wide value (R21). -/
def doWideValueRead (a : Nat) : CM Unit := do
  let _ ← readReg a
  pure ()

/-- EVR_WINDOW_READ: a read of EVR_WINDOW_63 of a die (R463). -/
def doEvrWindowRead (d : Nat) (uncorr : Bool) : CM Unit := do
  let _ ← readWord (R.EVR_WINDOW_BYTES.addr + dieOff d + 252) uncorr
  pure ()

/-- TRUE_IMAGE_LATCH: a read of TRUE_IMAGE_0 of a board (R387). -/
def doTrueImageLatch (b : Nat) : CM Unit := do
  let _ ← readReg (R.TRUE_IMAGE_BYTES.addr + boardOff b)
  pure ()

/-- TRUE_IMAGE_WRITE: a write of an image word of a board (R387). -/
def doTrueImageWrite (src b word v : Nat) : CM Unit := writeImage src b word v

/-! ## Plain writes -/

/-- A field by its access type (R17): RW sets, W1C clears the bits written 1, WO words keep what is written. -/
def writeField (src o v : Nat) (f : Fld) : CM Unit :=
  match f.acc with
  | .rw => setField src o v f
  | .w1c => do
    let old ← rdM f o
    wrM f o (old - (old &&& bits v (f.lsb + f.width - 1) f.lsb))
  | .wo => wrM f o (bits v (f.lsb + f.width - 1) f.lsb)
  | _ => pure ()

/-- A field that must lie between limits of its own. -/
def setBetween (src o v lo hi : Nat) (f : Fld) : CM Unit := setField src o v { f with lo := lo, hi := hi }

/-! ## Registers with rules of their own -/

/-- PKG_NODE_WRITE: only while every lane group is UNUSED and no job runs (R519). -/
def doPkgNodeWrite (src v : Nat) : CM Unit := do
  let c ← get
  if c.jobRuns || (upFrom 0 24).any fun g => decide (c.grpState g ≠ grpUnused) then clampEvent src 0 R.PKG_NODE_NODE.addr
  else wrM R.PKG_NODE_NODE 0 (v % 4096)

/-- STATIC_ADDR_WRITE: a write of MGMT_CFG (R520). -/
def doStaticAddrWrite (src v : Nat) : CM Unit := forM_ [R.MGMT_CFG_PEC_REQ, R.MGMT_CFG_STATIC_ADDR] (setField src 0 v)

/-- MGMT_ALERT_EN: a 0 written to the fixed enables is clamped to 1 (R515, R521). -/
def writeAlertEn (src v : Nat) : CM Unit := do
  whenM (decide (v % 32 ≠ 31)) (clampEvent src 0 R.MGMT_ALERT_EN_EN_HI.addr)
  setField src 0 v R.MGMT_ALERT_EN_EN_HI

/-- MON_CTRL: MODE, and REF_SEL, which every write selects anew (R391). -/
def writeMonCtrl (src d v : Nat) : CM Unit := do
  setField src (dieOff d) v R.MON_CTRL_MODE
  doRefSelWrite src d (v / 4 % 4)

/-- MON_LASER: MAX against the MIN in force after the write. -/
def writeMonLaser (src d v : Nat) : CM Unit := do
  setField src (dieOff d) v R.MON_LASER_MIN
  let lo ← rdM R.MON_LASER_MIN (dieOff d)
  setBetween src (dieOff d) v (lo + 0x40) 0xFFF R.MON_LASER_MAX

/-- TILE_CHK_CFG: DRIFT_MIN against the FAULT_MIN in force after the write. -/
def writeChkCfg (src o v : Nat) : CM Unit := do
  setField src o v R.TILE_CHK_CFG_MARGIN
  setField src o v R.TILE_CHK_CFG_FAULT_MIN
  let top ← rdM R.TILE_CHK_CFG_FAULT_MIN o
  setBetween src o v 1 (top - 1) R.TILE_CHK_CFG_DRIFT_MIN

/-- PWR_THERM: THROTTLE_C against the ALERT_C in force after the write. -/
def writeTherm (src v : Nat) : CM Unit := do
  setField src 0 v R.PWR_THERM_HYST_C
  setField src 0 v R.PWR_THERM_ALERT_C
  let lo ← rdM R.PWR_THERM_ALERT_C
  setBetween src 0 v lo 110 R.PWR_THERM_THROTTLE_C

/-- EVR_CURSOR: SLOT within its source; a seek that runs ends (R465). -/
def writeCursor (src d v : Nat) : CM Unit := do
  let o := dieOff d
  endSeek d
  setField src o v R.EVR_CURSOR_SRC
  setField src o v R.EVR_CURSOR_AUTO
  setBetween src o v 0 (if bit v 31 then 8191 else 1023) R.EVR_CURSOR_SLOT

/-- EVR_CLASS_c: the ENABLE of an "Always" class is clamped to 1 (R450). -/
def writeClass (src d cls v : Nat) : CM Unit := do
  let o := dieOff d + 4 * cls
  setField src o v R.EVR_CLASS_COUNT
  setBetween src o v (b2n (evrAlways cls)) 1 R.EVR_CLASS_ENABLE

/-- EVR_CTRL: TRIGGER and FLUSH (R450, R459). -/
def writeEvrCtrl (d v : Nat) : CM Unit := do
  whenM (bit v 1) (doTrigger d (v / 16 % 4))
  whenM (bit v 0) (doFlush d)

/-- FAULT_ORDER (R426). -/
def writeFaultOrder (src v : Nat) : CM Unit :=
  match v / 2 ^ 30 % 4 with
  | 1 => doShelve src (bits v 29 27) (bits v 26 24) (v % 8192)
  | 2 => doReadmit src (bits v 29 27) (bits v 26 24) (v % 8192)
  | _ => pure ()

/-- The region of a CTX_RGNn_LINES register that a write can size (R257). -/
def regionOfReg (a : Nat) : Option Nat :=
  [1, 3, 4, 5, 6].find? fun n => decide ((regionFlds n).2.addr = a)

/-- Registers whose writes act, or whose fields bind each other; none for the plain ones. -/
def actingWrite (src : Nat) (x : RegAt) (v : Nat) : Option (CM Unit) :=
  let a := x.reg.addr
  let d := dieOfOff x.off
  let i := x.off % 0x20000000
  if a = R.PKG_NODE_NODE.addr then some (doPkgNodeWrite src v)
  else if a = R.PKG_CAL_SAVE_SAVE.addr then some (whenM (bit v 0) (doSave src))
  else if a = R.TIMEBASE_EPOCH_EPOCH_HI.addr then some (doEpochWrite v)
  else if a = R.TILE_CHK_CFG_MARGIN.addr then some (writeChkCfg src x.off v)
  else if a = R.D2D_CTRL_RETRAIN.addr then some (whenM (bit v 0) (retrainEdge src d (i / 0x100)))
  else if a = R.TORUS_GRP_CTRL_RETRAIN.addr then
    some (whenM (bit v 0) (doGroupRetrain src (i / 0x1000) (i % 0x1000 / 0x80)))
  else if a = R.TRUE_IMAGE_BYTES.addr then some (writeImage src (boardOfOff x.off) (x.off % 0x800 / 4) v)
  else if a = R.MON_CTRL_MODE.addr then some (writeMonCtrl src d v)
  else if a = R.MON_FILT_DECIM_M1.addr then some (doFilterWrite d (i / 4) v)
  else if a = R.MON_SCAN_MASK.addr then some (doMonScanWrite src d v)
  else if a = R.MON_LASER_MIN.addr then some (writeMonLaser src d v)
  else if a = R.FAULT_ORDER_ACTION.addr then some (writeFaultOrder src v)
  else if a = R.SEC_LC_CMD_CMD.addr then some (writeLcCmd v)
  else if a = R.SEC_KEY_SEL_KIND.addr then some (writeKeySel src (bits v 27 24) (v % 2048))
  else if a = R.SEC_KEY_CMD_CMD.addr then some (writeKeyCmd src v)
  else if a = R.SEC_KEY_DATA_BYTES.addr then some (writeKeyData src (i / 4) v)
  else if a = R.SEC_PROV_BYTES.addr then some (writeProv src (i / 4) v)
  else if a = R.EVR_CTRL_FLUSH.addr then some (writeEvrCtrl d v)
  else if a = R.EVR_CURSOR_SLOT.addr then some (writeCursor src d v)
  else if a = R.EVR_SEEK_SEQ.addr then some (doSeek d v)
  else if a = R.EVR_CLASS_ENABLE.addr then some (writeClass src d (i / 4) v)
  else if a = R.PWR_THERM_ALERT_C.addr then some (writeTherm src v)
  else if a = R.MGMT_CFG_PEC_REQ.addr then some (doStaticAddrWrite src v)
  else if a = R.MGMT_ALERT_EN_EN_HI.addr then some (writeAlertEn src v)
  else if a = R.TEST_CTRL_VSET_SCAN.addr then some (writeTestCtrl src v)
  else if a = R.TEST_TMUX_EN.addr then some (doTmuxSelect src v)
  else if a = R.TEST_TANA_EN.addr then some (doTanaSelect src v)
  else if a = R.TEST_STAGE_RUN.addr then some (doStageRun src v)
  else if a = R.TEST_RAW_SEL_SRC.addr then some (writeRawSel src v)
  else if a = R.TEST_RAW_LOC_DIE.addr then some (writeRawLoc src v)
  else if a = R.TEST_RAW_CMD_READ.addr then some (whenM (bit v 0) (doRawRead src))
  else (regionOfReg a).map fun n => writeRegion src d n v

/-! ## Writes -/

/-- A wide value that a write can set. -/
def Reg.wideRw (r : Reg) : Bool := decide (1 < r.words) && r.fields.any fun f => decide (f.acc = .rw)

/-- A write of a word (R17 to R22): an unmapped offset drops it and counts; an upper word of a wide value waits in the
shadow for the lowest, and once committed the shadow holds the committed upper words (R21). -/
def writeReg (src a v : Nat) : CM Unit :=
  match regAt a with
  | none => clampEvent src 0 (a % 2 ^ 32 / 4 * 4)
  | some x => do
    let c ← get
    let sh := Tbl.get 0 c.shadows (x.reg.addr + x.off)
    if 0 < x.word then
      let k := 2 ^ (32 * (x.word - 1))
      whenM x.reg.wideRw (modify fun c => { c with
        shadows := Tbl.put 0 c.shadows (x.reg.addr + x.off) (sh - sh / k % 2 ^ 32 * k + v % 2 ^ 32 * k) })
    else
      match actingWrite src x (v % 2 ^ 32) with
      | some m => m
      | none => do
        forM_ x.reg.fields (writeField src x.off (v % 2 ^ 32 + (if x.reg.wideRw then sh * 2 ^ 32 else 0)))
        whenM x.reg.wideRw (modify fun c => { c with
          shadows := Tbl.put 0 c.shadows (x.reg.addr + x.off) (c.value x.reg x.off / 2 ^ 32) })

/-- REGISTER_WRITE (R17). -/
def doRegisterWrite (src a v : Nat) : CM Unit := writeReg src a v

end Sys2Proof.Machine
end

