-- ==== Sys2Proof/Machine/Startup.lean ====
section
/-! DEFINITION. Start-up and reset (chapter 19): the setup record (R486 to R493), the stages (R497 to R500), power-on and
warm resets (R470, R502, R503). -/
namespace Sys2Proof.Machine

/-! ## Stages (R497, R498) -/

/-- The stages a stage needs. -/
def stageNeeds (s : Nat) : List Nat :=
  match s with
  | 1 => []
  | 2 | 3 => [1]
  | 4 => [3]
  | 5 | 6 => [4]
  | 7 | 8 | 10 => [5]
  | 9 => [7, 8]
  | _ => [6, 9, 10]

/-- A stage has ended. -/
def Chip.stageDone (c : Chip) (s : Nat) : Bool := bit (c.rd R.PKG_STAGE_DONE) (s - 1)

/-- A stage that this part will not run: without an order under test halt, stages 7 to 11 (R498); in DECOMMISSIONED
stages 10 and 11, but for an ordered stage 10 (R492). -/
def Chip.stageBarred (c : Chip) (s : Nat) : Bool :=
  let halt := c.flag R.PKG_STAGE_TEST_HALT
  let dead := decide (c.lifecycle = lcDecommissioned)
  (halt && decide (7 ≤ s) && !bit c.ordered s) || (dead && (decide (s = 11) || (decide (s = 10) && !halt)))

/-- A stage is in progress: all it needs has ended, and it has not. -/
def Chip.stageRuns (c : Chip) (s : Nat) : Bool :=
  !c.stageDone s && (stageNeeds s).all c.stageDone && !c.stageBarred s

/-- Show the lowest-numbered stage that runs; 0 where none does (R519). -/
def showStage : CM Unit := do
  let c ← get
  wrM R.PKG_STAGE_CURRENT 0 (((upFrom 1 11).find? c.stageRuns).getD 0)

/-- A stage ends. -/
def endStage (s : Nat) : CM Unit := do
  let m ← rdM R.PKG_STAGE_DONE
  wrM R.PKG_STAGE_DONE 0 (bitOr m (s - 1))
  showStage

/-- Do what a stage does, where the stage is in progress, and end it. -/
def stage (s : Nat) (m : CM Unit) : CM Unit := do
  let c ← get
  if c.stageRuns s then do
    m
    endStage s
  else pure ()

/-! ## Stage 1: straps, fuses (R483, R428, R518) -/

def latchStraps (x : Straps) : CM Unit := do
  wrM R.PKG_STRAPS_MASTER_SEL 0 (b2n x.master)
  wrM R.PKG_STRAPS_FLASH_MODE 0 x.flash
  wrM R.PKG_STRAPS_BOOT_COPY 0 (b2n x.bootCopy)
  wrM R.PKG_STRAPS_TEST_EN 0 (b2n x.testEn)

/-- What stages 3, 4 and 6 leave where the part reads no record (R492, R493). -/
def notRead : CM Unit := do
  wrM R.PKG_BOOT_VALID 0 1
  wrM R.PKG_BOOT_FIRST 0 5
  wrM R.PKG_BOOT_FINAL 0 5

/-- In DECOMMISSIONED stages 3, 4 and 6 end at once (R492). -/
def skipStages : CM Unit := do
  let c ← get
  if c.lifecycle = lcDecommissioned then do
    notRead
    forM_ [3, 4, 6] endStage
  else pure ()

/-- STRAPS: stage 1. -/
def doStraps (x : Straps) : CM Unit := stage 1 do
  latchStraps x
  onFuses fun f => { f with cycles := min (f.cycles + 1) (2 ^ 32 - 1) }
  readFuses
  let c ← get
  wrM R.SEC_CHALLENGE_CYCLES 0 c.fuses.cycles
  wrM R.PKG_OPSEC_SECONDS 0 c.opsecResume
  endStage 1
  skipStages

/-! ## Stage 2: the logbook scan (R462) -/

/-- SCAN: stage 2. -/
def doScan : CM Unit := stage 2 do
  let c ← get
  forM_ (upFrom 0 8) fun d => scanDie d (b2n c.boot.warm)

/-! ## Stage 3: the setup record (R486 to R489) -/

/-- An item of a record: words to write, or the announcement. -/
inductive SetupItem where
  | write (addr : Nat) (words : List Nat)
  | announce (p : Peer)
  deriving DecidableEq, Repr

/-- An item from its TYPE and body (R487). -/
def setupItem (typ : Nat) (b : List Nat) : Option SetupItem :=
  match typ with
  | 1 => if b.length = 8 then some (.write (le b 0 4) [le b 4 4]) else none
  | 2 =>
    let n := b.length / 4 - 1
    if 8 ≤ b.length ∧ n ≤ 256 then some (.write (le b 0 4) ((upFrom 0 n).map fun i => le b (4 + 4 * i) 4)) else none
  | 3 => if b.length = 24 ∧ nth 0 b 0 ≤ 1 then
      some (.announce ⟨nth 0 b 0, beNat ((b.drop 4).take 16), le b 2 2⟩) else none
  | _ => none

/-- The items of a record, which must fill its bytes exactly. -/
def setupItems : Nat → List Nat → Option (List SetupItem)
  | 0, _ => none
  | n + 1, b =>
    if b.isEmpty then some []
    else
      let len := le b 2 2
      if b.length < 4 + len ∨ len % 4 ≠ 0 then none
      else match setupItem (nth 0 b 0) ((b.drop 4).take len) with
        | none => none
        | some i => (setupItems n (b.drop (4 + len))).map (i :: ·)

def SetupItem.writes (i : SetupItem) : List (Nat × Nat) :=
  match i with
  | .write a ws => ((upFrom 0 ws.length).zip ws).map fun e => (a + 4 * e.1, e.2)
  | .announce _ => []

def SetupItem.announces (i : SetupItem) : Option Peer :=
  match i with
  | .announce p => some p
  | .write _ _ => none

/-- What checking a copy gives: its result code, the owner slot, and its items. -/
structure CopyCheck where
  code  : Nat
  owner : Nat
  items : List SetupItem
  deriving DecidableEq, Repr

/-- The owner slot that verifies a record's signature, OWNER0 first (R433). -/
def Chip.recordOwner (c : Chip) (b : List Nat) (len : Nat) : Option Nat :=
  let pub := (b.drop (len - 192)).take 96
  [0, 1].find? fun o =>
    bit (c.rd R.SEC_LC_OWNERS) o && !bit (c.rd R.SEC_LC_REVOKED) o
      && decide (sha384 pub = if o = 0 then c.fuseShadow.owner0 else c.fuseShadow.owner1)
      && ecdsaVerify pub ((b.drop (len - 96)).take 96) (b.take (len - 192))

/-- The checks of R488 on a copy's bytes; none is a copy that cannot be read. -/
def Chip.checkCopy (c : Chip) (copy : Option (List Nat)) : CopyCheck :=
  match copy with
  | none => ⟨4, 0, []⟩
  | some b =>
    let len := le b 8 4
    if b.take 8 ≠ [0x53, 0x45, 0x54, 0x52, 0x01, 0x00, 64, 0] ∨ len < 256 ∨ 1048576 < len ∨ len % 4 ≠ 0 then ⟨1, 0, []⟩
    else if b.length < len then ⟨4, 0, []⟩
    else if le b 16 8 ≠ 0 ∧ le b 16 8 ≠ c.rd R.SEC_UID_UID then ⟨2, 0, []⟩
    else match c.recordOwner b len with
      | none => ⟨3, 0, []⟩
      | some o =>
        match setupItems (len + 1) ((b.drop 64).take (len - 256)) with
        | none => ⟨1, 0, []⟩
        | some is =>
          if is.length = le b 12 4 ∧ (is.filterMap SetupItem.announces).length ≤ 1 then ⟨0, o, is⟩ else ⟨1, 0, []⟩

/-- A copy has passed: what the later stages need of it. -/
def takeRecordCopy (copy : Nat) (b : List Nat) (k : CopyCheck) : CM Unit := do
  wrM R.PKG_BOOT_COPY 0 copy
  wrM R.PKG_BOOT_SERIAL_SERIAL 0 (le b 24 4)
  wrM R.SEC_BOOT_VALID 0 1
  wrM R.SEC_BOOT_OWNER 0 k.owner
  modify fun c => { c with boot := { c.boot with
    writes := k.items.flatMap SetupItem.writes
    announce := (k.items.filterMap SetupItem.announces).head?
    noCal := bit (le b 28 4) 0 } }

/-- RECORD: stage 3, which waits for the flushes of a warm reset (R502).  `flash` says that the flash answers, `a` and
`b` are what the copies read as, none where a copy cannot be read. -/
def doRecord (flash : Bool) (a b : Option (List Nat)) : CM Unit := do
  let c ← get
  if c.boot.warm && (upFrom 0 8).any fun d => c.flag R.EVR_STATUS_FLUSHING (dieOff d) then pure ()
  else stage 3 do
    let c ← get
    let there := flash && decide (c.rd R.PKG_STRAPS_FLASH_MODE ≠ 3) && !c.intrusive
    modify fun c => { c with boot := { c.boot with flash := there, writes := [], announce := none, noCal := false } }
    if c.lifecycle = lcManufacture ∨ c.rd R.PKG_STRAPS_FLASH_MODE = 3 then notRead
    else do
      let read (n : Nat) : Option (List Nat) := if there then (if n = 0 then a else b) else none
      let first := c.rd R.PKG_STRAPS_BOOT_COPY
      let k1 := c.checkCopy (read first)
      let k2 := c.checkCopy (read (1 - first))
      wrM R.PKG_BOOT_VALID 0 1
      wrM R.PKG_BOOT_FIRST 0 k1.code
      if k1.code = 0 then do
        wrM R.PKG_BOOT_FINAL 0 0
        takeRecordCopy first ((read first).getD []) k1
      else do
        wrM R.PKG_BOOT_FINAL 0 k2.code
        whenM (decide (k2.code = 0)) (takeRecordCopy (1 - first) ((read (1 - first)).getD []) k2)

/-! ## Stage 4: the items are applied (R490, R491) -/

/-- A register that a record may not write (R490). -/
def setupBarred (a : Nat) : Bool :=
  match regAt a with
  | none => false
  | some x => decide (x.reg.addr / 0x1000000 = 0x17)
      || [R.SEC_LC_CMD_CMD.addr, R.SEC_TOKEN_BYTES.addr, R.SEC_PROV_BYTES.addr, R.FAULT_ORDER_ACTION.addr,
          R.EVR_CTRL_FLUSH.addr, R.D2D_CTRL_RETRAIN.addr, R.TORUS_GRP_CTRL_RETRAIN.addr, R.EVR_SEEK_SEQ.addr].contains
        x.reg.addr

/-- A write of the record; a key command ends before the next item. -/
def setupWrite (a v : Nat) : CM Unit :=
  if setupBarred a then clampEvent srcSetup 0 (a % 2 ^ 32 / 4 * 4)
  else do
    writeReg srcSetup a v
    doKeyCommandDone

/-- APPLY: stage 4. -/
def doApply : CM Unit := stage 4 do
  let c ← get
  forM_ c.boot.writes fun w => setupWrite w.1 w.2

/-! ## Stage 5: lock (R160, R471, R498) -/

/-- LOCK: stage 5; RREF is within tolerance and the loop has locked.  The test halt of R498. -/
def doLock : CM Unit := stage 5 do
  modify fun c => { c with refcyc := 0 }
  wrM R.TIMEBASE_STATUS_LOCKED 0 1
  requestGear 0
  let c ← get
  whenM (c.flag R.PKG_STRAPS_TEST_EN && (decide (c.lifecycle = lcManufacture) || decide (c.lifecycle = lcDecommissioned)))
    (wrM R.PKG_STAGE_TEST_HALT 0 1)

/-! ## Stage 6: the calibration store (R496) -/

/-- The valid copy of higher SEQ. -/
def Chip.restoreCopy (c : Chip) : Option CalCopy :=
  match Tbl.find? c.calCopies 0, Tbl.find? c.calCopies 1 with
  | none, b => b
  | a, none => a
  | some a, some b => some (if seqBefore a.seq b.seq then b else a)

/-- CAL: stage 6; `bad` are the boards whose image fails its CRC or its BOARD field. -/
def doCal (bad : List Nat) : CM Unit := stage 6 do
  let c ← get
  if c.flag R.SEC_BOOT_VALID && !c.boot.noCal && c.flashReady && !c.intrusive then
    match c.restoreCopy with
    | none => pure ()
    | some k => do
      wrM R.PKG_CAL_SEQ_SEQ 0 k.seq
      forM_ allBoards fun b => do
        if bad.contains b then bumpM R.PKG_CAL_REFUSED
        else do
          let c ← get
          if c.arrState b = arrEmpty then do
            setTaps b (Tbl.get zeroTaps k.images b)
            wrM R.TRUE_BOARD_STATE_RESTORED (boardOff b) 1
            bumpM R.PKG_CAL_RESTORED
          else pure ()
  else pure ()

/-! ## Stages 7 to 10 (R214, R251, R256, R396) -/

/-- D2D: stage 7, with the outcome of every edge in order; an edge with no module up has failed three times (R499). -/
def doD2d (es : List EdgeTrained) : CM Unit := stage 7 do
  forM_ (upFrom 0 10) fun e => do
    let x := (es[e]?).getD ⟨0, 0, 0, 0⟩
    trainEdge e
    forM_ (upFrom 0 (if x.modules % 16 = 0 then 3 else 1)) fun _ => doD2dTrainingDone e x.modules x.slow x.us x.lanes

/-- HBM: stage 8; the stacks that fail training are FAILED (R251, R276). -/
def doHbm (failed : List Nat) : CM Unit := stage 8 do
  forM_ (upFrom 0 8) fun d => wrM R.CTX_STATUS_STACK (dieOff d) (if failed.contains d then 3 else 2)

/-- CLEAR: stage 9 (R256, R275, R492). -/
def doClear : CM Unit := stage 9 do
  let c ← get
  let up := (upFrom 0 8).filter fun d => !c.stackFailed d
  forM_ up layoutRegions
  modify fun c => { c with regionNext := [] }
  clearStores
  clearScratchpads
  whenM (decide (c.lifecycle = lcDecommissioned)) do
    clearBuffers
    modify fun c => { c with tiles := Tbl.mapVals (fun _ x => { x with
      welt := [], weltStaged := none, waived := [], droppedOutliers := 0 }) c.tiles }
  forM_ up fun d => wrM R.CTX_STATUS_SCRUB_ON (dieOff d) 1

/-- OPTICS: stage 10; the laser inputs are checked by their latest results (R396). -/
def doOptics : CM Unit := stage 10 do
  forM_ (upFrom 0 8) fun d => do
    let c ← get
    whenM (c.flag R.MON_LAST_VALID (dieOff d + 80)) (laserResult d (c.rd R.MON_LAST_VALUE (dieOff d + 80)))

/-! ## Stage 11: ready (R500) -/

/-- The record of the announcement. -/
def Chip.announcement (c : Chip) : Report :=
  let uid := c.rd R.SEC_UID_UID
  ⟨0x20, c.lifecycle, c.rd R.PKG_BOOT_FINAL, uid % 2 ^ 32, uid / 2 ^ 32, c.rd R.SEC_CHALLENGE_CYCLES⟩

/-- ANNOUNCE: stage 11, which waits until the front port it names is up. -/
def doAnnounce : CM Unit := do
  let c ← get
  match c.boot.announce with
  | none => stage 11 (wrM R.PKG_STAGE_READY 0 1)
  | some p =>
    if c.flag R.FRONT_STATUS_LINK_UP (frontOff p.front) then
      stage 11 do
        onServing fun v => { v with orch := some p }
        let c ← get
        sendStream ctrlSession 0 0 (.report [c.announcement])
        wrM R.PKG_STAGE_READY 0 1
    else pure ()

/-- FRONT_LINK_UP once stage 10 has started the port (R316, R497). -/
def frontComesUp (f : Nat) : CM Unit := do
  let c ← get
  whenM (c.stageDone 10) (doFrontLinkUp f)

/-! ## Resets (R428, R470, R502, R503) -/

/-- What the part holds without power, or across a loss of its registers: fuses, cells, wear records, logbook,
calibration copies, the stored seconds; and region sizes written for the next reset (R257). -/
def Chip.poweredOn (c : Chip) : Chip :=
  { Chip.reset with
    fresh := c.fresh, fuses := c.fuses, cells := c.cells, wear := c.wear, logbook := c.logbook,
    calCopies := c.calCopies, opsecRing := c.opsecRing, regionNext := c.regionNext, sent := c.sent }

/-- POWER_ON_RESET: PORST_N is asserted and deasserted; stage 1 is to run.  VAUX below its limit holds the part
(R470). -/
def doPowerOnReset : CM Unit := modify fun c => if c.inReset = 1 then c else c.poweredOn

/-- VAUX_LOW: the part is held in reset; a store that it cuts leaves a torn slot (R461, R470). -/
def doVauxLow (cut : List Nat) : CM Unit := do
  forM_ cut tearStore
  modify fun c => { c.poweredOn with inReset := 1, regionNext := [] }

/-- VAUX_RETURN: the held reset is released; stage 1 is to run (R470). -/
def doVauxReturn : CM Unit := modify fun c => if c.inReset = 1 then { c with inReset := 0 } else c

/-- Registers that a warm reset keeps (R502): the monitor's; what fuses and straps give; the challenge; the operating
seconds; the recorder's numbers and state; the TAP's instruction (R550). -/
def keptByWarm : List Nat :=
  [R.PKG_ID_STEPPING, R.PKG_STRAPS_TEST_EN, R.PKG_STRAPS_BOOT_COPY, R.PKG_STRAPS_FLASH_MODE, R.PKG_STRAPS_MASTER_SEL,
   R.PKG_OPSEC_SECONDS, R.SEC_LC_REVOKED, R.SEC_LC_OWNERS, R.SEC_LC_FUSED, R.SEC_UID_UID, R.SEC_CHALLENGE_CYCLES,
   R.SEC_CHALLENGE_ATTEMPTS, R.TEST_STATUS_IR].map (fun f => regKey f 0)
  ++ (upFrom 0 8).flatMap (fun d => [R.EVR_STATUS_FLUSHING, R.EVR_STATUS_SCAN_DONE, R.EVR_STATUS_PFAIL_MODE,
   R.EVR_STATUS_DROP_SEEN, R.EVR_STATUS_WEAR_WARN, R.EVR_SEQ_NEXT].map (fun f => regKey f (dieOff d)))

def keptKey (k : Nat) : Bool := decide (k / 64 % 0x20000000 / 0x1000000 = 0x11) || keptByWarm.contains k

/-- The part after the assertion of WRST_N. -/
def Chip.warmed (c : Chip) : Chip :=
  { c.poweredOn with
    regs := Tbl.keep keptKey c.regs, recorders := c.recorders, fuseShadow := c.fuseShadow,
    mon := c.mon, suspect := c.suspect, convs := c.convs, rawTemp := c.rawTemp, boundary := c.boundary,
    inReset := 2 }

/-- WARM_RESET: WRST_N is asserted; everything stops, every die flushes (R502). -/
def doWarmReset : CM Unit := do
  let c ← get
  if c.inReset = 1 then pure ()
  else do
    set c.warmed
    showState (lcOfFuse c.fuseShadow.lc)
    forM_ (upFrom 0 8) doFlush

/-- WARM_START: WRST_N is deasserted; the straps are latched, stages 3 to 11 are to run, and a scan that the reset has
overtaken (R502). -/
def doWarmStart (x : Straps) : CM Unit := do
  let c ← get
  if c.inReset = 2 then do
    set { c with inReset := 0, boot := { c.boot with warm := true } }
    latchStraps x
    endStage 1
    whenM (c.flag R.EVR_STATUS_SCAN_DONE) (endStage 2)
    skipStages
  else pure ()

end Sys2Proof.Machine
end

