-- ==== Sys2Proof/Machine/Mgmt.lean ====
section
/-! DEFINITION. The management port (chapter 20): register-access frames (R506 to R511), the modes and common command
codes (R504, R505), MCTP and PLDM (R512 to R514), alerts (R515).

What the spec leaves to MIPI I3C Basic, DSP0233, DSP0236, DSP0240 and DSP0248 (the codes of the common command codes and
of messages, the places of bytes in their answers) is PRESUMED; values that neither gives are free. -/
namespace Sys2Proof.Machine

/-! ## Frames (R508 to R511) -/

def onMgmt (f : Mgmt → Mgmt) : CM Unit := modify fun c => { c with mgmt := f c.mgmt }

/-- A frame with its CRC (R508, R509). -/
def withCrc (b : List Nat) : List Nat := b ++ [crc8 b]

/-- A response frame (R509). -/
def responseFrame (status tag count : Nat) (words : List Nat) : List Nat :=
  withCrc ([status, tag % 256, count, 0] ++ words.flatMap (leBytes 4))

/-- The port's lands reach it (R552). -/
def Chip.portReached (c : Chip) : Bool := !c.intrusive

/-- The port carries out requests: stage APPLY has ended (R506). -/
def Chip.portServes (c : Chip) : Bool := c.portReached && c.stageDone 4 && decide (c.inReset = 0)

/-- A request is accepted, unless it arrives while the one before is carried out, when it is discarded and counted
(R511); before stage APPLY has ended it is discarded (R506). -/
def takeRequest (overrun : Bool) (m : CM Unit) : CM Unit := do
  let c ← get
  if !c.portServes then pure ()
  else if overrun && !c.mgmt.response.isEmpty then bumpM R.MGMT_OVERRUN_COUNT
  else m

/-- READ: a READ request frame of COUNT words, word by word in ascending order (R508, R510). -/
def doRead (tag addr count : Nat) (overrun : Bool) : CM Unit := takeRequest overrun do
  let ws ← mapM_ (upFrom 0 count) fun i => readReg (addr + 4 * i)
  bumpM R.MGMT_FRAMES_COUNT
  onMgmt fun m => { m with response := responseFrame 0xB0 tag count ws }

/-- WRITE: a WRITE request frame (R508, R510). -/
def doWrite (tag addr : Nat) (words : List Nat) (overrun : Bool) : CM Unit := takeRequest overrun do
  forM_ ((upFrom 0 words.length).zip words) fun e => writeReg srcMgmt (addr + 4 * e.1) e.2
  bumpM R.MGMT_FRAMES_COUNT
  onMgmt fun m => { m with response := responseFrame 0xB0 tag 0 [] }

/-- BAD_FRAME: a request is discarded (R505, R509). -/
def doBadFrame (b : BadFrame) (overrun : Bool) : CM Unit := takeRequest overrun do
  match b with
  | .crc tag => do
    bumpM R.MGMT_FRAME_ERR_CRC
    onMgmt fun m => { m with response := responseFrame 0xB2 tag 0 [] }
  | .format tag => do
    bumpM R.MGMT_FRAME_ERR_FORMAT
    onMgmt fun m => { m with response := responseFrame 0xB3 tag 0 [] }
  | .pec => bumpM R.MGMT_FRAME_ERR_CRC

def Chip.i3c (c : Chip) : Bool := c.flag R.MGMT_STATUS_MODE

/-- Show that an MCTP packet waits (R520). -/
def showPackets : CM Unit := do
  let c ← get
  wrM R.MGMT_STATUS_MCTP_IBI 0 (b2n !c.mgmt.packets.isEmpty)

/-- RESPONSE_READ: a waiting MCTP packet (R514), else the response frame; BUSY while `early`, or before stage APPLY has
ended (R506, R511). -/
def doResponseRead (early : Bool) : CM Unit := do
  let c ← get
  let out (b : List Nat) : CM Unit := modify fun c => { c with sent := c.sent ++ [.mgmt b] }
  if !c.portReached then pure ()
  else if !c.stageDone 4 || decide (c.inReset ≠ 0) then out (responseFrame 0xB1 0 0 [])
  else match c.mgmt.packets with
    | p :: rest =>
      if c.i3c then do
        onMgmt fun m => { m with packets := rest }
        showPackets
        out p
      else pure ()
    | [] =>
      match c.mgmt.response with
      | [] => out (responseFrame 0xB4 0 0 [])
      | r => out (if early then responseFrame 0xB1 (nth 0 r 1) 0 [] else r)

/-- SMBUS_TIMEOUT: the interface drops the transfer in progress (R505); a response stays readable (R511). -/
def doSmbusTimeout : CM Unit := pure ()

/-! ## Modes and common command codes (R504, R505) -/

/-- Do what a common command code does, where it can reach the port. -/
def ccc (m : CM Unit) : CM Unit := do
  let c ← get
  if c.portReached then m else pure ()

/-- Do what a common command code does in I3C mode. -/
def cccI3c (m : CM Unit) : CM Unit := do
  let c ← get
  if c.portReached && c.i3c then m else pure ()

def assignAddr (a : Nat) : CM Unit := do
  wrM R.MGMT_STATUS_DYN_VALID 0 1
  wrM R.MGMT_STATUS_DYN_ADDR 0 a
  wrM R.MGMT_STATUS_MODE 0 1

/-- ENTDAA: a dynamic address, which a port that has one does not take; I3C mode. -/
def doEntdaa (a : Nat) : CM Unit := ccc do
  let c ← get
  whenM (!c.flag R.MGMT_STATUS_DYN_VALID) (assignAddr a)

/-- SETDASA: a dynamic address for the port's static one. -/
def doSetdasa (static_ a : Nat) : CM Unit := ccc do
  let c ← get
  whenM (!c.flag R.MGMT_STATUS_DYN_VALID && decide (static_ = c.rd R.MGMT_CFG_STATIC_ADDR)) (assignAddr a)

/-- SETNEWDA: the dynamic address changes. -/
def doSetnewda (a : Nat) : CM Unit := cccI3c (wrM R.MGMT_STATUS_DYN_ADDR 0 a)

/-- RSTDAA: SMBus mode; the endpoint ID is lost (R504, R512). -/
def doRstdaa : CM Unit := cccI3c do
  wrM R.MGMT_STATUS_DYN_VALID 0 0
  wrM R.MGMT_STATUS_DYN_ADDR 0 0
  wrM R.MGMT_STATUS_MODE 0 0
  wrM R.MGMT_STATUS_EID 0 0
  onMgmt fun m => { m with packets := [] }
  showPackets

/-- The answer to a common command code. -/
def cccAnswer (code : Nat) (b : List Nat) : CM Unit := modify fun c => { c with sent := c.sent ++ [.ccc code b] }

/-- Bytes of a number, the most significant first. -/
def beBytes (n v : Nat) : List Nat := (leBytes n v).reverse

def doGetpid : CM Unit := cccI3c do
  let c ← get
  cccAnswer 0x8D (beBytes 6 c.fuseShadow.i3cId)
def doGetbcr : CM Unit := cccI3c (cccAnswer 0x8E [0x06])
def doGetdcr : CM Unit := cccI3c (cccAnswer 0x8F [0x00])
/-- GETSTATUS: the spec names no bit of the status. -/
def doGetstatus : CM Unit := cccI3c do
  let v ← freeValue 16
  cccAnswer 0x90 (beBytes 2 v)
def doGetmwl : CM Unit := cccI3c do
  let c ← get
  cccAnswer 0x8B (beBytes 2 c.mgmt.mwl)
def doGetmrl : CM Unit := cccI3c do
  let c ← get
  cccAnswer 0x8C (beBytes 2 c.mgmt.mrl)

/-- A length within its limits; a clamp event of the management port, whose place no register gives (R423, R505). -/
def clampLength (lo n : Nat) : CM Nat := do
  let m := max lo (min 256 n)
  whenM (decide (m ≠ n)) (do
    let w ← freeValue 32
    clampEvent srcMgmt 0 w)
  pure m

def doSetmwl (n : Nat) : CM Unit := cccI3c do
  let m ← clampLength 137 n
  onMgmt fun x => { x with mwl := m }
def doSetmrl (n : Nat) : CM Unit := cccI3c do
  let m ← clampLength 133 n
  onMgmt fun x => { x with mrl := m }
def doEnec : CM Unit := cccI3c (wrM R.MGMT_STATUS_IBI_EN 0 1)
def doDisec : CM Unit := cccI3c (wrM R.MGMT_STATUS_IBI_EN 0 0)

/-! ## MCTP (R512, R514) -/

/-- The packets of a message at the baseline transmission unit of 64 bytes (R512): header version 1, endpoints, first,
last, sequence number and tag. -/
def mctpPackets (own dest tag : Nat) : Nat → Nat → List Nat → List (List Nat)
  | 0, _, _ => []
  | n + 1, k, b =>
    let last := decide (b.length ≤ 64)
    ([1, dest, own, (if k = 0 then 128 else 0) + (if last then 64 else 0) + k % 4 * 16 + tag % 8] ++ b.take 64)
      :: (if last then [] else mctpPackets own dest tag n (k + 1) (b.drop 64))

/-- An in-band interrupt, where ENEC allows it (R505). -/
def sendIbi (data : Nat) : CM Unit := do
  let c ← get
  whenM (c.i3c && c.flag R.MGMT_STATUS_IBI_EN) (modify fun c => { c with sent := c.sent ++ [.ibi data] })

/-- The pending-read value of DSP0233. -/
def mctpPending : Nat := 0xAE

/-- Take an MCTP message, in I3C mode and once the port serves: discarded and counted with a wrong endpoint ID or packet
error code; before Set Endpoint ID only control messages, at the null ID (R512).  Its answer waits for a read (R514). -/
def mctp (x : McIn) (control : Bool) (m : CM (List Nat)) : CM Unit := do
  let c ← get
  let own := c.rd R.MGMT_STATUS_EID
  if !c.portServes || !c.i3c then pure ()
  else if !x.pecOk || (decide (own = 0) && !control) || (decide (x.eid ≠ own) && !(decide (x.eid = 0) && control)) then
    bumpM R.MGMT_MCTP_DROPPED
  else do
    let b ← m
    let own ← rdM R.MGMT_STATUS_EID
    onMgmt fun g => { g with packets := g.packets ++ mctpPackets own x.from_ x.tag (b.length + 1) 0 b }
    bumpM R.MGMT_MCTP_ANSWERED
    showPackets
    sendIbi mctpPending

/-- A control answer: type 0, instance, command, completion 0, then its data. -/
def controlAnswer (x : McIn) (cmd : Nat) (b : List Nat) : List Nat := [0, x.inst % 32, cmd, 0] ++ b

/-- SET_ENDPOINT_ID. -/
def doSetEndpointId (x : McIn) (eid : Nat) : CM Unit := mctp x true do
  wrM R.MGMT_STATUS_EID 0 eid
  pure (controlAnswer x 1 [0, eid % 256, 0])

/-- GET_ENDPOINT_ID. -/
def doGetEndpointId (x : McIn) : CM Unit := mctp x true do
  let c ← get
  pure (controlAnswer x 2 [c.rd R.MGMT_STATUS_EID, 0, 0])

/-- GET_MCTP_VERSION_SUPPORT: one version, which the spec does not name. -/
def doGetMctpVersionSupport (x : McIn) : CM Unit := mctp x true do
  let v ← freeValue 32
  pure (controlAnswer x 4 (1 :: leBytes 4 v))

/-- GET_MESSAGE_TYPE_SUPPORT: types 0x00 and 0x01 (R512). -/
def doGetMessageTypeSupport (x : McIn) : CM Unit := mctp x true (pure (controlAnswer x 5 [2, 0x00, 0x01]))

/-! ## PLDM (R513) -/

/-- A PLDM answer: type 1, instance, PLDM type, command, completion code, then its data. -/
def pldmAnswer (x : McIn) (typ cmd cc : Nat) (b : List Nat) : List Nat := [1, x.inst % 32, typ, cmd, cc] ++ b

/-- GET_TID. -/
def doGetTid (x : McIn) : CM Unit := mctp x false do
  let c ← get
  pure (pldmAnswer x 0 2 0 [c.rd R.MGMT_STATUS_TID])

/-- SET_TID. -/
def doSetTid (x : McIn) (tid : Nat) : CM Unit := mctp x false do
  wrM R.MGMT_STATUS_TID 0 tid
  pure (pldmAnswer x 0 1 0 [])

/-- GET_PLDM_VERSION: one version, which the spec does not name, with its check code. -/
def doGetPldmVersion (x : McIn) : CM Unit := mctp x false do
  let v ← freeValue 32
  pure (pldmAnswer x 0 3 0 ([0, 0, 0, 0, 5] ++ leBytes 4 v ++ leBytes 4 (crc32 (leBytes 4 v))))

/-- GET_PLDM_TYPES: types 0 and 2. -/
def doGetPldmTypes (x : McIn) : CM Unit := mctp x false (pure (pldmAnswer x 0 4 0 (leBytes 8 (2 ^ 0 + 2 ^ 2))))

/-- The commands of a PLDM type as bits (R513). -/
def pldmCommands (typ : Nat) : Option Nat :=
  match typ with
  | 0 => some (2 ^ 1 + 2 ^ 2 + 2 ^ 3 + 2 ^ 4 + 2 ^ 5)
  | 2 => some (2 ^ 0x11 + 2 ^ 0x50 + 2 ^ 0x51)
  | _ => none

/-- GET_PLDM_COMMANDS. -/
def doGetPldmCommands (x : McIn) (typ : Nat) : CM Unit := mctp x false (pure (match pldmCommands typ with
  | some m => pldmAnswer x 0 5 0 (leBytes 32 m)
  | none => pldmAnswer x 0 5 0x83 []))

/-- A sensor: reading, whether its source has produced a result, the upper warning, critical and fatal thresholds in
the reading's unit, and whether a reading is a temperature code of R389. -/
structure Sensor where
  reading : Nat
  valid   : Bool
  warn    : Option Nat
  crit    : Option Nat
  fatal   : Option Nat
  coded   : Bool
  deriving DecidableEq, Repr

/-- A temperature in °C as a code of R389. -/
def tempCode (t : Nat) : Nat := (t + 64) * 256

/-- The sensors of R513.  Readings are the values of their sources. -/
def Chip.sensor (c : Chip) (id : Nat) : Option Sensor :=
  let alert := tempCode (c.rd R.PWR_THERM_ALERT_C)
  let throttle := tempCode (c.rd R.PWR_THERM_THROTTLE_C)
  let anyDiode (ds : List Nat) : Bool := ds.any fun d => (upFrom 10 6).any fun ch => c.flag R.MON_LAST_VALID (dieOff d + 4 * ch)
  let diode (ds : List Nat) : Sensor :=
    ⟨(c.hottest ds (upFrom 10 6)).2.2, anyDiode ds, some alert, some throttle, some (tempCode 115), true⟩
  let cap := c.rd R.PWR_CAP_CAP_W
  if id = 1 then some ⟨c.rd R.PWR_POWER_P_W, decide (c.power ≠ 0), none, some cap, some 4000, false⟩
  else if id = 2 then some (diode (upFrom 0 8))
  else if 3 ≤ id ∧ id ≤ 10 then some (diode [id - 3])
  else if 11 ≤ id ∧ id ≤ 18 then
    some ⟨c.rd R.CTX_STACK_TEMP_TEMP (dieOff (id - 11)), (Tbl.find? c.rawTemp ((id - 11) * 8 + 6)).isSome
      || decide (c.rd R.CTX_STACK_TEMP_TEMP (dieOff (id - 11)) ≠ 0), none, some 95, some 105, false⟩
  else if id = 19 then some ⟨cap, true, none, none, none, false⟩
  else if id = 20 then
    let o := dieOff c.master + 28
    some ⟨c.rd R.MON_LAST_VALUE o, c.flag R.MON_LAST_VALID o, none, none, none, true⟩
  else none

/-- A reading is at or above a threshold. -/
def Sensor.overN (s : Sensor) (t : Option Nat) : Bool :=
  match t with
  | some n => decide (n ≤ s.reading)
  | none => false

/-- Present state: 10 upper fatal, 9 upper critical, 8 upper warning, 1 normal. -/
def Sensor.state (s : Sensor) : Nat :=
  if s.overN s.fatal then 10 else if s.overN s.crit then 9 else if s.overN s.warn then 8 else 1

/-- GET_SENSOR_READING: operational state 0 enabled or 2 unavailable, no events, the reading in 4 bytes. -/
def doGetSensorReading (x : McIn) (id : Nat) : CM Unit := mctp x false do
  let c ← get
  pure (match c.sensor id with
    | none => pldmAnswer x 2 0x11 0x80 []
    | some s =>
      if s.valid then pldmAnswer x 2 0x11 0 ([4, 0, 0, s.state, s.state, s.state] ++ leBytes 4 s.reading)
      else pldmAnswer x 2 0x11 0 ([4, 2, 0, 0, 0, 0] ++ leBytes 4 0))

/-- Records of the repository: the terminus locator, then a numeric sensor for each of R513. -/
def pdrCount : Nat := 21

/-- The data of a record by its handle: the terminus locator names the endpoint; a sensor's record its number and
thresholds.  What the spec leaves to DSP0248's layout beyond them is free. -/
def pdrData (h : Nat) : CM (List Nat) := do
  let c ← get
  if h = 1 then pure [0, 0, 1, c.rd R.MGMT_STATUS_TID, 0, 0, 1, 1, c.rd R.MGMT_STATUS_EID]
  else
    match c.sensor (h - 1) with
    | none => pure []
    | some s => do
      let rest ← mapM_ (upFrom 0 44) fun _ => freeValue 8
      let t (o : Option Nat) := leBytes 4 (o.getD 0)
      pure ([0, 0] ++ leBytes 2 (h - 1) ++ rest
        ++ [b2n s.warn.isSome + 2 * b2n s.crit.isSome + 4 * b2n s.fatal.isSome] ++ t s.warn ++ t s.crit ++ t s.fatal)

/-- A record: its header and data. -/
def pdr (h : Nat) : CM (List Nat) := do
  let d ← pdrData h
  pure (leBytes 4 h ++ [1, if h = 1 then 1 else 2, 0, 0] ++ leBytes 2 d.length ++ d)

/-- GET_PDR_REPOSITORY_INFO: available, update times free, how many records and how large. -/
def doGetPdrRepositoryInfo (x : McIn) : CM Unit := mctp x false do
  let times ← mapM_ (upFrom 0 26) fun _ => freeValue 8
  let rs ← mapM_ (upFrom 1 pdrCount) pdr
  let sizes := rs.map List.length
  pure (pldmAnswer x 2 0x50 0 ([0] ++ times ++ leBytes 4 pdrCount ++ leBytes 4 (sizes.foldl (· + ·) 0)
    ++ leBytes 4 (sizes.foldl max 0) ++ [0]))

/-- GET_PDR: the record of a handle, 0 for the first, with the next one's. -/
def doGetPdr (x : McIn) (handle : Nat) : CM Unit := mctp x false do
  let h := if handle = 0 then 1 else handle
  if pdrCount < h then pure (pldmAnswer x 2 0x51 0x82 [])
  else do
    let r ← pdr h
    pure (pldmAnswer x 2 0x51 0 (leBytes 4 (if h = pdrCount then 0 else h + 1) ++ [0, 0, 0, 0, 5] ++ leBytes 2 r.length ++ r))

/-! ## Alerts (R515) -/

/-- The alerts that are set and enabled. -/
def Chip.alerting (c : Chip) : Nat := c.alerts &&& (c.rd R.MGMT_ALERT_EN_EN_HI * 32 + 31)

/-- ALERT_N follows the enabled alerts; where an enabled bit has risen, `was` being the bits before, and ALERT_N was not
asserted, an in-band interrupt with data byte 0x10. -/
def settleAlert (was : Nat) : CM Unit := do
  let c ← get
  let low := decide (c.alerting ≠ 0)
  onMgmt fun m => { m with alertLow := low }
  whenM (low && !c.mgmt.alertLow && decide (c.alerting &&& was ≠ c.alerting)) (sendIbi 0x10)

end Sys2Proof.Machine
end

