-- ==== Sys2Proof/Machine/Messages.lean ====
section
/-! DEFINITION. What arrives on the front ports: frames with their MACsec, IPv6 and UDP checks (R278 to R281), segments
and their tags (R282, R283), and messages in the order of their streams (R284, R285, R287). -/
namespace Sys2Proof.Machine

/-! ## Classes and keys (R282, R285) -/

/-- The key a message type's tag is made with; none for a type that no message to the part has. -/
def tagKey (typ tenant : Nat) : Option (Nat × Nat) :=
  if typ ∈ [1, 2, 7, 8] then some (keyGateway, 0)
  else if typ ∈ [3, 4, 5, 6, 0x61, 0x63] then some (keyTenantMac, tenant)
  else if (decide (0x40 ≤ typ) && decide (typ ≤ 0x49)) || decide (typ = 0x4B) then some (keyOrch, 0)
  else none

/-- The TYPE of a message body (R285). -/
def TnpBody.typ : TnpBody → Nat
  | .open_ _ => 1 | .close => 2 | .submit _ => 3 | .cancel => 4 | .query => 5 | .unpin _ => 6
  | .ack _ => 7 | .streamAck => 7 | .resend _ _ => 8 | .opened _ _ _ => 0x21 | .admitted _ _ _ => 0x22
  | .step _ _ => 0x23 | .status _ _ _ => 0x24 | .start _ _ _ _ => 0x40 | .stop _ _ => 0x41 | .gear _ _ => 0x42
  | .epoch _ => 0x43 | .transit _ _ _ _ _ => 0x44 | .release _ _ => 0x45 | .tenant _ => 0x46 | .pageOut _ _ => 0x47
  | .pageIn _ => 0x48 | .replica _ _ => 0x49 | .report _ => 0x4A | .shard _ _ _ => 0x4B | .put _ _ _ => 0x60
  | .putAck _ _ => 0x61 | .get _ => 0x62 | .data _ _ _ => 0x63

def malformed : CM Unit := bumpM R.SERVE_MALFORMED_COUNT
def authFail : CM Unit := bumpM R.SERVE_AUTH_FAIL_COUNT

/-- The tag of what arrived verifies: the key is held and the bytes are right under it. -/
def Chip.tagPasses (c : Chip) (typ tenant : Nat) (ok : Bool) : Bool :=
  ok && match tagKey typ tenant with
    | none => false
    | some k => (c.key k.1 k.2).isSome

/-! ## Acting on a message -/

/-- What a message does once its turn in its stream has come. -/
def dispatch (i : TnpIn) (b : TnpBody) : CM Unit :=
  match b with
  | .close => closeSession i.session
  | .submit s => if s.resume then doResume i s else doSubmit i s
  | .cancel => doCancel i
  | .query => doQuery i
  | .unpin h => doUnpin i h
  | .start job gear b0 frames => doStart i job gear b0 frames
  | .stop job last => doStop i job last
  | .gear job gear => doGear i job gear
  | .epoch hi => doEpoch i hi
  | .transit job dim group lanes enc => doTransit i job dim group lanes enc
  | .release dim group => doRelease i dim group
  | .tenant o => doTenant i o
  | .pageOut r h => doPageOut i r h
  | .pageIn r => doPageIn i r
  | .replica job rows => doReplica job rows
  | .shard h ok d => arriveShard h ok d
  | _ => pure ()

/-- Act on the held messages that now follow in SEQ order. -/
def drainHeld (s : Nat) : Nat → CM Unit
  | 0 => pure ()
  | n + 1 => do
    let c ← get
    match c.stream s with
    | none => pure ()
    | some (_, x) =>
      match x.held.find? fun m => decide (m.1.seq = x.rxNext) with
      | none => pure ()
      | some m => do
        let left := x.held.filter fun h => !decide (h.1.seq = x.rxNext)
        setStream s { x with rxNext := (x.rxNext + 1) % 2 ^ 32, held := left }
        dispatch m.1 m.2
        drainHeld s n

/-- A stream message (R284): acted on in SEQ order, held when up to 64 beyond the next, else discarded. -/
def takeStream (s : Nat) (i : TnpIn) (b : TnpBody) : CM Unit := do
  let c ← get
  match c.stream s with
  | none => pure ()
  | some (_, x0) => do
    let x := { x0.acked i.ack with ackDue := true }
    let ahead := (i.seq + 2 ^ 32 - x.rxNext) % 2 ^ 32
    if ahead = 0 then do
      setStream s { x with rxNext := (x.rxNext + 1) % 2 ^ 32 }
      dispatch i b
      drainHeld s 65
    else if ahead ≤ 64 ∧ !(x.held.any fun h => decide (h.1.seq = i.seq)) then setStream s { x with held := x.held ++ [(i, b)] }
    else setStream s x

/-- Where a message must come from: the session's own source at the head (R287). -/
def Chip.fromSession (c : Chip) (i : TnpIn) : Bool :=
  match Tbl.find? c.serving.sessions i.session with
  | none => false
  | some x => decide (x.peer = i.src)

/-- The same at the tail (R299). -/
def Chip.fromTailSession (c : Chip) (i : TnpIn) : Bool :=
  match Tbl.find? c.serving.tail i.session with
  | none => false
  | some x => decide (x.peer = i.src)

/-- An OPEN that repeats one whose OPENED has not been acknowledged: a duplicate of the stream's first message. -/
def Chip.openRepeats (c : Chip) (i : TnpIn) (gateway : Nat) : Option Nat :=
  (c.serving.sessions.find? fun e => decide (e.2.peer = i.src) && decide (e.2.gateway = gateway)
    && e.2.stream.unacked.any fun u => decide (u.1.seq = 0)).map Prod.fst

/-- OPEN (R284, R287): it begins a stream at SEQ 0. -/
def takeOpen (i : TnpIn) (gateway : Nat) : CM Unit := do
  let c ← get
  if i.seq ≠ 0 then pure ()
  else match c.openRepeats i gateway with
    | some s => match Tbl.find? c.serving.sessions s with
      | some x => setStream s { x.stream with ackDue := true }
      | none => pure ()
    | none => doOpen i gateway

/-- A message without a place in a stream's order, at the head: its ACK field counts all the same. -/
def takeAck (i : TnpIn) : CM Unit := do
  let c ← get
  match c.stream i.session with
  | some (_, x) => setStream i.session (x.acked i.ack)
  | none => pure ()

/-- A message of the control stream (R285, R443, R500): the first one's source becomes the stream's peer, if ANNOUNCE
named none. -/
def takeControl (i : TnpIn) (b : TnpBody) : CM Unit := do
  let c ← get
  let stop := match b with
    | .stop _ _ => true
    | _ => false
  if i.session ≠ ctrlSession then malformed
  else if c.flag R.SEC_ZEROISE_ACTIVE && !stop then pure ()
  else do
    whenM c.serving.orch.isNone (onServing fun v => { v with orch := some i.src })
    let c ← get
    whenM (decide (c.serving.orch = some i.src)) (takeStream ctrlSession i b)

/-- A message has arrived whole on a front port whose link is up. -/
def receive (i : TnpIn) (b : TnpBody) : CM Unit := do
  let c ← get
  if !c.flag R.FRONT_STATUS_LINK_UP (frontOff i.src.front) then pure ()
  else if (tagKey b.typ i.tenant).isNone then malformed
  else if !c.tagPasses b.typ i.tenant i.tagOk then authFail
  else match b with
    | .open_ g => takeOpen i g
    | .ack step =>
      if c.fromSession i || c.fromTailSession i then do
        whenM (c.fromSession i) (takeAck i)
        whenM (c.fromTailSession i) (doStepAck i.session step)
      else malformed
    | .resend first count => if c.fromTailSession i then doResend i first count else malformed
    | .putAck id status => if i.session = pagingSession then doPutAck id i.request status else malformed
    | .data id image tag => if i.session = pagingSession then doPagingData id i.request image tag else malformed
    | _ =>
      if 0x40 ≤ b.typ then takeControl i b
      else if c.fromSession i then takeStream i.session i b
      else malformed

/-! ## The message commands -/

def doTnpOpen (i : TnpIn) (gateway : Nat) : CM Unit := receive i (.open_ gateway)
def doTnpClose (i : TnpIn) : CM Unit := receive i .close
/-- SUBMIT without RESUME (R291), and with it (R421). -/
def doTnpSubmit (i : TnpIn) (b : Submit) : CM Unit := receive i (.submit { b with resume := false })
def doTnpResume (i : TnpIn) (b : Submit) : CM Unit := receive i (.submit { b with resume := true })
def doTnpCancel (i : TnpIn) : CM Unit := receive i .cancel
def doTnpQuery (i : TnpIn) : CM Unit := receive i .query
def doTnpUnpin (i : TnpIn) (handle : Nat) : CM Unit := receive i (.unpin handle)
def doTnpStepAck (i : TnpIn) (step : Nat) : CM Unit := receive i (.ack step)
def doTnpResend (i : TnpIn) (first count : Nat) : CM Unit := receive i (.resend first count)
def doTnpStart (i : TnpIn) (job gear b0 framesMin : Nat) : CM Unit := receive i (.start job gear b0 framesMin)
def doTnpStop (i : TnpIn) (job last : Nat) : CM Unit := receive i (.stop job last)
def doTnpGear (i : TnpIn) (job gear : Nat) : CM Unit := receive i (.gear job gear)
def doTnpEpoch (i : TnpIn) (hi : Nat) : CM Unit := receive i (.epoch hi)
def doTnpTransit (i : TnpIn) (job dim group lanes : Nat) (enc : Bool) : CM Unit :=
  receive i (.transit job dim group lanes enc)
def doTnpRelease (i : TnpIn) (dim group : Nat) : CM Unit := receive i (.release dim group)
def doTnpTenant (i : TnpIn) (o : TenantOrder) : CM Unit := receive i (.tenant o)
def doTnpPageOut (i : TnpIn) (request handle : Nat) : CM Unit := receive i (.pageOut request handle)
def doTnpPageIn (i : TnpIn) (request : Nat) : CM Unit := receive i (.pageIn request)
def doTnpReplica (i : TnpIn) (job : Nat) (rows : List ReplicaRow) : CM Unit := receive i (.replica job rows)
def doTnpShard (i : TnpIn) (h : ShardHdr) (crcOk : Bool) (data : List Nat) : CM Unit := receive i (.shard h crcOk data)
def doTnpPutAck (i : TnpIn) (id : ImageId) (status : Nat) : CM Unit := receive i (.putAck id status)
def doTnpData (i : TnpIn) (id : ImageId) (image tag : List Nat) : CM Unit := receive i (.data id image tag)

/-- STREAM_RETRANSMIT (R284): the unacknowledged message with SEQ `seq` goes out again, with the current ACK; a session
whose message has been sent RETRIES times again closes instead. -/
def doStreamRetransmit (s seq : Nat) : CM Unit := do
  let c ← get
  match c.stream s with
  | none => pure ()
  | some (p, x) =>
    match x.unacked.find? fun u => decide (u.1.seq = seq) with
    | none => pure ()
    | some u =>
      if s ≠ ctrlSession ∧ c.rd R.SERVE_CFG_RETRIES ≤ u.2 then closeSession s
      else do
        let again := x.unacked.map fun v => if v.1.seq = seq then (v.1, v.2 + 1) else v
        setStream s { x with unacked := again, ackDue := false }
        sendTnp p { u.1 with ack := (x.rxNext + 2 ^ 32 - 1) % 2 ^ 32 }

/-! ## Segments (R281 to R283) -/

/-- Bytes of partial messages that the part can hold (R283). -/
def reassemblyMax : Nat := 67108864

def PartMsg.bytes (p : PartMsg) : Nat := (p.segs.map Prod.snd).foldl (· + ·) 0
def PartMsg.is (p : PartMsg) (g : Segment) : Bool :=
  decide (p.src = g.src ∧ p.typ = g.typ ∧ p.session = g.session ∧ p.seq = g.seq ∧ p.request = g.request)

/-- A partial message with one more segment. -/
def PartMsg.add (p : PartMsg) (g : Segment) : PartMsg :=
  { p with segs := Tbl.insert g.index g.bytes p.segs, last := if g.last then some g.index else p.last }

/-- Every segment up to the last has come. -/
def PartMsg.whole (p : PartMsg) : Bool :=
  match p.last with
  | none => false
  | some n => (upFrom 0 (n + 1)).all fun k => (Tbl.find? p.segs k).isSome

/-- A segment of a message of several: held until the message is whole, and then the message's own command acts. -/
def takePart (g : Segment) : CM Unit := do
  let c ← get
  let fresh : PartMsg := ⟨g.src, g.typ, g.session, g.seq, g.request, [], none⟩
  let p := ((c.serving.parts.find? fun p => p.is g).getD fresh).add g
  let others := c.serving.parts.filter fun p => !p.is g
  if reassemblyMax < (others.map PartMsg.bytes).foldl (· + ·) 0 + p.bytes then do
    onServing fun v => { v with parts := others }
    malformed
  else onServing fun v => { v with parts := if p.whole then others else others ++ [p] }

/-- A TNP segment (R281, R282, R285). -/
def takeSegment (g : Segment) : CM Unit := do
  let c ← get
  if !g.formOk || decide (8192 < g.bytes) || (tagKey g.typ g.tenant).isNone then malformed
  else if !c.tagPasses g.typ g.tenant g.tagOk then authFail
  else whenM (!(g.last && decide (g.index = 0))) (takePart g)

/-- REASSEMBLY_TIMEOUT: the partial message in place `k` is discarded (R283). -/
def doReassemblyTimeout (k : Nat) : CM Unit := do
  let c ← get
  match c.serving.parts[k]? with
  | none => pure ()
  | some _ => do
    onServing fun v => { v with parts := v.parts.eraseIdx k }
    malformed

/-! ## Frames (R278 to R280) -/

/-- What a received frame's MACsec protection says (R279). -/
inductive SecCheck where
  | taken (next : Option (Nat × Nat))
  | untagged
  | failed
  deriving DecidableEq, Repr

/-- Validation and replay protection: the SA's next packet number moves past the highest one accepted. -/
def Chip.secCheck (c : Chip) (f : Nat) (sec : Option SecTag) : SecCheck :=
  match sec with
  | none => if c.flag R.FRONT_CFG_MACSEC_REQ (frontOff f) then .untagged else .taken none
  | some t =>
    match t.channel with
    | none => .failed
    | some ch =>
      let slot := 32 * f + 2 + 2 * (ch % 8) + t.an % 2
      let next := Tbl.get 1 c.rxPn slot
      if t.valid && (c.key keyMacsec slot).isSome && decide (next ≤ t.pn + 2 ^ c.rd R.FRONT_CFG_WINDOW (frontOff f)) then
        .taken (some (slot, max next (t.pn + 1)))
      else .failed

def drop_ (f : Nat) : CM Unit := bumpM R.FRONT_DROPS_OTHER (frontOff f)

/-- A frame that has passed its MACsec: the IPv6 and UDP checks (R280). -/
def takePayload (f : Nat) (p : FramePayload) : CM Unit := do
  match p with
  | .pause => pure ()
  | .otherType | .otherIp => drop_ f
  | .icmp => bumpM R.FRONT_FRAMES_RX (frontOff f)
  | .udp false _ => do
    bumpM R.FRONT_MALFORMED_IP_COUNT
    drop_ f
  | .udp true g => do
    bumpM R.FRONT_FRAMES_RX (frontOff f)
    takeSegment { g with src := { g.src with front := f } }

/-- ETHERNET_FRAME: a front port receives a frame (R278 to R281). -/
def doEthernetFrame (x : EthFrame) : CM Unit := do
  let c ← get
  let f := x.front % 2
  let o := frontOff f
  let vlan := match x.vlan with
    | none => true
    | some v => decide (v = c.rd R.FRONT_CFG_VLAN o) && decide (v ≠ 0)
  if !c.flag R.FRONT_STATUS_LINK_UP o then pure ()
  else if !x.intact then bumpM R.FRONT_ERRS_FCS o
  else if x.payload = .pause then bumpM R.FRONT_DROPS_PAUSE o
  else if x.bytes < 64 ∨ 9216 < x.bytes ∨ !vlan then drop_ f
  else match c.secCheck f x.sec with
    | .untagged => pure ()
    | .failed => bumpM R.FRONT_ERRS_MACSEC o
    | .taken none => takePayload f x.payload
    | .taken (some (slot, next)) => do
      modify fun c => { c with rxPn := Tbl.insert slot next c.rxPn }
      takePayload f x.payload

/-- An answer leaves a front port to the next hop. -/
def sendFrame (f : Nat) (o : Out) : CM Unit := do
  let c ← get
  if c.frontSends f then do
    modify fun c => { c with sent := c.sent ++ [o] }
    countFrames f 1
  else pure ()

/-- The IPv6 address of a front port, as a number in network order (R316). -/
def Chip.frontAddr (c : Chip) (f : Nat) : Nat :=
  let w (n : Nat) := c.rd R.FRONT_ADDR_ADDR (frontOff f + 4 * n)
  ((w 0 * 2 ^ 32 + w 1) * 2 ^ 32 + w 2) * 2 ^ 32 + w 3

/-- An ICMPv6 message is answered when it is for the port's address, else dropped (R280). -/
def answerIcmp (f target : Nat) (o : Out) : CM Unit := do
  let c ← get
  if !c.flag R.FRONT_STATUS_LINK_UP (frontOff f) then pure ()
  else if target = c.frontAddr f then sendFrame f o
  else drop_ f

/-- NEIGHBOR_SOLICITATION and ECHO_REQUEST (R280). -/
def doNeighborSolicitation (f target : Nat) : CM Unit := answerIcmp (f % 2) target (.neighbor (f % 2) target)
def doEchoRequest (f from_ target ident seq : Nat) (data : List Nat) : CM Unit :=
  answerIcmp (f % 2) target (.echo (f % 2) from_ ident seq data)

end Sys2Proof.Machine
end

