-- ==== Sys2Proof/Machine/Command.lean ====
section
/-! DEFINITION. How a command is taken: when the part takes it at all, and what follows every command. -/
namespace Sys2Proof.Machine

/-- The outcome of a command. -/
abbrev Result := Host.Outcome State Fault Refusal

/-- What a command needs of the part: nothing (the power-on reset, a lost supply); a held supply reset; power (the reset
pin); power and no scan (what goes on under WRST_N); the test access port; a part that runs. -/
inductive Need where
  | reset | vaux | warm | kept | tap | normal
  deriving DecidableEq, Repr

/-- The part takes the command.  Held in reset (R470, R502), or stopped by INTSCAN until PORST_N (R553), it takes only what
works there; any other event does not occur. -/
def Chip.takes (c : Chip) (k : Need) : Bool :=
  let halted := c.flag R.TEST_STATUS_INTSCAN_USED
  match k with
  | .reset => true
  | .vaux => decide (c.inReset = 1)
  | .tap => decide (c.inReset ≠ 1)
  | .warm | .kept => !halted && decide (c.inReset ≠ 1)
  | .normal => !halted && decide (c.inReset = 0)

/-- Load events are reported as they occur (R425). -/
def loadReports : CM Unit := do
  let c ← get
  whenM (c.reports.any fun r => decide (r.event ≤ 8)) flushReports

/-- Take a command: its effect, then ALERT_N and in-band interrupts as the alert causes now stand (R515). -/
def take (k : Need) (m : CM Unit) (s : State) : Result :=
  let c := { s.chip with sent := [] }
  let all : CM Unit := do
    m
    settleAlert c.alerts
  .next { s with chip := if c.takes k then (all.run c).2 else c }

/-- Take a command that can raise a notice, send a packet off the package or end a load: the head then reacts to its
notices (R407), the torus stations take their packets (R232), and load events are reported (R425). -/
def act (k : Need) (m : CM Unit) (s : State) : Result :=
  take k (do
    m
    headReacts
    drainStations
    loadReports) s

end Sys2Proof.Machine
end

