-- ==== Sys2Proof/Machine/ExecContext.lean ====
section
/-! DEFINITION. Commands: the context store (R267, R271, R272, R275).  One meaning for each. -/
namespace Sys2Proof.Machine

/-- PUT_ACK (R315). -/
def execPutAck (i : TnpIn) (image : ImageId) (status : Nat) (s : State) : Result :=
  act .normal (doTnpPutAck i image status) s
/-- PAGING_DATA (R272). -/
def execPagingData (i : TnpIn) (image : ImageId) (bytes : List Nat) (tag : List Nat) (s : State) : Result :=
  act .normal (doTnpData i image bytes tag) s
/-- PAGING_TIMEOUT (R272). -/
def execPagingTimeout (d : Nat) (x : Nat) (page : Nat) (s : State) : Result :=
  act .normal (doPagingTimeout d x page) s
/-- FRAME_ZEROED (R267). -/
def execFrameZeroed (d : Nat) (s : State) : Result := take .normal (doFrameZeroed d) s
/-- CTX_SCRUB_READ (R275). -/
def execCtxScrubRead (d : Nat) (upsets : List (Nat × Nat)) (s : State) : Result :=
  act .normal (doCtxScrubRead d upsets) s

end Sys2Proof.Machine
end

