-- ==== Sys2Proof/Machine/ExecEngine.lean ====
section
/-! DEFINITION. Commands: the engines (R112 to R135, R152 to R155, R563).  One meaning for each. -/
namespace Sys2Proof.Machine

/-- ARR_MVP (R117). -/
def execArrMvp (an : Analogue) (t : Nat) (s : State) : Result := act .normal (doArr false an t) s
/-- ARR_MVP_ADD (R117). -/
def execArrMvpAdd (an : Analogue) (t : Nat) (s : State) : Result := act .normal (doArr true an t) s
/-- MOV_COPY (R121). -/
def execMovCopy (t : Nat) (s : State) : Result := act .normal (doMovCopy t) s
/-- MOV_ZERO (R121). -/
def execMovZero (t : Nat) (s : State) : Result := act .normal (doMovZero t) s
/-- MOV_SETX (R116). -/
def execMovSetx (t : Nat) (s : State) : Result := act .normal (doMovSetx t) s
/-- MOV_ADDX (R116). -/
def execMovAddx (t : Nat) (s : State) : Result := act .normal (doMovAddx t) s
/-- VEC_ADD (R118). -/
def execVecAdd (t : Nat) (s : State) : Result := act .normal (doVec 0x0 t) s
/-- VEC_MUL (R118). -/
def execVecMul (t : Nat) (s : State) : Result := act .normal (doVec 0x1 t) s
/-- VEC_SCALE (R118). -/
def execVecScale (t : Nat) (s : State) : Result := act .normal (doVec 0x2 t) s
/-- VEC_SUMSQ (R118). -/
def execVecSumsq (t : Nat) (s : State) : Result := act .normal (doVec 0x3 t) s
/-- VEC_MAX (R118). -/
def execVecMax (t : Nat) (s : State) : Result := act .normal (doVec 0x4 t) s
/-- VEC_SUM (R118). -/
def execVecSum (t : Nat) (s : State) : Result := act .normal (doVec 0x5 t) s
/-- VEC_EXPSUB (R118). -/
def execVecExpsub (t : Nat) (s : State) : Result := act .normal (doVec 0x6 t) s
/-- VEC_DIV (R118). -/
def execVecDiv (t : Nat) (s : State) : Result := act .normal (doVec 0x7 t) s
/-- VEC_RSQ (R118). -/
def execVecRsq (t : Nat) (s : State) : Result := act .normal (doVec 0x8 t) s
/-- VEC_ROPE (R118). -/
def execVecRope (t : Nat) (s : State) : Result := act .normal (doVec 0x9 t) s
/-- VEC_SILU_GATE (R118). -/
def execVecSiluGate (t : Nat) (s : State) : Result := act .normal (doVec 0xA t) s
/-- VEC_GELU_GATE (R118). -/
def execVecGeluGate (t : Nat) (s : State) : Result := act .normal (doVec 0xB t) s
/-- VEC_QUANT (R50). -/
def execVecQuant (t : Nat) (s : State) : Result := act .normal (doVec 0xC t) s
/-- VEC_DEQ (R118). -/
def execVecDeq (t : Nat) (s : State) : Result := act .normal (doVec 0xD t) s
/-- VEC_TOPK (R118). -/
def execVecTopk (t : Nat) (s : State) : Result := act .normal (doVec 0xE t) s
/-- MIL_ATTN (R125). -/
def execMilAttn (t : Nat) (s : State) : Result := act .normal (doMilAttn t) s
/-- WEL_SCRUB (R381). -/
def execWelScrub (found : List Finding) (t : Nat) (s : State) : Result := act .normal (doScrub found t) s
/-- RED_ADD8 (R563). -/
def execRedAdd8 (t : Nat) (s : State) : Result := act .normal (doRed 0 t) s
/-- RED_ADD32 (R563). -/
def execRedAdd32 (t : Nat) (s : State) : Result := act .normal (doRed 1 t) s
/-- RED_MAX32 (R563). -/
def execRedMax32 (t : Nat) (s : State) : Result := act .normal (doRed 2 t) s
/-- SND_SEND (R265). -/
def execSndSend (t : Nat) (s : State) : Result := act .normal (doSend t) s
/-- SND_ROUTE (R123). -/
def execSndRoute (t : Nat) (s : State) : Result := act .normal (doRoute t) s
/-- SND_RETURN (R123). -/
def execSndReturn (t : Nat) (s : State) : Result := act .normal (doReturn t) s
/-- RCV_POST (R152). -/
def execRcvPost (t : Nat) (s : State) : Result := act .normal (doPost t) s
/-- RCV_WAIT (R152). -/
def execRcvWait (t : Nat) (s : State) : Result := act .normal (doRcvWait t) s
/-- RCV_GATHER (R123). -/
def execRcvGather (t : Nat) (s : State) : Result := act .normal (doGather t) s
/-- PEG_TILE (R155). -/
def execPegTile (t : Nat) (s : State) : Result := act .normal (doPeg 0 t) s
/-- PEG_HALF (R155). -/
def execPegHalf (t : Nat) (s : State) : Result := act .normal (doPeg 1 t) s
/-- PEG_DIE (R155). -/
def execPegDie (t : Nat) (s : State) : Result := act .normal (doPeg 2 t) s
/-- PEG_PACKAGE (R155). -/
def execPegPackage (t : Nat) (s : State) : Result := act .normal (doPeg 3 t) s
/-- PEG_JOB (R155). -/
def execPegJob (t : Nat) (s : State) : Result := act .normal (doPeg 4 t) s
/-- WAIT_BEAT (R122). -/
def execWaitBeat (t : Nat) (s : State) : Result := act .normal (doWaitBeat t) s
/-- WAIT_CYCLES (R122). -/
def execWaitCycles (t : Nat) (s : State) : Result := act .normal (doWaitCycles t) s
/-- CHK_SAMPLE (R133). -/
def execChkSample (an : Analogue) (t : Nat) (s : State) : Result := act .normal (doChkSample an t) s
/-- CHK_RETAIN (R135). -/
def execChkRetain (t : Nat) (s : State) : Result := act .normal (doChkRetain t) s
/-- CHK_DONE (R112). -/
def execChkDone (t : Nat) (s : State) : Result := act .normal (doChkDone t) s
/-- RECEIVE_COMPLETE (R152). -/
def execReceiveComplete (t : Nat) (tag : Nat) (s : State) : Result := act .normal (doReceiveComplete t tag) s
/-- WAIT_BEAT_RELEASE (R122). -/
def execWaitBeatRelease (t : Nat) (s : State) : Result := act .normal (doWaitBeatRelease t) s
/-- TILE_DONE (R112). -/
def execTileDone (t : Nat) (s : State) : Result := act .normal (doTileDone t) s
/-- INSTRUCTION_COMPLETION (R121). -/
def execInstructionCompletion (t : Nat) (u : Option EUnit) (s : State) : Result :=
  act .normal (doInstructionCompletion t u) s
/-- SPAD_SCRUB_READ (R140). -/
def execSpadScrubRead (t : Nat) (upsets : List (Nat × Nat)) (tagUpsets : List Nat) (s : State) : Result :=
  act .normal (doSpadScrubRead t upsets tagUpsets) s

end Sys2Proof.Machine
end

