-- ==== Sys2Proof/Machine/ExecFabric.lean ====
section
/-! DEFINITION. Commands: the package fabric (R147, R200 to R215, R265).  One meaning for each. -/
namespace Sys2Proof.Machine

/-- PEG_ARRIVAL (R209). -/
def execPegArrival (k : Nat) (s : State) : Result := act .normal (doPegArrivalJob k) s
/-- PEG_DONE (R208). -/
def execPegDone (s : State) : Result := act .normal doPegDone s
/-- MESH_PACKET (R200). -/
def execMeshPacket (k : Nat) (headerOk : Bool) (half : Nat) (s : State) : Result :=
  act .normal (doMeshPacket k headerOk half) s
/-- DELIVERY (R147). -/
def execDelivery (t : Nat) (k : Nat) (s : State) : Result := act .normal (doDelivery t k) s
/-- APPEND (R266). -/
def execAppend (k : Nat) (s : State) : Result := act .normal (doAppend k) s
/-- ACK (R207). -/
def execAck (die : Nat) (s : State) : Result := act .normal (doAck die) s
/-- CREDIT (R207). -/
def execCredit (die : Nat) (s : State) : Result := act .normal (doCredit die) s
/-- LATE (R207). -/
def execLate (die : Nat) (s : State) : Result := act .normal (doLate die) s
/-- FAULT (R403). -/
def execFault (die : Nat) (s : State) : Result := act .normal (doFault die) s
/-- ORDER (R207). -/
def execOrder (die : Nat) (s : State) : Result := act .normal (doOrder die) s
/-- TACK_PARITY_ERROR (R206). -/
def execTackParityError (die : Nat) (k : Nat) (s : State) : Result := act .normal (doTackParityError die k) s
/-- D2D_EDGE_DOWN (R214). -/
def execD2dEdgeDown (e : Nat) (lost : List Nat) (s : State) : Result := act .normal (doD2dEdgeDown e lost) s
/-- D2D_TRAINING_DONE (R214). -/
def execD2dTrainingDone (e : Nat) (x : EdgeTrained) (s : State) : Result :=
  act .normal (doD2dTrainingDone e x.modules x.slow x.us x.lanes) s
/-- D2D_RETRAIN (R215). -/
def execD2dRetrain (d : Nat) (side : Nat) (s : State) : Result := act .normal (retrainEdge srcMgmt d side) s

end Sys2Proof.Machine
end

