-- ==== Sys2Proof/Machine/ExecFront.lean ====
section
/-! DEFINITION. Commands: the front ports and the Trione protocol (R278 to R294, R311 to R316, R411, R421).  One meaning for each. -/
namespace Sys2Proof.Machine

/-- ETHERNET_FRAME (R278). -/
def execEthernetFrame (x : EthFrame) (s : State) : Result := take .normal (doEthernetFrame x) s
/-- NEIGHBOR_SOLICITATION (R280). -/
def execNeighborSolicitation (f : Nat) (target : Nat) (s : State) : Result :=
  take .normal (doNeighborSolicitation f target) s
/-- ECHO_REQUEST (R280). -/
def execEchoRequest (f : Nat) (source : Nat) (target : Nat) (ident : Nat) (seq : Nat) (data : List Nat) (s : State) : Result :=
  take .normal (doEchoRequest f source target ident seq data) s
/-- REASSEMBLY_TIMEOUT (R283). -/
def execReassemblyTimeout (k : Nat) (s : State) : Result := take .normal (doReassemblyTimeout k) s
/-- STREAM_RETRANSMIT (R284). -/
def execStreamRetransmit (session : Nat) (seq : Nat) (s : State) : Result :=
  take .normal (doStreamRetransmit session seq) s
/-- STREAM_ACK (R284). -/
def execStreamAck (session : Nat) (s : State) : Result := take .normal (doStreamAck session) s
/-- OPEN (R287). -/
def execOpenSession (i : TnpIn) (gateway : Nat) (s : State) : Result := take .normal (doTnpOpen i gateway) s
/-- CLOSE (R288). -/
def execCloseSession (i : TnpIn) (s : State) : Result := take .normal (doTnpClose i) s
/-- SESSION_IDLE_TIMEOUT (R288). -/
def execSessionIdleTimeout (session : Nat) (s : State) : Result := take .normal (doSessionIdleTimeout session) s
/-- SUBMIT (R291). -/
def execSubmit (i : TnpIn) (b : Submit) (s : State) : Result := take .normal (doTnpSubmit i b) s
/-- RESUME (R421). -/
def execResume (i : TnpIn) (b : Submit) (s : State) : Result := take .normal (doTnpResume i b) s
/-- CANCEL (R293). -/
def execCancel (i : TnpIn) (s : State) : Result := take .normal (doTnpCancel i) s
/-- QUERY (R294). -/
def execQuery (i : TnpIn) (s : State) : Result := take .normal (doTnpQuery i) s
/-- UNPIN (R304). -/
def execUnpin (i : TnpIn) (handle : Nat) (s : State) : Result := take .normal (doTnpUnpin i handle) s
/-- STEP_ACK (R311). -/
def execStepAck (i : TnpIn) (step : Nat) (s : State) : Result := take .normal (doTnpStepAck i step) s
/-- RESEND (R311). -/
def execResend (i : TnpIn) (first : Nat) (count : Nat) (s : State) : Result :=
  take .normal (doTnpResend i first count) s
/-- FRONT_LINK_UP (R316). -/
def execFrontLinkUp (f : Nat) (s : State) : Result := take .normal (frontComesUp f) s
/-- FRONT_LINK_DOWN (R316). -/
def execFrontLinkDown (f : Nat) (s : State) : Result := take .normal (doFrontLinkDown f) s

end Sys2Proof.Machine
end

