-- ==== Sys2Proof/Machine/ExecJtag.lean ====
section
/-! DEFINITION. Commands: test access (R549 to R559).  One meaning for each. -/
namespace Sys2Proof.Machine

/-- TEST_LOGIC_RESET (R550). -/
def execTestLogicReset (s : State) : Result := take .tap doTestLogicReset s
/-- EXTEST (R552). -/
def execExtest (lands : Nat) (shift : Nat) (s : State) : Result := take .tap (doExtest lands shift) s
/-- IDCODE (R550). -/
def execIdcode (s : State) : Result := take .tap doIdcode s
/-- SAMPLE_PRELOAD (R550). -/
def execSamplePreload (lands : Nat) (shift : Nat) (s : State) : Result := take .tap (doSamplePreload lands shift) s
/-- CLAMP (R552). -/
def execClamp (s : State) : Result := take .tap doClamp s
/-- HIGHZ (R552). -/
def execHighz (s : State) : Result := take .tap doHighz s
/-- INTSCAN (R553). -/
def execIntscan (s : State) : Result := take .tap doIntscan s
/-- INTSCAN_CAPTURE (R553). -/
def execIntscanCapture (s : State) : Result := take .tap doIntscanCapture s
/-- BYPASS (R550). -/
def execBypass (s : State) : Result := take .tap doBypass s
/-- TMUX_SELECT (R555). -/
def execTmuxSelect (v : Nat) (s : State) : Result := take .normal (doTmuxSelect srcMgmt v) s
/-- TANA_SELECT (R556). -/
def execTanaSelect (v : Nat) (s : State) : Result := take .normal (doTanaSelect srcMgmt v) s
/-- STAGE_RUN (R559). -/
def execStageRun (v : Nat) (s : State) : Result := take .normal (doStageRun srcMgmt v) s
/-- RAW_READ (R558). -/
def execRawRead (s : State) : Result := take .normal (doRawRead srcMgmt) s
/-- RAW_READ_DONE (R558). -/
def execRawReadDone (s : State) : Result := take .normal doRawReadDone s

end Sys2Proof.Machine
end

