-- ==== Sys2Proof/Machine/ExecLoad.lean ====
section
/-! DEFINITION. Commands: patterns and loading (R80, R105, R350, R355, R356, R365).  One meaning for each. -/
namespace Sys2Proof.Machine

/-- LOAD_TIMEOUT (R350). -/
def execLoadTimeout (kind : Nat) (object : Nat) (s : State) : Result := act .normal (doLoadTimeout kind object) s
/-- PROGRAM_WINDOW_START (R80). -/
def execProgramWindowStart (b : Nat) (deferred : Bool) (s : State) : Result :=
  act .normal (doProgramWindowStart b deferred) s
/-- PROGRAM_WINDOW_END (R80). -/
def execProgramWindowEnd (b : Nat) (s : State) : Result := act .normal (doProgramWindowEnd b) s
/-- PROGRAM_ROW (R355). -/
def execProgramRow (b : Nat) (s : State) : Result := act .normal (doProgramRowBudgeted b) s
/-- ROW_COMPLETE (R356). -/
def execRowComplete (b : Nat) (left : List (Nat × Nat)) (s : State) : Result := act .normal (doRowComplete b left) s
/-- INSOLE_SLOTS_WRITTEN (R105). -/
def execInsoleSlotsWritten (t : Nat) (d : Nat) (s : State) : Result := act .normal (doInsoleSlotsWritten t d) s
/-- READY (R365). -/
def execReady (h : Hdr) (kind : Nat) (node : Nat) (object : Nat) (code : Nat) (s : State) : Result :=
  act .normal (doReady h kind node object code) s
/-- FAIL (R365). -/
def execFail (h : Hdr) (kind : Nat) (node : Nat) (object : Nat) (code : Nat) (s : State) : Result :=
  act .normal (doFail h kind node object code) s

end Sys2Proof.Machine
end

