-- ==== Sys2Proof/Machine/ExecManagement.lean ====
section
/-! DEFINITION. Commands: the management port (R504 to R515).  One meaning for each. -/
namespace Sys2Proof.Machine

/-- READ (R510). -/
def execRead (tag : Nat) (addr : Nat) (count : Nat) (overrun : Bool) (s : State) : Result :=
  take .normal (doRead tag addr count overrun) s
/-- WRITE (R510). -/
def execWrite (tag : Nat) (addr : Nat) (words : List Nat) (overrun : Bool) (s : State) : Result :=
  act .normal (doWrite tag addr words overrun) s
/-- RESPONSE_READ (R511). -/
def execResponseRead (early : Bool) (s : State) : Result := take .normal (doResponseRead early) s
/-- SMBUS_TIMEOUT (R505). -/
def execSmbusTimeout (s : State) : Result := take .normal doSmbusTimeout s
/-- ENTDAA (R504). -/
def execEntdaa (a : Nat) (s : State) : Result := take .normal (doEntdaa a) s
/-- SETDASA (R504). -/
def execSetdasa (target : Nat) (a : Nat) (s : State) : Result := take .normal (doSetdasa target a) s
/-- SETNEWDA (R505). -/
def execSetnewda (a : Nat) (s : State) : Result := take .normal (doSetnewda a) s
/-- RSTDAA (R504). -/
def execRstdaa (s : State) : Result := take .normal doRstdaa s
/-- GETPID (R505). -/
def execGetpid (s : State) : Result := take .normal doGetpid s
/-- GETBCR (R505). -/
def execGetbcr (s : State) : Result := take .normal doGetbcr s
/-- GETDCR (R505). -/
def execGetdcr (s : State) : Result := take .normal doGetdcr s
/-- GETSTATUS (R505). -/
def execGetstatus (s : State) : Result := take .normal doGetstatus s
/-- GETMWL (R505). -/
def execGetmwl (s : State) : Result := take .normal doGetmwl s
/-- GETMRL (R505). -/
def execGetmrl (s : State) : Result := take .normal doGetmrl s
/-- SETMWL (R505). -/
def execSetmwl (n : Nat) (s : State) : Result := take .normal (doSetmwl n) s
/-- SETMRL (R505). -/
def execSetmrl (n : Nat) (s : State) : Result := take .normal (doSetmrl n) s
/-- ENEC (R505). -/
def execEnec (s : State) : Result := take .normal doEnec s
/-- DISEC (R505). -/
def execDisec (s : State) : Result := take .normal doDisec s
/-- SET_ENDPOINT_ID (R512). -/
def execSetEndpointId (x : McIn) (eid : Nat) (s : State) : Result := take .normal (doSetEndpointId x eid) s
/-- GET_ENDPOINT_ID (R512). -/
def execGetEndpointId (x : McIn) (s : State) : Result := take .normal (doGetEndpointId x) s
/-- GET_MCTP_VERSION_SUPPORT (R512). -/
def execGetMctpVersionSupport (x : McIn) (s : State) : Result := take .normal (doGetMctpVersionSupport x) s
/-- GET_MESSAGE_TYPE_SUPPORT (R512). -/
def execGetMessageTypeSupport (x : McIn) (s : State) : Result := take .normal (doGetMessageTypeSupport x) s
/-- GET_TID (R513). -/
def execGetTid (x : McIn) (s : State) : Result := take .normal (doGetTid x) s
/-- SET_TID (R513). -/
def execSetTid (x : McIn) (tid : Nat) (s : State) : Result := take .normal (doSetTid x tid) s
/-- GET_PLDM_VERSION (R513). -/
def execGetPldmVersion (x : McIn) (s : State) : Result := take .normal (doGetPldmVersion x) s
/-- GET_PLDM_TYPES (R513). -/
def execGetPldmTypes (x : McIn) (s : State) : Result := take .normal (doGetPldmTypes x) s
/-- GET_PLDM_COMMANDS (R513). -/
def execGetPldmCommands (x : McIn) (typ : Nat) (s : State) : Result := take .normal (doGetPldmCommands x typ) s
/-- GET_SENSOR_READING (R513). -/
def execGetSensorReading (x : McIn) (sensor : Nat) (s : State) : Result :=
  take .normal (doGetSensorReading x sensor) s
/-- GET_PDR_REPOSITORY_INFO (R513). -/
def execGetPdrRepositoryInfo (x : McIn) (s : State) : Result := take .normal (doGetPdrRepositoryInfo x) s
/-- GET_PDR (R513). -/
def execGetPdr (x : McIn) (handle : Nat) (s : State) : Result := take .normal (doGetPdr x handle) s
/-- BAD_FRAME (R509). -/
def execBadFrame (b : BadFrame) (overrun : Bool) (s : State) : Result := take .normal (doBadFrame b overrun) s

end Sys2Proof.Machine
end

