-- ==== Sys2Proof/Machine/ExecOrders.lean ====
section
/-! DEFINITION. Commands: control orders (R164, R175, R177, R240, R271, R272, R313, R314, R346, R411).  One meaning for each. -/
namespace Sys2Proof.Machine

/-- EPOCH (R164). -/
def execEpoch (i : TnpIn) (hi : Nat) (s : State) : Result := take .normal (doTnpEpoch i hi) s
/-- START (R175). -/
def execStart (i : TnpIn) (job : Nat) (gear : Nat) (b0 : Nat) (framesMin : Nat) (s : State) : Result :=
  act .normal (doTnpStart i job gear b0 framesMin) s
/-- STOP (R175). -/
def execStop (i : TnpIn) (job : Nat) (last : Nat) (s : State) : Result := act .normal (doTnpStop i job last) s
/-- GEAR (R177). -/
def execGear (i : TnpIn) (job : Nat) (gear : Nat) (s : State) : Result := act .normal (doTnpGear i job gear) s
/-- TRANSIT (R240). -/
def execTransit (i : TnpIn) (job : Nat) (dim : Nat) (group : Nat) (lanes : Nat) (enc : Bool) (s : State) : Result :=
  act .normal (doTnpTransit i job dim group lanes enc) s
/-- RELEASE (R240). -/
def execRelease (i : TnpIn) (dim : Nat) (group : Nat) (s : State) : Result := act .normal (doTnpRelease i dim group) s
/-- TENANT (R314). -/
def execTenant (i : TnpIn) (o : TenantOrder) (s : State) : Result := act .normal (doTnpTenant i o) s
/-- PAGE_OUT (R313). -/
def execPageOut (i : TnpIn) (request : Nat) (handle : Nat) (s : State) : Result :=
  act .normal (doTnpPageOut i request handle) s
/-- PAGE_IN (R313). -/
def execPageIn (i : TnpIn) (request : Nat) (s : State) : Result := act .normal (doTnpPageIn i request) s
/-- REPLICA (R411). -/
def execReplica (i : TnpIn) (job : Nat) (rows : List ReplicaRow) (s : State) : Result :=
  act .normal (doTnpReplica i job rows) s
/-- SHARD (R346). -/
def execShard (i : TnpIn) (h : ShardHdr) (crcOk : Bool) (data : List Nat) (s : State) : Result :=
  act .normal (doTnpShard i h crcOk data) s

end Sys2Proof.Machine
end

