-- ==== Sys2Proof/Machine/ExecPower.lean ====
section
/-! DEFINITION. Commands: rails, clocks and temperature (R276, R469 to R479).  One meaning for each. -/
namespace Sys2Proof.Machine

/-- RAIL_COMPARATOR_FIRE (R470). -/
def execRailComparatorFire (rail : Rail) (d : Nat) (e : Nat) (s : State) : Result :=
  act .normal (doRailComparatorFire rail d e) s
/-- SUPPLY_QUIET (R470). -/
def execSupplyQuiet (h : Nat) (s : State) : Result := act .normal (doSupplyQuiet h) s
/-- THERMAL_TRIP (R478). -/
def execThermalTrip (d : Nat) (x : Nat) (s : State) : Result := act .normal (doThermalTrip d x) s
/-- TRIP_RELEASE (R478). -/
def execTripRelease (h : Nat) (s : State) : Result := act .normal (doTripRelease h) s
/-- STACK_FAILURE (R276). -/
def execStackFailure (d : Nat) (s : State) : Result := act .normal (doStackFailure d) s
/-- STACK_TEMP_READOUT (R479). -/
def execStackTempReadout (d : Nat) (temp : Nat) (s : State) : Result := act .normal (doStackTempReadout d temp) s
/-- VSET_SETTLED (R469). -/
def execVsetSettled (h : Nat) (s : State) : Result := take .normal (doVsetSettled h) s
/-- GEAR_CLOCK_SWITCH (R471). -/
def execGearClockSwitch (h : Nat) (s : State) : Result := take .normal (doGearClockSwitch h) s
/-- THERMAL_LEVEL_FALL (R473). -/
def execThermalLevelFall (h : Nat) (s : State) : Result := take .normal (doThermalLevelFall h) s
/-- ALERT_CLEAR (R477). -/
def execAlertClear (h : Nat) (s : State) : Result := take .normal (doAlertClear h) s
/-- POWER_EVALUATION (R474). -/
def execPowerEvaluation (s : State) : Result := take .normal doPowerEvaluation s
/-- POWER_LEVEL_RELEASE (R474). -/
def execPowerLevelRelease (s : State) : Result := take .normal doPowerLevelRelease s

end Sys2Proof.Machine
end

