-- ==== Sys2Proof/Machine/ExecRecord.lean ====
section
/-! DEFINITION. Commands: the event recorder (R450 to R465).  One meaning for each. -/
namespace Sys2Proof.Machine

/-- RECORD_ENTRY (R452). -/
def execRecordEntry (d : Nat) (s : State) : Result := take .kept (doRecordEntry d) s
/-- FLUSH_STORE (R458). -/
def execFlushStore (d : Nat) (fails : Nat) (us : Nat) (s : State) : Result := take .kept (doFlushStore d fails us) s
/-- FLUSH (R459). -/
def execFlush (d : Nat) (s : State) : Result := take .normal (doFlush d) s
/-- TRIGGER (R450). -/
def execTrigger (d : Nat) (severity : Nat) (s : State) : Result := take .normal (doTrigger d severity) s
/-- SEEK (R465). -/
def execSeek (d : Nat) (n : Nat) (s : State) : Result := take .normal (doSeek d n) s
/-- SEEK_DONE (R465). -/
def execSeekDone (d : Nat) (s : State) : Result := take .normal (doSeekDone d) s
/-- EVR_WINDOW_READ (R463). -/
def execEvrWindowRead (d : Nat) (uncorrectable : Bool) (s : State) : Result :=
  take .normal (doEvrWindowRead d uncorrectable) s

end Sys2Proof.Machine
end

