-- ==== Sys2Proof/Machine/ExecRecovery.lean ====
section
/-! DEFINITION. Commands: faults, replay and replicas (R407 to R420, R426).  One meaning for each. -/
namespace Sys2Proof.Machine

/-- FAULT_NOTICE (R407). -/
def execFaultNotice (h : Hdr) (n : Notice) (s : State) : Result := act .normal (doFaultNotice h n) s
/-- REPLAY (R408). -/
def execReplay (h : Hdr) (count : Nat) (step : Nat) (start : Nat) (s : State) : Result :=
  act .normal (doReplay h count step start) s
/-- REPLAY_START (R407). -/
def execReplayStart (s : State) : Result := act .normal doReplayStart s
/-- SETTLE (R409). -/
def execSettle (h : Hdr) (count : Nat) (step : Nat) (s : State) : Result := act .normal (doSettle h count step) s
/-- HOLD (R419). -/
def execHold (h : Hdr) (cause : Nat) (step : Nat) (node : Nat) (s : State) : Result :=
  act .normal (doHold h cause step node) s
/-- HOLD_ENTRY (R419). -/
def execHoldEntry (s : State) : Result := act .normal doHoldEntry s
/-- PROBE (R418). -/
def execProbe (h : Hdr) (step : Nat) (s : State) : Result := act .normal (doProbe h step) s
/-- PROBE_REPLY (R418). -/
def execProbeReply (h : Hdr) (node : Nat) (step : Nat) (tiles : List Nat) (s : State) : Result :=
  act .normal (doProbeReply h node step tiles) s
/-- NO_REPLY (R418). -/
def execNoReply (s : State) : Result := act .normal doNoReply s
/-- REPLICA_REQ (R412). -/
def execReplicaReq (h : Hdr) (r : ReplicaReq) (s : State) : Result := act .normal (doReplicaReq h r) s
/-- REPLICA_RETURN (R412). -/
def execReplicaReturn (k : Nat) (s : State) : Result := act .normal (doReplicaReturn k) s
/-- REPLICA_DONE (R412). -/
def execReplicaDone (h : Hdr) (r : ReplicaReq) (status : Nat) (s : State) : Result :=
  act .normal (doReplicaDone h r status) s
/-- REPLICA_TIMEOUT (R413). -/
def execReplicaTimeout (k : Nat) (s : State) : Result := act .normal (doReplicaTimeout k) s
/-- UNIT_TEST_DONE (R416). -/
def execUnitTestDone (cls : Nat) (n : Nat) (pass : Bool) (s : State) : Result :=
  act .normal (doUnitTestDone (unitKey cls n) pass) s
/-- SHELVE (R426). -/
def execShelve (cls : Nat) (die : Nat) (idx : Nat) (s : State) : Result :=
  act .normal (doShelve srcMgmt cls die idx) s
/-- READMIT (R426). -/
def execReadmit (cls : Nat) (die : Nat) (idx : Nat) (s : State) : Result :=
  act .normal (doReadmit srcMgmt cls die idx) s
/-- RESUME_EXPIRY (R420). -/
def execResumeExpiry (x : Nat) (s : State) : Result := take .normal (doResumeExpiry x) s

end Sys2Proof.Machine
end

