-- ==== Sys2Proof/Machine/ExecRegister.lean ====
section
/-! DEFINITION. Commands: register accesses with rows of their own (R17 to R21, R387 to R393, R495, R518 to R520).  One meaning for each. -/
namespace Sys2Proof.Machine

/-- TRUE_IMAGE_LATCH (R387). -/
def execTrueImageLatch (b : Nat) (s : State) : Result := take .normal (doTrueImageLatch b) s
/-- TRUE_IMAGE_WRITE (R387). -/
def execTrueImageWrite (b : Nat) (word : Nat) (v : Nat) (s : State) : Result :=
  take .normal (doTrueImageWrite srcMgmt b word v) s
/-- REF_SEL_WRITE (R391). -/
def execRefSelWrite (d : Nat) (sel : Nat) (s : State) : Result := take .normal (doRefSelWrite srcMgmt d sel) s
/-- FILTER_WRITE (R393). -/
def execFilterWrite (d : Nat) (n : Nat) (v : Nat) (s : State) : Result := take .normal (doFilterWrite d n v) s
/-- MON_SCAN_WRITE (R392). -/
def execMonScanWrite (d : Nat) (v : Nat) (s : State) : Result := take .normal (doMonScanWrite srcMgmt d v) s
/-- SAVE (R495). -/
def execSave (s : State) : Result := take .normal (doSave srcMgmt) s
/-- SAVE_DONE (R495). -/
def execSaveDone (ok : Bool) (s : State) : Result := take .normal (doSaveDone ok) s
/-- PKG_NODE_WRITE (R519). -/
def execPkgNodeWrite (v : Nat) (s : State) : Result := take .normal (doPkgNodeWrite srcMgmt v) s
/-- STATIC_ADDR_WRITE (R520). -/
def execStaticAddrWrite (v : Nat) (s : State) : Result := take .normal (doStaticAddrWrite srcMgmt v) s
/-- WIDE_VALUE_READ (R21). -/
def execWideValueRead (a : Nat) (s : State) : Result := take .normal (doWideValueRead a) s
/-- REGISTER_WRITE (R17). -/
def execRegisterWrite (a : Nat) (v : Nat) (s : State) : Result := act .normal (doRegisterWrite srcMgmt a v) s
/-- OPSEC_TICK (R518). -/
def execOpsecTick (s : State) : Result := take .kept doOpsecTick s

end Sys2Proof.Machine
end

