-- ==== Sys2Proof/Machine/ExecSecurity.lean ====
section
/-! DEFINITION. Commands: lifecycle and keys (R429 to R444).  One meaning for each. -/
namespace Sys2Proof.Machine

/-- PROVISION (R429). -/
def execProvision (s : State) : Result := take .normal doProvision s
/-- DECOMMISSION (R429). -/
def execDecommission (s : State) : Result := take .normal doDecommission s
/-- OPERATE (R429). -/
def execOperate (t : Token) (s : State) : Result := take .normal (doOperate t) s
/-- DEBUG (R444). -/
def execDebug (t : Token) (s : State) : Result := take .normal (doDebug t) s
/-- REVOKE (R432). -/
def execRevoke (t : Token) (s : State) : Result := take .normal (doRevoke t) s
/-- TOKEN_DECOMMISSION (R429). -/
def execTokenDecommission (t : Token) (s : State) : Result := take .normal (doTokenDecommission t) s
/-- ZEROISATION_COMPLETE (R444). -/
def execZeroisationComplete (us : Nat) (s : State) : Result := take .normal (doZeroisationComplete us) s
/-- INSTALL (R437). -/
def execInstall (kind : Nat) (slot : Nat) (wrapped : List Nat) (s : State) : Result :=
  take .normal (doInstall srcMgmt kind slot wrapped) s
/-- ERASE (R437). -/
def execErase (kind : Nat) (slot : Nat) (s : State) : Result := take .normal (doErase srcMgmt kind slot) s
/-- KEY_COMMAND_DONE (R438). -/
def execKeyCommandDone (s : State) : Result := take .normal doKeyCommandDone s

end Sys2Proof.Machine
end

