-- ==== Sys2Proof/Machine/ExecStartup.lean ====
section
/-! DEFINITION. Commands: start-up and resets (R460, R470, R480 to R502).  One meaning for each. -/
namespace Sys2Proof.Machine

/-- POWER_ON_RESET (R497). -/
def execPowerOnReset (s : State) : Result := take .reset doPowerOnReset s
/-- STRAPS (R483). -/
def execStraps (x : Straps) (s : State) : Result := take .normal (doStraps x) s
/-- SCAN (R462). -/
def execScan (s : State) : Result := take .normal doScan s
/-- RECORD (R488). -/
def execRecord (flash : Bool) (a : Option (List Nat)) (c : Option (List Nat)) (s : State) : Result :=
  take .normal (doRecord flash a c) s
/-- APPLY (R490). -/
def execApply (s : State) : Result := take .normal doApply s
/-- LOCK (R160). -/
def execLock (s : State) : Result := take .normal doLock s
/-- CAL (R496). -/
def execCal (bad : List Nat) (s : State) : Result := take .normal (doCal bad) s
/-- D2D (R214). -/
def execD2d (es : List EdgeTrained) (s : State) : Result := take .normal (doD2d es) s
/-- HBM (R251). -/
def execHbm (failed : List Nat) (s : State) : Result := take .normal (doHbm failed) s
/-- CLEAR (R497). -/
def execClear (s : State) : Result := take .normal doClear s
/-- OPTICS (R497). -/
def execOptics (s : State) : Result := take .normal doOptics s
/-- ANNOUNCE (R500). -/
def execAnnounce (s : State) : Result := take .normal doAnnounce s
/-- WARM_RESET (R502). -/
def execWarmReset (s : State) : Result := take .warm doWarmReset s
/-- WARM_START (R502). -/
def execWarmStart (x : Straps) (s : State) : Result := take .warm (doWarmStart x) s
/-- PFAIL_ASSERT (R480). -/
def execPfailAssert (s : State) : Result := take .kept doPfailAssert s
/-- PFAIL_DEASSERT (R480). -/
def execPfailDeassert (s : State) : Result := take .kept doPfailDeassert s
/-- VAUX_LOW (R470). -/
def execVauxLow (cut : List Nat) (s : State) : Result := take .reset (doVauxLow cut) s
/-- VAUX_RETURN (R470). -/
def execVauxReturn (s : State) : Result := take .vaux doVauxReturn s

end Sys2Proof.Machine
end

