-- ==== Sys2Proof/Machine/ExecSteps.lean ====
section
/-! DEFINITION. Commands: tasks, steps and commits (R112, R146, R171 to R173, R210, R296 to R300, R320, R333, R384).  One meaning for each. -/
namespace Sys2Proof.Machine

/-- TAGWRAP_DONE (R146). -/
def execTagwrapDone (t : Nat) (s : State) : Result := take .normal (doTagwrapDone t) s
/-- STEP_START_POST (R210). -/
def execStepStartPost (s : State) : Result := act .normal doStepStartPost s
/-- STEP_START (R112). -/
def execStepStart (s : State) : Result := act .normal doStepStart s
/-- TRUING_OVERDUE (R384). -/
def execTruingOverdue (b : Nat) (s : State) : Result := act .normal (doTruingOverdue b) s
/-- ADMISSION_CLOSE (R296). -/
def execAdmissionClose (s : State) : Result := act .normal doAdmissionClose s
/-- BATCH_BROADCAST (R299). -/
def execBatchBroadcast (hs : List Hdr) (b : Broadcast) (s : State) : Result := act .normal (doDeliver hs (.batch b)) s
/-- PARAMETER_DELIVERY (R320). -/
def execParameterDelivery (hs : List Hdr) (step : Nat) (recs : List SamplerRec) (s : State) : Result :=
  act .normal (doDeliver hs (.params step recs)) s
/-- RESULT_DELIVERY (R333). -/
def execResultDelivery (hs : List Hdr) (step : Nat) (recs : List ResultRec) (s : State) : Result :=
  act .normal (doDeliver hs (.results step recs)) s
/-- BATCH_LATE (R300). -/
def execBatchLate (s : State) : Result := act .normal doBatchLate s
/-- COMMIT (R171). -/
def execCommit (w : Option (List Hdr × CommitMsg)) (s : State) : Result := act .normal (doCommit w) s
/-- TACK_TIMEOUT (R173). -/
def execTackTimeout (s : State) : Result := act .normal doTackTimeout s
/-- SAMPLER_DRAW (R325). -/
def execSamplerDraw (slot : Nat) (logits : List Nat) (s : State) : Result := act .normal (doSamplerDraw slot logits) s

end Sys2Proof.Machine
end

