-- ==== Sys2Proof/Machine/ExecTime.lean ====
section
/-! DEFINITION. Commands: the timebase (R160 to R168).  One meaning for each. -/
namespace Sys2Proof.Machine

/-- RREF_LOST (R163). -/
def execRrefLost (s : State) : Result := take .normal doRrefLost s
/-- RREF_RETURN (R163). -/
def execRrefReturn (s : State) : Result := take .normal doRrefReturn s
/-- HOLDOVER_END (R163). -/
def execHoldoverEnd (s : State) : Result := act .normal doHoldoverEnd s
/-- SYNC_EDGE (R161). -/
def execSyncEdge (s : State) : Result := take .normal doSyncEdge s
/-- SYNC_MISS (R162). -/
def execSyncMiss (s : State) : Result := take .normal doSyncMiss s
/-- EPOCH_WRITE (R164). -/
def execEpochWrite (hi : Nat) (s : State) : Result := take .normal (doEpochWrite hi) s
/-- TIME_SAMPLE_SEND (R166). -/
def execTimeSampleSend (port : Nat) (s : State) : Result := take .normal (doTimeSampleSend port) s
/-- TIME (R166). -/
def execTime (h : Hdr) (beat : Nat) (refcyc : Nat) (valid : Bool) (theta : Int) (s : State) : Result :=
  act .normal (doTime h beat refcyc valid theta) s

end Sys2Proof.Machine
end

