-- ==== Sys2Proof/Machine/ExecTorus.lean ====
section
/-! DEFINITION. Commands: the torus ports (R227 to R248).  One meaning for each. -/
namespace Sys2Proof.Machine

/-- TORUS_GROUP_DOWN (R246). -/
def execTorusGroupDown (port : Nat) (group : Nat) (s : State) : Result := act .normal (doTorusGroupDown port group) s
/-- TORUS_TRAINING_DONE (R245). -/
def execTorusTrainingDone (port : Nat) (group : Nat) (deskewed : Bool) (s : State) : Result :=
  act .normal (doTorusTrainingDone port group deskewed) s
/-- TRAIN (R245). -/
def execTrain (port : Nat) (group : Nat) (m : TrainMsg) (received : Nat) (stamp : Nat) (hold : Nat) (s : State) : Result :=
  act .normal (doTrain port group m received stamp hold) s
/-- GROUP_RETRAIN (R244). -/
def execGroupRetrain (port : Nat) (group : Nat) (s : State) : Result :=
  act .normal (doGroupRetrain srcMgmt port group) s
/-- FLIT_TIME (R232). -/
def execFlitTime (port : Nat) (group : Nat) (wait : Nat) (s : State) : Result :=
  act .normal (doFlitTime port group wait) s
/-- ACK_REPORT (R246). -/
def execAckReport (port : Nat) (group : Nat) (s : State) : Result := act .normal (doAckReport port group) s
/-- IDLE (R246). -/
def execIdle (h : Hdr) (s : State) : Result := act .normal (doIdle h) s
/-- DATA (R230). -/
def execData (h : Hdr) (d : Delivery) (o : Origin) (line : Nat) (lines : List (List Nat)) (s : State) : Result :=
  act .normal (doData h d o line lines) s
/-- COPY (R230). -/
def execCopy (h : Hdr) (d : Delivery) (o : Origin) (idx : Nat) (line : Nat) (r : CopyRec) (lines : List (List Nat)) (s : State) : Result :=
  act .normal (doCopy h d o idx line r lines) s
/-- END (R230). -/
def execEndMark (h : Hdr) (d : Delivery) (origin : Place) (copies : Nat) (s : State) : Result :=
  act .normal (doEnd h d origin copies) s
/-- ACKD (R231). -/
def execAckd (h : Hdr) (recs : List AckdRec) (s : State) : Result := act .normal (doAckd h recs) s
/-- PEG (R231). -/
def execPeg (h : Hdr) (m : PegMsg) (s : State) : Result := act .normal (doPegFlit h m) s
/-- SHARD_FLIT (R347). -/
def execShardFlit (h : Hdr) (f : ShardFrag) (s : State) : Result := act .normal (doShardFlit h f) s
/-- CORRUPT_FLIT (R229). -/
def execCorruptFlit (port : Nat) (group : Nat) (auth : Bool) (s : State) : Result :=
  act .normal (doCorruptFlit port group auth) s

end Sys2Proof.Machine
end

