-- ==== Sys2Proof/Machine/ExecTruing.lean ====
section
/-! DEFINITION. Commands: truing and the monitor converter (R375 to R394).  One meaning for each. -/
namespace Sys2Proof.Machine

/-- TRUING_WINDOW_START (R377). -/
def execTruingWindowStart (b : Nat) (deferred : Bool) (s : State) : Result :=
  act .normal (doTruingWindowStart b deferred) s
/-- TRUING_COMPLETE (R375). -/
def execTruingComplete (b : Nat) (search : Bool) (verify : Bool) (taps : List Nat) (found : List Finding) (s : State) : Result :=
  act .normal (doTruingComplete b search verify taps found) s
/-- TRUING_WINDOW_END (R380). -/
def execTruingWindowEnd (b : Nat) (rows : Nat) (found : List Finding) (s : State) : Result :=
  act .normal (doTruingWindowEnd b rows found) s
/-- FREE_TRUING_START (R385). -/
def execFreeTruingStart (t : Nat) (s : State) : Result := act .normal (doFreeTruingStart t) s
/-- MON_CONVERSION (R390). -/
def execMonConversion (d : Nat) (scaled : Int) (s : State) : Result := take .kept (doMonConversion d scaled) s
/-- REF_SETTLE (R391). -/
def execRefSettle (d : Nat) (s : State) : Result := take .kept (doRefSettle d) s

end Sys2Proof.Machine
end

