-- ==== Sys2Proof/Machine/Dispatch.lean ====
section
/-! DEFINITION. Which meaning each command has. -/
namespace Sys2Proof.Machine

/-- A command's effect on everything but the queue. -/
def exec (i : Instr) (s : State) : Host.Outcome State Fault Refusal :=
  match i with
  | .powerOnReset => Sys2Proof.Machine.execPowerOnReset s
  | .straps x => Sys2Proof.Machine.execStraps x s
  | .scan => Sys2Proof.Machine.execScan s
  | .record flash a c => Sys2Proof.Machine.execRecord flash a c s
  | .apply => Sys2Proof.Machine.execApply s
  | .lock => Sys2Proof.Machine.execLock s
  | .cal bad => Sys2Proof.Machine.execCal bad s
  | .d2d es => Sys2Proof.Machine.execD2d es s
  | .hbm failed => Sys2Proof.Machine.execHbm failed s
  | .clear => Sys2Proof.Machine.execClear s
  | .optics => Sys2Proof.Machine.execOptics s
  | .announce => Sys2Proof.Machine.execAnnounce s
  | .warmReset => Sys2Proof.Machine.execWarmReset s
  | .warmStart x => Sys2Proof.Machine.execWarmStart x s
  | .pfailAssert => Sys2Proof.Machine.execPfailAssert s
  | .pfailDeassert => Sys2Proof.Machine.execPfailDeassert s
  | .vauxLow cut => Sys2Proof.Machine.execVauxLow cut s
  | .railComparatorFire rail d e => Sys2Proof.Machine.execRailComparatorFire rail d e s
  | .supplyQuiet h => Sys2Proof.Machine.execSupplyQuiet h s
  | .thermalTrip d x => Sys2Proof.Machine.execThermalTrip d x s
  | .tripRelease h => Sys2Proof.Machine.execTripRelease h s
  | .stackFailure d => Sys2Proof.Machine.execStackFailure d s
  | .stackTempReadout d temp => Sys2Proof.Machine.execStackTempReadout d temp s
  | .rrefLost => Sys2Proof.Machine.execRrefLost s
  | .rrefReturn => Sys2Proof.Machine.execRrefReturn s
  | .holdoverEnd => Sys2Proof.Machine.execHoldoverEnd s
  | .syncEdge => Sys2Proof.Machine.execSyncEdge s
  | .syncMiss => Sys2Proof.Machine.execSyncMiss s
  | .epochWrite hi => Sys2Proof.Machine.execEpochWrite hi s
  | .epoch m hi => Sys2Proof.Machine.execEpoch m hi s
  | .timeSampleSend port => Sys2Proof.Machine.execTimeSampleSend port s
  | .time h beat refcyc valid theta => Sys2Proof.Machine.execTime h beat refcyc valid theta s
  | .start m job gear b0 framesMin => Sys2Proof.Machine.execStart m job gear b0 framesMin s
  | .tagwrapDone t => Sys2Proof.Machine.execTagwrapDone t s
  | .stop m job last => Sys2Proof.Machine.execStop m job last s
  | .gear m job gear => Sys2Proof.Machine.execGear m job gear s
  | .stepStartPost => Sys2Proof.Machine.execStepStartPost s
  | .stepStart => Sys2Proof.Machine.execStepStart s
  | .truingOverdue b => Sys2Proof.Machine.execTruingOverdue b s
  | .vsetSettled h => Sys2Proof.Machine.execVsetSettled h s
  | .gearClockSwitch h => Sys2Proof.Machine.execGearClockSwitch h s
  | .admissionClose => Sys2Proof.Machine.execAdmissionClose s
  | .batchBroadcast hs b => Sys2Proof.Machine.execBatchBroadcast hs b s
  | .parameterDelivery hs step recs => Sys2Proof.Machine.execParameterDelivery hs step recs s
  | .resultDelivery hs step recs => Sys2Proof.Machine.execResultDelivery hs step recs s
  | .batchLate => Sys2Proof.Machine.execBatchLate s
  | .commit w => Sys2Proof.Machine.execCommit w s
  | .tackTimeout => Sys2Proof.Machine.execTackTimeout s
  | .arrMvp an t => Sys2Proof.Machine.execArrMvp an t s
  | .arrMvpAdd an t => Sys2Proof.Machine.execArrMvpAdd an t s
  | .movCopy t => Sys2Proof.Machine.execMovCopy t s
  | .movZero t => Sys2Proof.Machine.execMovZero t s
  | .movSetx t => Sys2Proof.Machine.execMovSetx t s
  | .movAddx t => Sys2Proof.Machine.execMovAddx t s
  | .vecAdd t => Sys2Proof.Machine.execVecAdd t s
  | .vecMul t => Sys2Proof.Machine.execVecMul t s
  | .vecScale t => Sys2Proof.Machine.execVecScale t s
  | .vecSumsq t => Sys2Proof.Machine.execVecSumsq t s
  | .vecMax t => Sys2Proof.Machine.execVecMax t s
  | .vecSum t => Sys2Proof.Machine.execVecSum t s
  | .vecExpsub t => Sys2Proof.Machine.execVecExpsub t s
  | .vecDiv t => Sys2Proof.Machine.execVecDiv t s
  | .vecRsq t => Sys2Proof.Machine.execVecRsq t s
  | .vecRope t => Sys2Proof.Machine.execVecRope t s
  | .vecSiluGate t => Sys2Proof.Machine.execVecSiluGate t s
  | .vecGeluGate t => Sys2Proof.Machine.execVecGeluGate t s
  | .vecQuant t => Sys2Proof.Machine.execVecQuant t s
  | .vecDeq t => Sys2Proof.Machine.execVecDeq t s
  | .vecTopk t => Sys2Proof.Machine.execVecTopk t s
  | .milAttn t => Sys2Proof.Machine.execMilAttn t s
  | .welScrub found t => Sys2Proof.Machine.execWelScrub found t s
  | .redAdd8 t => Sys2Proof.Machine.execRedAdd8 t s
  | .redAdd32 t => Sys2Proof.Machine.execRedAdd32 t s
  | .redMax32 t => Sys2Proof.Machine.execRedMax32 t s
  | .sndSend t => Sys2Proof.Machine.execSndSend t s
  | .sndRoute t => Sys2Proof.Machine.execSndRoute t s
  | .sndReturn t => Sys2Proof.Machine.execSndReturn t s
  | .rcvPost t => Sys2Proof.Machine.execRcvPost t s
  | .rcvWait t => Sys2Proof.Machine.execRcvWait t s
  | .rcvGather t => Sys2Proof.Machine.execRcvGather t s
  | .receiveComplete t tag => Sys2Proof.Machine.execReceiveComplete t tag s
  | .pegTile t => Sys2Proof.Machine.execPegTile t s
  | .pegHalf t => Sys2Proof.Machine.execPegHalf t s
  | .pegDie t => Sys2Proof.Machine.execPegDie t s
  | .pegPackage t => Sys2Proof.Machine.execPegPackage t s
  | .pegJob t => Sys2Proof.Machine.execPegJob t s
  | .pegArrival k => Sys2Proof.Machine.execPegArrival k s
  | .pegDone => Sys2Proof.Machine.execPegDone s
  | .waitBeat t => Sys2Proof.Machine.execWaitBeat t s
  | .waitBeatRelease t => Sys2Proof.Machine.execWaitBeatRelease t s
  | .waitCycles t => Sys2Proof.Machine.execWaitCycles t s
  | .chkSample an t => Sys2Proof.Machine.execChkSample an t s
  | .chkRetain t => Sys2Proof.Machine.execChkRetain t s
  | .chkDone t => Sys2Proof.Machine.execChkDone t s
  | .tileDone t => Sys2Proof.Machine.execTileDone t s
  | .samplerDraw slot logits => Sys2Proof.Machine.execSamplerDraw slot logits s
  | .spadScrubRead t upsets tagUpsets => Sys2Proof.Machine.execSpadScrubRead t upsets tagUpsets s
  | .meshPacket k headerOk half => Sys2Proof.Machine.execMeshPacket k headerOk half s
  | .delivery t k => Sys2Proof.Machine.execDelivery t k s
  | .append k => Sys2Proof.Machine.execAppend k s
  | .ack die => Sys2Proof.Machine.execAck die s
  | .credit die => Sys2Proof.Machine.execCredit die s
  | .late die => Sys2Proof.Machine.execLate die s
  | .fault die => Sys2Proof.Machine.execFault die s
  | .order die => Sys2Proof.Machine.execOrder die s
  | .d2dEdgeDown e lost => Sys2Proof.Machine.execD2dEdgeDown e lost s
  | .d2dTrainingDone e x => Sys2Proof.Machine.execD2dTrainingDone e x s
  | .d2dRetrain d side => Sys2Proof.Machine.execD2dRetrain d side s
  | .torusGroupDown port group => Sys2Proof.Machine.execTorusGroupDown port group s
  | .torusTrainingDone port group deskewed => Sys2Proof.Machine.execTorusTrainingDone port group deskewed s
  | .train port group m received stamp hold => Sys2Proof.Machine.execTrain port group m received stamp hold s
  | .groupRetrain port group => Sys2Proof.Machine.execGroupRetrain port group s
  | .flitTime port group wait => Sys2Proof.Machine.execFlitTime port group wait s
  | .ackReport port group => Sys2Proof.Machine.execAckReport port group s
  | .idle h => Sys2Proof.Machine.execIdle h s
  | .data h d o line lines => Sys2Proof.Machine.execData h d o line lines s
  | .copy h d o idx line r lines => Sys2Proof.Machine.execCopy h d o idx line r lines s
  | .endMark h d origin copies => Sys2Proof.Machine.execEndMark h d origin copies s
  | .ackd h recs => Sys2Proof.Machine.execAckd h recs s
  | .peg h m => Sys2Proof.Machine.execPeg h m s
  | .shardFlit h f => Sys2Proof.Machine.execShardFlit h f s
  | .transit m job dim group lanes enc => Sys2Proof.Machine.execTransit m job dim group lanes enc s
  | .release m dim group => Sys2Proof.Machine.execRelease m dim group s
  | .ethernetFrame x => Sys2Proof.Machine.execEthernetFrame x s
  | .neighborSolicitation f target => Sys2Proof.Machine.execNeighborSolicitation f target s
  | .echoRequest f source target ident seq data => Sys2Proof.Machine.execEchoRequest f source target ident seq data s
  | .reassemblyTimeout k => Sys2Proof.Machine.execReassemblyTimeout k s
  | .streamRetransmit session seq => Sys2Proof.Machine.execStreamRetransmit session seq s
  | .streamAck session => Sys2Proof.Machine.execStreamAck session s
  | .openSession m gateway => Sys2Proof.Machine.execOpenSession m gateway s
  | .closeSession m => Sys2Proof.Machine.execCloseSession m s
  | .sessionIdleTimeout session => Sys2Proof.Machine.execSessionIdleTimeout session s
  | .submit m b => Sys2Proof.Machine.execSubmit m b s
  | .resume m b => Sys2Proof.Machine.execResume m b s
  | .cancel m => Sys2Proof.Machine.execCancel m s
  | .query m => Sys2Proof.Machine.execQuery m s
  | .unpin m handle => Sys2Proof.Machine.execUnpin m handle s
  | .stepAck m step => Sys2Proof.Machine.execStepAck m step s
  | .resend m first count => Sys2Proof.Machine.execResend m first count s
  | .tenant m o => Sys2Proof.Machine.execTenant m o s
  | .pageOut m request handle => Sys2Proof.Machine.execPageOut m request handle s
  | .pageIn m request => Sys2Proof.Machine.execPageIn m request s
  | .putAck m image status => Sys2Proof.Machine.execPutAck m image status s
  | .pagingData m image bytes tag => Sys2Proof.Machine.execPagingData m image bytes tag s
  | .pagingTimeout d x page => Sys2Proof.Machine.execPagingTimeout d x page s
  | .frameZeroed d => Sys2Proof.Machine.execFrameZeroed d s
  | .ctxScrubRead d upsets => Sys2Proof.Machine.execCtxScrubRead d upsets s
  | .replica m job rows => Sys2Proof.Machine.execReplica m job rows s
  | .shard m h crcOk data => Sys2Proof.Machine.execShard m h crcOk data s
  | .loadTimeout kind object => Sys2Proof.Machine.execLoadTimeout kind object s
  | .programWindowStart b deferred => Sys2Proof.Machine.execProgramWindowStart b deferred s
  | .programWindowEnd b => Sys2Proof.Machine.execProgramWindowEnd b s
  | .programRow b => Sys2Proof.Machine.execProgramRow b s
  | .rowComplete b left => Sys2Proof.Machine.execRowComplete b left s
  | .insoleSlotsWritten t d => Sys2Proof.Machine.execInsoleSlotsWritten t d s
  | .ready h kind node object code => Sys2Proof.Machine.execReady h kind node object code s
  | .fail h kind node object code => Sys2Proof.Machine.execFail h kind node object code s
  | .truingWindowStart b deferred => Sys2Proof.Machine.execTruingWindowStart b deferred s
  | .truingComplete b search verify taps found => Sys2Proof.Machine.execTruingComplete b search verify taps found s
  | .truingWindowEnd b rows found => Sys2Proof.Machine.execTruingWindowEnd b rows found s
  | .freeTruingStart t => Sys2Proof.Machine.execFreeTruingStart t s
  | .monConversion d scaled => Sys2Proof.Machine.execMonConversion d scaled s
  | .thermalLevelFall h => Sys2Proof.Machine.execThermalLevelFall h s
  | .alertClear h => Sys2Proof.Machine.execAlertClear h s
  | .refSettle d => Sys2Proof.Machine.execRefSettle d s
  | .powerEvaluation => Sys2Proof.Machine.execPowerEvaluation s
  | .powerLevelRelease => Sys2Proof.Machine.execPowerLevelRelease s
  | .faultNotice h n => Sys2Proof.Machine.execFaultNotice h n s
  | .replay h count step start => Sys2Proof.Machine.execReplay h count step start s
  | .replayStart => Sys2Proof.Machine.execReplayStart s
  | .settle h count step => Sys2Proof.Machine.execSettle h count step s
  | .hold h cause step node => Sys2Proof.Machine.execHold h cause step node s
  | .holdEntry => Sys2Proof.Machine.execHoldEntry s
  | .probe h step => Sys2Proof.Machine.execProbe h step s
  | .probeReply h node step tiles => Sys2Proof.Machine.execProbeReply h node step tiles s
  | .noReply => Sys2Proof.Machine.execNoReply s
  | .replicaReq h r => Sys2Proof.Machine.execReplicaReq h r s
  | .replicaReturn k => Sys2Proof.Machine.execReplicaReturn k s
  | .replicaDone h r status => Sys2Proof.Machine.execReplicaDone h r status s
  | .replicaTimeout k => Sys2Proof.Machine.execReplicaTimeout k s
  | .unitTestDone cls n pass => Sys2Proof.Machine.execUnitTestDone cls n pass s
  | .shelve cls die idx => Sys2Proof.Machine.execShelve cls die idx s
  | .readmit cls die idx => Sys2Proof.Machine.execReadmit cls die idx s
  | .resumeExpiry x => Sys2Proof.Machine.execResumeExpiry x s
  | .provision => Sys2Proof.Machine.execProvision s
  | .decommission => Sys2Proof.Machine.execDecommission s
  | .operate t => Sys2Proof.Machine.execOperate t s
  | .debug t => Sys2Proof.Machine.execDebug t s
  | .revoke t => Sys2Proof.Machine.execRevoke t s
  | .tokenDecommission t => Sys2Proof.Machine.execTokenDecommission t s
  | .zeroisationComplete us => Sys2Proof.Machine.execZeroisationComplete us s
  | .install kind slot wrapped => Sys2Proof.Machine.execInstall kind slot wrapped s
  | .erase kind slot => Sys2Proof.Machine.execErase kind slot s
  | .keyCommandDone => Sys2Proof.Machine.execKeyCommandDone s
  | .recordEntry d => Sys2Proof.Machine.execRecordEntry d s
  | .flushStore d fails us => Sys2Proof.Machine.execFlushStore d fails us s
  | .flush d => Sys2Proof.Machine.execFlush d s
  | .trigger d severity => Sys2Proof.Machine.execTrigger d severity s
  | .seek d n => Sys2Proof.Machine.execSeek d n s
  | .seekDone d => Sys2Proof.Machine.execSeekDone d s
  | .evrWindowRead d uncorrectable => Sys2Proof.Machine.execEvrWindowRead d uncorrectable s
  | .trueImageLatch b => Sys2Proof.Machine.execTrueImageLatch b s
  | .trueImageWrite b word v => Sys2Proof.Machine.execTrueImageWrite b word v s
  | .refSelWrite d sel => Sys2Proof.Machine.execRefSelWrite d sel s
  | .filterWrite d n v => Sys2Proof.Machine.execFilterWrite d n v s
  | .monScanWrite d v => Sys2Proof.Machine.execMonScanWrite d v s
  | .save => Sys2Proof.Machine.execSave s
  | .saveDone ok => Sys2Proof.Machine.execSaveDone ok s
  | .pkgNodeWrite v => Sys2Proof.Machine.execPkgNodeWrite v s
  | .staticAddrWrite v => Sys2Proof.Machine.execStaticAddrWrite v s
  | .wideValueRead a => Sys2Proof.Machine.execWideValueRead a s
  | .registerWrite a v => Sys2Proof.Machine.execRegisterWrite a v s
  | .read tag addr count overrun => Sys2Proof.Machine.execRead tag addr count overrun s
  | .write tag addr words overrun => Sys2Proof.Machine.execWrite tag addr words overrun s
  | .responseRead early => Sys2Proof.Machine.execResponseRead early s
  | .smbusTimeout => Sys2Proof.Machine.execSmbusTimeout s
  | .entdaa a => Sys2Proof.Machine.execEntdaa a s
  | .setdasa target a => Sys2Proof.Machine.execSetdasa target a s
  | .setnewda a => Sys2Proof.Machine.execSetnewda a s
  | .rstdaa => Sys2Proof.Machine.execRstdaa s
  | .getpid => Sys2Proof.Machine.execGetpid s
  | .getbcr => Sys2Proof.Machine.execGetbcr s
  | .getdcr => Sys2Proof.Machine.execGetdcr s
  | .getstatus => Sys2Proof.Machine.execGetstatus s
  | .getmwl => Sys2Proof.Machine.execGetmwl s
  | .getmrl => Sys2Proof.Machine.execGetmrl s
  | .setmwl n => Sys2Proof.Machine.execSetmwl n s
  | .setmrl n => Sys2Proof.Machine.execSetmrl n s
  | .enec => Sys2Proof.Machine.execEnec s
  | .disec => Sys2Proof.Machine.execDisec s
  | .setEndpointId x eid => Sys2Proof.Machine.execSetEndpointId x eid s
  | .getEndpointId x => Sys2Proof.Machine.execGetEndpointId x s
  | .getMctpVersionSupport x => Sys2Proof.Machine.execGetMctpVersionSupport x s
  | .getMessageTypeSupport x => Sys2Proof.Machine.execGetMessageTypeSupport x s
  | .getTid x => Sys2Proof.Machine.execGetTid x s
  | .setTid x tid => Sys2Proof.Machine.execSetTid x tid s
  | .getPldmVersion x => Sys2Proof.Machine.execGetPldmVersion x s
  | .getPldmTypes x => Sys2Proof.Machine.execGetPldmTypes x s
  | .getPldmCommands x typ => Sys2Proof.Machine.execGetPldmCommands x typ s
  | .getSensorReading x sensor => Sys2Proof.Machine.execGetSensorReading x sensor s
  | .getPdrRepositoryInfo x => Sys2Proof.Machine.execGetPdrRepositoryInfo x s
  | .getPdr x handle => Sys2Proof.Machine.execGetPdr x handle s
  | .opsecTick => Sys2Proof.Machine.execOpsecTick s
  | .testLogicReset => Sys2Proof.Machine.execTestLogicReset s
  | .extest lands shift => Sys2Proof.Machine.execExtest lands shift s
  | .idcode => Sys2Proof.Machine.execIdcode s
  | .samplePreload lands shift => Sys2Proof.Machine.execSamplePreload lands shift s
  | .clamp => Sys2Proof.Machine.execClamp s
  | .highz => Sys2Proof.Machine.execHighz s
  | .intscan => Sys2Proof.Machine.execIntscan s
  | .intscanCapture => Sys2Proof.Machine.execIntscanCapture s
  | .bypass => Sys2Proof.Machine.execBypass s
  | .tmuxSelect v => Sys2Proof.Machine.execTmuxSelect v s
  | .tanaSelect v => Sys2Proof.Machine.execTanaSelect v s
  | .stageRun v => Sys2Proof.Machine.execStageRun v s
  | .rawRead => Sys2Proof.Machine.execRawRead s
  | .rawReadDone => Sys2Proof.Machine.execRawReadDone s
  | .vauxReturn => Sys2Proof.Machine.execVauxReturn s
  | .frontLinkUp f => Sys2Proof.Machine.execFrontLinkUp f s
  | .frontLinkDown f => Sys2Proof.Machine.execFrontLinkDown f s
  | .instructionCompletion t u => Sys2Proof.Machine.execInstructionCompletion t u s
  | .badFrame b overrun => Sys2Proof.Machine.execBadFrame b overrun s
  | .corruptFlit port group auth => Sys2Proof.Machine.execCorruptFlit port group auth s
  | .tackParityError die k => Sys2Proof.Machine.execTackParityError die k s

end Sys2Proof.Machine
end

