-- ==== Sys2Proof/Safety.lean ====
section
/-! DEFINITION. What the statements call safe and well kept: tables and memories in canonical form, and the two states in
which the part takes no ordinary command. -/
namespace Sys2Proof.Machine

/-- A memory in canonical form: an unlisted byte reads as 0. -/
def Memory.wf (m : Memory) : Bool := Tbl.wf (0 : Byte) m

/-- The addressed memories of the part are in canonical form: every scratchpad and the context store's stacks. -/
def Chip.memoriesWf (c : Chip) : Bool := Memory.wf c.kv && c.tiles.all fun e => Memory.wf e.2.mem

/-- The part is stopped by INTSCAN until PORST_N (R553). -/
def Chip.scanned (c : Chip) : Bool := c.flag R.TEST_STATUS_INTSCAN_USED

/-- The part has lost VAUX and is held in reset (R470). -/
def Chip.unpowered (c : Chip) : Bool := decide (c.inReset = 1)

/-- The part runs: powered, not held by WRST_N, and not scanned. -/
def Chip.runs (c : Chip) : Bool := c.takes .normal

/-- Nothing waits for the reactions that follow a command: no notice at the head (R407), no report of a load event (R425), no packet
or acknowledgement at the torus stations (R232). -/
def Chip.calm (c : Chip) : Bool :=
  c.notices.isEmpty && c.reports.all (fun r => decide (8 < r.event)) && c.stationOut.isEmpty && c.ackOut.isEmpty

/-- A part but for ALERT_N, which follows the alert causes (R515), and for what it sent in its last command. -/
def Chip.quiet (c : Chip) : Chip := { c with sent := [], mgmt := { c.mgmt with alertLow := false } }

/-- The register fields outside a list are kept. -/
def Chip.keepsRegs (c d : Chip) (ks : List Nat) : Prop := ∀ k, k ∉ ks → Tbl.find? d.regs k = Tbl.find? c.regs k

/-- The part `d` differs from `c` in register fields and event records alone, ALERT_N and what was
sent apart. -/
def Chip.onlyRegs (c d : Chip) : Prop :=
  d.quiet = { c with regs := d.regs, recorders := d.recorders }.quiet

/-- The command completes: a next state, the queue as it was, and a part of which `post` holds. -/
def Completes (i : Instr) (s : State) (post : Chip → Prop) : Prop :=
  ∃ d, exec i s = .next { s with chip := d } ∧ post d

/-- The command completes with exactly this part, ALERT_N and what was sent apart. -/
def Becomes (i : Instr) (s : State) (e : Chip) : Prop := Completes i s fun d => d.quiet = e.quiet

/-- A flit on a lane group is good, in sequence and for this package (R229, R230, R239, R246): its group is UP and not in
transit, it asks for no retransmission, and its SEQ, virtual lane, JOB and destination are right. -/
def Chip.takesFlit (c : Chip) (h : Hdr) (b : FlitBody) : Bool :=
  let g := h.port * 4 + h.group
  decide (c.grpState g = grpUp) && !h.nak && decide (h.seq = (c.link g).rxSeq) && b.vlOk h.vl
    && h.job == c.rd R.TORUS_GRP_STATE_JOB (lgOff g) && (c.onward g h.dest).isNone

/-- The part after the link layer has taken such a flit: counted, its acknowledgement and credits used, its SEQ passed, its
own acknowledgement and buffer credit owed. -/
def Chip.received (c : Chip) (h : Hdr) : Chip :=
  let g := h.port * 4 + h.group
  let c := if h.corrected then c.bump R.TORUS_GRP_CORRECTED_COUNT (lgOff g) 1 else c
  let l := c.link g
  let c := { c with links := Tbl.put noLink c.links g { l with
    unacked := l.unacked.filter fun u => !seqUpTo u.1 h.ack
    resend := l.resend.filter fun u => !seqUpTo u.1 h.ack
    credit := setNth (nth 0 l.credit h.cvl + h.cred) l.credit h.cvl } }
  let c := c.bump R.TORUS_GRP_FLITS_RX_COUNT (lgOff g) 1
  let l := c.link g
  { c with links := Tbl.put noLink c.links g { l with
    rxSeq := (l.rxSeq + 1) % 4096, ackDue := true, owed := setNth (nth 0 l.owed h.vl + 1) l.owed h.vl } }

/-- The part with one link changed. -/
def Chip.withLink (c : Chip) (g : Nat) (l : Link) : Chip := { c with links := Tbl.put noLink c.links g l }

/-- The part with one flit more in the queue of a lane group. -/
def Chip.queued (c : Chip) (g : Nat) (f : Flit) : Chip := c.withLink g { c.link g with queue := (c.link g).queue ++ [f] }

/-- An engine word of a class: VEC with an OP, RED with an OP, PEG of a scope. -/
def isVec (op : Nat) (e : EInstr) : Bool :=
  match e with
  | .vec o _ _ _ _ _ _ _ => o == op
  | _ => false
def isRed (op : Nat) (e : EInstr) : Bool :=
  match e with
  | .red o _ _ _ _ _ => o == op
  | _ => false
def isPeg (scope : Nat) (e : EInstr) : Bool :=
  match e with
  | .peg s _ => s == scope
  | _ => false

/-- The engine commands: the tile, and the words that the command issues there. -/
def issues (i : Instr) : Option (Nat × (EInstr → Bool)) :=
  match i with
  | .arrMvp _ t => some (t, fun e => match e with | .arr a _ _ _ _ _ _ _ _ _ _ => !a | _ => false)
  | .arrMvpAdd _ t => some (t, fun e => match e with | .arr a _ _ _ _ _ _ _ _ _ _ => a | _ => false)
  | .movCopy t => some (t, fun e => match e with | .copy _ _ _ _ => true | _ => false)
  | .movZero t => some (t, fun e => match e with | .zero _ _ _ => true | _ => false)
  | .movSetx t => some (t, fun e => match e with | .setx _ _ => true | _ => false)
  | .movAddx t => some (t, fun e => match e with | .addx _ _ => true | _ => false)
  | .vecAdd t => some (t, isVec 0)
  | .vecMul t => some (t, isVec 1)
  | .vecScale t => some (t, isVec 2)
  | .vecSumsq t => some (t, isVec 3)
  | .vecMax t => some (t, isVec 4)
  | .vecSum t => some (t, isVec 5)
  | .vecExpsub t => some (t, isVec 6)
  | .vecDiv t => some (t, isVec 7)
  | .vecRsq t => some (t, isVec 8)
  | .vecRope t => some (t, isVec 9)
  | .vecSiluGate t => some (t, isVec 10)
  | .vecGeluGate t => some (t, isVec 11)
  | .vecQuant t => some (t, isVec 12)
  | .vecDeq t => some (t, isVec 13)
  | .vecTopk t => some (t, isVec 14)
  | .milAttn t => some (t, fun e => match e with | .attn _ _ _ _ _ _ _ _ => true | _ => false)
  | .welScrub _ t => some (t, fun e => match e with | .scrub _ _ _ => true | _ => false)
  | .redAdd8 t => some (t, isRed 0)
  | .redAdd32 t => some (t, isRed 1)
  | .redMax32 t => some (t, isRed 2)
  | .sndSend t => some (t, fun e => match e with | .send _ _ _ _ _ _ _ _ => true | _ => false)
  | .sndRoute t => some (t, fun e => match e with | .route _ _ _ _ _ _ _ => true | _ => false)
  | .sndReturn t => some (t, fun e => match e with | .ret _ _ _ => true | _ => false)
  | .rcvPost t => some (t, fun e => match e with | .post _ _ _ _ => true | _ => false)
  | .rcvWait t => some (t, fun e => match e with | .wait _ => true | _ => false)
  | .rcvGather t => some (t, fun e => match e with | .gather _ _ _ _ _ _ => true | _ => false)
  | .pegTile t => some (t, isPeg 0)
  | .pegHalf t => some (t, isPeg 1)
  | .pegDie t => some (t, isPeg 2)
  | .pegPackage t => some (t, isPeg 3)
  | .pegJob t => some (t, isPeg 4)
  | .waitBeat t => some (t, fun e => match e with | .waitBeat _ => true | _ => false)
  | .waitCycles t => some (t, fun e => match e with | .waitCycles _ => true | _ => false)
  | .chkSample _ t => some (t, fun e => match e with | .sample => true | _ => false)
  | .chkRetain t => some (t, fun e => match e with | .retain _ _ => true | _ => false)
  | .chkDone t => some (t, fun e => match e with | .done => true | _ => false)
  | _ => none

/-- The next word of a tile, where it may issue: it is fetched and nothing holds it (R112, R114). -/
def Chip.mayIssue (c : Chip) (t : Nat) (e : EInstr) : Bool :=
  decide (c.fetch t = some e) && !(c.tile t).blocked (c.claim t (c.tile t) e)

/-- A tile's program counter. -/
def Chip.pc (c : Chip) (t : Nat) : Nat := c.rd R.TILE_STATE_PC (tileOff t)

/-- The part with a tile's next word issued: its PC advanced, and the word entered in the queue of its unit (R114). -/
def Chip.advanced (c : Chip) (t : Nat) (e : EInstr) : Chip :=
  let k := c.claim t (c.tile t) e
  let x := c.tile t
  let d := c.wr R.TILE_STATE_PC (tileOff t) (c.pc t + 1)
  match k.unit with
  | none => d
  | some u => d.onTile t fun y => { y with issued := y.issued ++
      [{ unit := u, index := c.pc t, reads := k.reads.map x.rangeOf, writes := k.writes.map x.rangeOf, replica := false }] }

/-- Byte address of a line of slot 0 of a tile. -/
def Chip.lineAddr (c : Chip) (t line : Nat) : Nat := 32 * (c.rd R.SPAD_SLOT_BASE_BASE (slotOff t 0) + line)

/-- One byte of a scratchpad. -/
def Chip.spadByte (c : Chip) (t a : Nat) : Byte := Tbl.get (0 : Byte) (c.tile t).mem a

/-- A message of a TYPE is heard: its front port is up, and its tag verifies under the key of its class (R278, R282). -/
def Chip.hears (c : Chip) (i : TnpIn) (typ : Nat) : Bool :=
  c.flag R.FRONT_STATUS_LINK_UP (frontOff i.src.front) && c.tagPasses typ i.tenant i.tagOk

/-- A message is heard from its stream's peer, next in the stream's order, with none held beyond it (R284, R287). -/
def Chip.inTurn (c : Chip) (i : TnpIn) (typ : Nat) : Bool :=
  c.hears i typ && match c.stream i.session with
    | none => false
    | some (p, x) => decide (p = i.src) && decide (i.seq = x.rxNext) && x.held.isEmpty

/-- A message of a gateway's session is in turn. -/
def Chip.gatewayTurn (c : Chip) (i : TnpIn) (typ : Nat) : Bool := decide (i.session < 4096) && c.inTurn i typ

/-- A control message is in turn, and the part does not zeroise (R443). -/
def Chip.controlTurn (c : Chip) (i : TnpIn) (typ : Nat) : Bool :=
  decide (i.session = ctrlSession) && !c.flag R.SEC_ZEROISE_ACTIVE && c.inTurn i typ

/-- A message with this body, for this request, is the last one sent in a stream, and is not yet acknowledged. -/
def Chip.said (c : Chip) (s request : Nat) (b : TnpBody) : Prop :=
  ∃ p x m, c.stream s = some (p, x) ∧ x.unacked.getLast? = some (m, 0) ∧ m.request = request ∧ m.body = b

/-- What a front port sends goes out, and takes no packet number: its link is up, no SAK is in use, no zeroisation runs (R279). -/
def Chip.plainPort (c : Chip) (f : Nat) : Bool :=
  c.frontSends f && !c.flag R.FRONT_STATUS_SAK (frontOff f) && !c.flag R.SEC_ZEROISE_ACTIVE

/-- A step that stops for a reason: none does. -/
def Stops (s : State) : Prop := (∃ f, step s = .fault f) ∨ ∃ r, step s = .refused r

end Sys2Proof.Machine
end

