-- ==== Sys2Proof/Certificates/Slice0/Obligations.lean ====
section
/-! DEFINITION. The statements: what every command does where it completes, and the rules of the whole machine. -/
open Sys2Proof Sys2Proof.Machine

/-! ## The machine as a whole -/

/-- A step with a command in front of the queue is that command on the rest of the queue; the command's outcome is a next
state with that rest of the queue, so that no command stops the machine and none adds to the queue. -/
def Obligations.StepRunsTheFrontCommand : Prop :=
  ∀ (s : State) (i : Instr) (rest : List Instr), s.pending = i :: rest →
    step s = exec i { s with pending := rest } ∧ ∃ c, step s = .next ⟨c, rest⟩

/-- MODEL'S CHOICE (log entry 2).  With no command waiting, a part that runs and whose timebase counts passes one
reference cycle of 64 to the beat (R160), and nothing else of it changes but ALERT_N; a part whose timebase does not count
keeps all. -/
def Obligations.EmptyQueuePassesOneReferenceCycle : Prop :=
  ∀ (s : State), s.pending = [] → ∃ d, step s = .next ⟨d, []⟩ ∧
    d.quiet = (if s.chip.runs && s.chip.counts then
        if s.chip.refcyc = 63 then { s.chip with refcyc := 0 }.wr R.TIMEBASE_BEAT_BEAT 0 (s.chip.beat + 1)
        else { s.chip with refcyc := s.chip.refcyc + 1 }
      else s.chip).quiet

/-- After every step ALERT_N is low exactly where an enabled alert cause stands (R515): of a state of which that holds, each
step makes one of which it holds. -/
def Obligations.AlertPinFollowsEnabledCauses : Prop :=
  ∀ (s t : State), s.chip.mgmt.alertLow = decide (s.chip.alerting ≠ 0) → step s = .next t →
    t.chip.mgmt.alertLow = decide (t.chip.alerting ≠ 0)

/-- At reset ALERT_N is high and no enabled alert cause stands; the queue is empty, every register reads its reset value, and
the scratchpads and context stores are in canonical form and list nothing. -/
def Obligations.ResetHoldsItsInvariants : Prop :=
  State.reset.chip.mgmt.alertLow = decide (State.reset.chip.alerting ≠ 0) ∧ State.reset.pending = [] ∧
  State.reset.chip.memoriesWf = true ∧ State.reset.chip.kv = [] ∧ State.reset.chip.tiles = [] ∧
  (∀ (f : Fld) (o : Nat), State.reset.chip.rd f o = f.reset) ∧ State.reset.chip.runs = true

/-- The commands that a part stopped by INTSCAN still takes: the resets, a loss of VAUX, and the test access port's. -/
def takenByScanned (i : Instr) : Bool :=
  match i with
  | .powerOnReset | .vauxLow _ | .vauxReturn | .testLogicReset | .extest _ _ | .idcode | .samplePreload _ _ | .clamp
  | .highz | .intscan | .intscanCapture | .bypass => true
  | _ => false

/-- The commands that a part without VAUX takes: its loss and return, and a power-on reset (which leaves it held). -/
def takenWithoutVaux (i : Instr) : Bool :=
  match i with
  | .powerOnReset | .vauxLow _ | .vauxReturn => true
  | _ => false

/-- INTSCAN stops the part's functional clocks until PORST_N (R553): a part that has been scanned keeps everything at every
other command; it has sent nothing.  Among the commands it refuses are WRST_N's, which R502 places after the start-up.
MODEL'S CHOICE (log entry 3) for commands that reach a part held in reset by VAUX (R470): nothing of the part changes, and
nothing is sent; and a power-on reset leaves it held. -/
def Obligations.StoppedPartKeepsEverything : Prop :=
  ∀ (s : State) (i : Instr),
    (s.chip.scanned = true → takenByScanned i = false → exec i s = .next { s with chip := { s.chip with sent := [] } }) ∧
    (s.chip.unpowered = true → takenWithoutVaux i = false → exec i s = .next { s with chip := { s.chip with sent := [] } }) ∧
    (s.chip.unpowered = true → Becomes .powerOnReset s s.chip)

/-! ## Start-up and resets -/

/-- Each start-up stage, once all it needs has ended, does its work and ends (R483, R497, R500): its bit in PKG_STAGE.DONE
sets.  With it: STRAPS latches the straps, counts a power cycle and reads the fuses (R428); SCAN sets SCAN_DONE on every die
(R462); LOCK locks the timebase and starts its cycle count (R160) and takes the test halt (R498); HBM leaves each stack UP or
FAILED (R251); CLEAR zeroes the scratchpads and the stores and starts the patrol scrub (R256, R275); ANNOUNCE sets READY. -/
def Obligations.StartupStagesEndWithTheirEffect : Prop :=
  ∀ (s : State), s.chip.runs = true →
    (∀ x, s.chip.stageRuns 1 = true → Completes (.straps x) s fun d =>
      d.stageDone 1 = true ∧ d.rd R.PKG_STRAPS_MASTER_SEL = b2n x.master ∧ d.rd R.PKG_STRAPS_FLASH_MODE = x.flash % 4 ∧
      d.rd R.PKG_STRAPS_BOOT_COPY = b2n x.bootCopy ∧ d.rd R.PKG_STRAPS_TEST_EN = b2n x.testEn ∧
      d.fuses = { s.chip.fuses with cycles := min (s.chip.fuses.cycles + 1) (2 ^ 32 - 1) } ∧ d.fuseShadow = d.fuses ∧
      d.rd R.SEC_CHALLENGE_CYCLES = d.fuses.cycles ∧ d.rd R.SEC_LC_STATE = lcOfFuse s.chip.fuses.lc) ∧
    (s.chip.stageRuns 2 = true → Completes .scan s fun d =>
      d.stageDone 2 = true ∧ ∀ x, x < 8 → d.flag R.EVR_STATUS_SCAN_DONE (dieOff x) = true) ∧
    (s.chip.stageRuns 4 = true → Completes .apply s fun d => d.stageDone 4 = true) ∧
    (s.chip.stageRuns 5 = true → Completes .lock s fun d =>
      d.stageDone 5 = true ∧ d.flag R.TIMEBASE_STATUS_LOCKED = true ∧ d.refcyc = 0 ∧
      (d.flag R.PKG_STAGE_TEST_HALT = (s.chip.flag R.PKG_STAGE_TEST_HALT || (s.chip.flag R.PKG_STRAPS_TEST_EN &&
        (decide (s.chip.lifecycle = lcManufacture) || decide (s.chip.lifecycle = lcDecommissioned)))))) ∧
    (∀ bad, s.chip.stageRuns 6 = true → Completes (.cal bad) s fun d =>
      d.stageDone 6 = true ∧ (s.chip.flag R.SEC_BOOT_VALID = false → d.taps = s.chip.taps)) ∧
    (∀ es, s.chip.stageRuns 7 = true → Completes (.d2d es) s fun d => d.stageDone 7 = true) ∧
    (∀ failed, s.chip.stageRuns 8 = true → Completes (.hbm failed) s fun d =>
      d.stageDone 8 = true ∧ ∀ x, x < 8 → d.rd R.CTX_STATUS_STACK (dieOff x) = if x ∈ failed then 3 else 2) ∧
    (s.chip.stageRuns 9 = true → Completes .clear s fun d =>
      d.stageDone 9 = true ∧ (∀ t, (d.tile t).mem = []) ∧ d.descs = [] ∧ d.frames = [] ∧ d.prefixes = [] ∧
      ∀ x, x < 8 → s.chip.stackFailed x = false → d.flag R.CTX_STATUS_SCRUB_ON (dieOff x) = true) ∧
    (s.chip.stageRuns 10 = true → Completes .optics s fun d => d.stageDone 10 = true) ∧
    (s.chip.stageRuns 11 = true → (∀ p, s.chip.boot.announce = some p → s.chip.flag R.FRONT_STATUS_LINK_UP (frontOff p.front) = true) →
      Completes .announce s fun d => d.stageDone 11 = true ∧ d.flag R.PKG_STAGE_READY = true ∧
        (∀ p, s.chip.boot.announce = some p → d.serving.orch = some p))

/-- RECORD, stage 3, once the flushes of a warm reset have ended (R486 to R489, R502): with no record to read (MANUFACTURE, or
FLASH_MODE 3) both results are 5; else the results are those of the checks on the copy that BOOT_COPY names and, where it
fails, on the other; a copy that passes gives the boot owner, the serial and the items of the later stages. -/
def Obligations.RecordStageReportsItsChecks : Prop :=
  ∀ (s : State) (flash : Bool) (a b : Option (List Nat)), s.chip.runs = true → s.chip.stageRuns 3 = true →
    (s.chip.boot.warm = true → ∀ x, x < 8 → s.chip.flag R.EVR_STATUS_FLUSHING (dieOff x) = false) →
    let there := flash && decide (s.chip.rd R.PKG_STRAPS_FLASH_MODE ≠ 3) && !s.chip.intrusive
    let read := fun n => if there then (if n = 0 then a else b) else none
    let first := s.chip.rd R.PKG_STRAPS_BOOT_COPY
    let k1 := s.chip.checkCopy (read first)
    let k2 := s.chip.checkCopy (read (1 - first))
    Completes (.record flash a b) s fun d => d.stageDone 3 = true ∧ d.flag R.PKG_BOOT_VALID = true ∧
      if s.chip.lifecycle = lcManufacture ∨ s.chip.rd R.PKG_STRAPS_FLASH_MODE = 3 then
        d.rd R.PKG_BOOT_FIRST = 5 ∧ d.rd R.PKG_BOOT_FINAL = 5
      else d.rd R.PKG_BOOT_FIRST = k1.code ∧ d.rd R.PKG_BOOT_FINAL = (if k1.code = 0 then 0 else k2.code) ∧
        (k1.code = 0 → d.rd R.PKG_BOOT_COPY = first % 2 ∧ d.flag R.SEC_BOOT_VALID = true ∧ d.rd R.SEC_BOOT_OWNER = k1.owner % 2 ∧
          d.boot.writes = k1.items.flatMap SetupItem.writes) ∧
        (k1.code ≠ 0 → k2.code = 0 → d.rd R.PKG_BOOT_COPY = 1 - first ∧ d.flag R.SEC_BOOT_VALID = true ∧
          d.rd R.SEC_BOOT_OWNER = k2.owner % 2 ∧ d.boot.writes = k2.items.flatMap SetupItem.writes)

/-- A power-on reset and a loss of VAUX leave every register at its reset value and everything else as at power-on, but for
what the part holds without power: the fuses, the cells, the wear records, the logbook, the calibration copies and the stored
operating seconds (R428, R470, R502); region sizes written for the next reset outlast PORST_N (R257, DEDUCED, log entry 4).  A
loss of VAUX holds the part; its return releases it with stage 1 to run. -/
def Obligations.PowerResetsKeepOnlyWhatNeedsNoPower : Prop :=
  ∀ (s : State),
    (s.chip.inReset ≠ 1 → Completes .powerOnReset s fun d =>
      d.quiet = { Chip.reset with
        fresh := s.chip.fresh, fuses := s.chip.fuses, cells := s.chip.cells, wear := s.chip.wear,
        logbook := s.chip.logbook, calCopies := s.chip.calCopies, opsecRing := s.chip.opsecRing,
        regionNext := s.chip.regionNext }.quiet) ∧
    (∀ cut, Completes (.vauxLow cut) s fun d =>
      d.quiet = { Chip.reset with
        fresh := d.fresh, fuses := s.chip.fuses, cells := s.chip.cells, wear := s.chip.wear,
        logbook := d.logbook, calCopies := s.chip.calCopies, opsecRing := s.chip.opsecRing,
        inReset := 1 }.quiet ∧
      (cut = [] → d.logbook = s.chip.logbook)) ∧
    (s.chip.inReset = 1 → Becomes .vauxReturn s { s.chip with inReset := 0 })

/-- WRST_N (R502): its assertion stops the part and starts a flush on every die; what R502 keeps is kept, the scratchpads, the
stores, the serving state and every other register go; the lifecycle is again that of the fuses.  Its deassertion latches the
straps, releases the part, and stage 1 has ended. -/
def Obligations.WarmResetStopsAndFlushes : Prop :=
  ∀ (s : State), s.chip.takes .warm = true →
    (Completes .warmReset s fun d => d.inReset = 2 ∧ d.tiles = [] ∧ d.kv = [] ∧ d.descs = [] ∧ d.serving = Chip.reset.serving ∧
      d.seq = Chip.reset.seq ∧ d.fuses = s.chip.fuses ∧ d.fuseShadow = s.chip.fuseShadow ∧ d.cells = s.chip.cells ∧
      d.logbook = s.chip.logbook ∧ d.wear = s.chip.wear ∧ d.mon = s.chip.mon ∧
      (∀ x, x < 8 → d.flag R.EVR_STATUS_FLUSHING (dieOff x) = true ∧
        d.rd R.EVR_SEQ_NEXT (dieOff x) = s.chip.rd R.EVR_SEQ_NEXT (dieOff x)) ∧
      d.rd R.SEC_LC_STATE = lcOfFuse s.chip.fuseShadow.lc ∧ d.rd R.SEC_UID_UID = s.chip.rd R.SEC_UID_UID ∧
      d.rd R.PKG_STAGE_DONE = 0 ∧ d.rd R.SEQ_STATE_STATE = 0) ∧
    (∀ x, s.chip.inReset = 2 → Completes (.warmStart x) s fun d => d.inReset = 0 ∧ d.boot.warm = true ∧
      d.stageDone 1 = true ∧ d.rd R.PKG_STRAPS_MASTER_SEL = b2n x.master ∧ d.rd R.PKG_STRAPS_FLASH_MODE = x.flash % 4 ∧
      d.rd R.PKG_STRAPS_BOOT_COPY = b2n x.bootCopy ∧ d.rd R.PKG_STRAPS_TEST_EN = b2n x.testEn)

/-- PFAIL_N (R460, R480): its assertion shows PFAIL, counts it, and puts every die's recorder into PFAIL_MODE with a flush
running; its deassertion clears PFAIL, and PFAIL_MODE where the die's flush has ended.  Every register outside the named ones
and the recorder's is kept. -/
def Obligations.PowerFailWarningSetsAndClears : Prop :=
  ∀ (s : State), s.chip.takes .kept = true →
    (Completes .pfailAssert s fun d => d.flag R.PWR_STATUS_PFAIL = true ∧ d.flag R.PWR_PFAIL_ASSERTED = true ∧
      d.rd R.PWR_PFAIL_COUNT = min (s.chip.rd R.PWR_PFAIL_COUNT + 1) 65535 ∧
      (∀ x, x < 8 → d.flag R.EVR_STATUS_PFAIL_MODE (dieOff x) = true) ∧ s.chip.onlyRegs d) ∧
    (Completes .pfailDeassert s fun d => d.flag R.PWR_STATUS_PFAIL = false ∧
      (∀ x, x < 8 → s.chip.flag R.EVR_STATUS_FLUSHING (dieOff x) = false →
        d.flag R.EVR_STATUS_PFAIL_MODE (dieOff x) = false) ∧ s.chip.onlyRegs d)

/-! ## Rails, clocks and temperature -/

/-- A rail comparator that fires marks its rail and raises the error of R470: VCORE of a half, unless its set point is
pending, counts SUPPLY_COUNT, sets SUPPLY_FAIL, marks the die lost on every die (R218) and posts FAULT 0x22 of that half;
VARR, VPROG and VSRAM mark the die's rail and post it for both halves; VDDA_MON sets REF_FALLBACK on every die whose
reference is VDDA_MON; VHBM and VOPT, with no job on the package, fail the stack, and take down both front links.  What is
posted is appended to the tack messages in order. -/
def Obligations.RailComparatorsMarkAndRaise : Prop :=
  ∀ (s : State) (d e : Nat), s.chip.runs = true → s.chip.calm = true → d < 8 → e < 2 →
    let c := s.chip
    let f := fun unit => TackMsg.fault d 2 unit (c.rd R.FAULT_STATUS_REPLAY) 0x22
    (c.flag R.PWR_H_STATE_VSET_PENDING (halfWin (2 * d + e)) = false → Completes (.railComparatorFire .vcore d e) s fun t =>
      t.flag R.PWR_H_STATE_SUPPLY_FAIL (halfWin (2 * d + e)) = true ∧
      t.rd R.PWR_H_SUPPLY_COUNT (halfWin (2 * d + e)) = min (c.rd R.PWR_H_SUPPLY_COUNT (halfWin (2 * d + e)) + 1) (2 ^ 32 - 1) ∧
      (∀ x, x < 8 → bit (t.rd R.MESH_STATUS_LOST_DIES (dieOff x)) d = true) ∧
      t.tack = c.tack ++ [f e] ∧ c.onlyRegs { t with tack := c.tack }) ∧
    (c.flag R.PWR_H_STATE_VSET_PENDING (halfWin (2 * d + e)) = true → Becomes (.railComparatorFire .vcore d e) s c) ∧
    (∀ q, q ∈ [(Rail.varr, R.PWR_D_RAILS_VARR), (.vprog, R.PWR_D_RAILS_VPROG), (.vsram, R.PWR_D_RAILS_VSRAM)] →
      Completes (.railComparatorFire q.1 d e) s fun t => t.flag q.2 (dieWin d) = true ∧
        (∀ x, x < 8 → bit (t.rd R.MESH_STATUS_LOST_DIES (dieOff x)) d = true) ∧
        t.tack = c.tack ++ [f 0, f 1] ∧ c.onlyRegs { t with tack := c.tack }) ∧
    (Completes (.railComparatorFire .vddaMon d e) s fun t => t.flag R.PWR_D_RAILS_VDDA_MON (dieWin c.master) = true ∧
      (∀ x, x < 8 → c.rd R.MON_CTRL_REF_SEL (dieOff x) = 2 → t.flag R.MON_STATUS_REF_FALLBACK (dieOff x) = true) ∧
      c.onlyRegs t) ∧
    (c.jobRuns = false →
      (Completes (.railComparatorFire .vhbm d e) s fun t => t.flag R.PWR_D_RAILS_VHBM (dieWin d) = true ∧
        t.rd R.CTX_STATUS_STACK (dieOff d) = 3 ∧ c.onlyRegs t) ∧
      (Completes (.railComparatorFire .vopt d e) s fun t => t.flag R.PWR_D_RAILS_VOPT (dieWin c.master) = true ∧
        t.flag R.FRONT_STATUS_LINK_UP (frontOff 0) = false ∧ t.flag R.FRONT_STATUS_LINK_UP (frontOff 1) = false))

/-- A rail that has been quiet again clears SUPPLY_FAIL (R470); the rail's time T after a new set point clears VSET_PENDING
(R469); at the first beat edge after it a half takes the step's gear (R471); a stack that fails is FAILED and its patrol scrub
off (R276).  With no job on the package a stack's failure changes nothing else. -/
def Obligations.SupplyAndClockEventsShow : Prop :=
  ∀ (s : State) (h d : Nat), s.chip.runs = true →
    Becomes (.vsetSettled h) s (s.chip.wr R.PWR_H_STATE_VSET_PENDING (halfWin h) 0) ∧
    (s.chip.flag R.PWR_H_STATE_VSET_PENDING (halfWin h) = false → Becomes (.gearClockSwitch h) s
      (s.chip.wr R.TIMEBASE_HALF_CLK_GEAR (4 * h) (s.chip.rd R.SEQ_STATE_GEAR))) ∧
    (s.chip.flag R.PWR_H_STATE_VSET_PENDING (halfWin h) = true → Becomes (.gearClockSwitch h) s s.chip) ∧
    (s.chip.calm = true → Completes (.supplyQuiet h) s fun t => t.flag R.PWR_H_STATE_SUPPLY_FAIL (halfWin h) = false ∧
      s.chip.onlyRegs { t with testing := s.chip.testing, readmits := s.chip.readmits }) ∧
    (s.chip.calm = true → s.chip.jobRuns = false → Becomes (.stackFailure d) s
      ((s.chip.wr R.CTX_STATUS_STACK (dieOff d) 3).wr R.CTX_STATUS_SCRUB_ON (dieOff d) 0))

/-- A 115 °C comparator trips each half that its diode speaks for (R478): TRIPPED and THERMTRIP set, and where a half trips it
is counted, its set point goes to the lowest code 20 and FAULT 0x21 is posted; a half that is tripped already is left as it
is.  Registers, event records, and the posted messages alone change. -/
def Obligations.ThermalTripStopsTheHalves : Prop :=
  ∀ (s : State) (d x : Nat), s.chip.runs = true → s.chip.calm = true → d < 8 → x < 6 →
    let c := s.chip
    let new := (diodeHalves d x).filter fun h => !c.tripped h
    Completes (.thermalTrip d x) s fun t =>
      (∀ h, h ∈ diodeHalves d x → t.tripped h = true) ∧
      (∀ h, h ∈ new → t.rd R.PWR_H_VOLT_SET (halfWin h) = 20) ∧
      (new ≠ [] → t.flag R.PWR_STATUS_THERMTRIP = true ∧ t.rd R.PWR_TRIPS_COUNT = min (c.rd R.PWR_TRIPS_COUNT + new.length) (2 ^ 32 - 1)) ∧
      t.tack = c.tack ++ new.map (fun h => .fault d 2 (h % 2) (c.rd R.FAULT_STATUS_REPLAY) 0x21) ∧
      c.onlyRegs { t with tack := c.tack }

/-- After 1 ms of cool diodes (R473, R477, R478): a half's thermal level falls by one, its ALERT clears and PWR_STATUS.ALERT
shows whether another half's stands, a tripped half is released to its gear's set point; with a diode not cool none of the
three changes anything.  MODEL'S CHOICE (log entry 5): the 1 ms is judged by each diode's latest conversion. -/
def Obligations.CoolHalvesRecover : Prop :=
  ∀ (s : State) (h : Nat), s.chip.runs = true → h < 16 →
    let c := s.chip
    let l := c.rd R.PWR_H_STATE_T_LEVEL (halfWin h)
    let cool := c.coolBelow h (c.rd R.PWR_THERM_ALERT_C - c.rd R.PWR_THERM_HYST_C) (alertDiodes h)
    (0 < l → c.coolBelow h (c.rd R.PWR_THERM_THROTTLE_C - c.rd R.PWR_THERM_HYST_C) (levelDiodes h) = true →
      Becomes (.thermalLevelFall h) s (c.wr R.PWR_H_STATE_T_LEVEL (halfWin h) (l - 1))) ∧
    (c.coolBelow h (c.rd R.PWR_THERM_THROTTLE_C - c.rd R.PWR_THERM_HYST_C) (levelDiodes h) = false →
      Becomes (.thermalLevelFall h) s c) ∧
    (cool = true → Completes (.alertClear h) s fun t => t.flag R.PWR_H_STATE_ALERT (halfWin h) = false ∧
      (t.flag R.PWR_STATUS_ALERT = (upFrom 0 16).any fun x => decide (x ≠ h) && c.flag R.PWR_H_STATE_ALERT (halfWin x)) ∧
      c.keepsRegs t [regKey R.PWR_H_STATE_ALERT (halfWin h), regKey R.PWR_STATUS_ALERT 0] ∧ c.onlyRegs t) ∧
    (cool = false → Becomes (.alertClear h) s c) ∧
    (s.chip.calm = true → c.tripped h = true → cool = true → Completes (.tripRelease h) s fun t => t.tripped h = false ∧
      (t.flag R.PWR_STATUS_THERMTRIP = (upFrom 0 16).any fun x => decide (x ≠ h) && c.tripped x) ∧
      t.rd R.PWR_H_VOLT_SET (halfWin h) = max 20 (min 70 (c.gearCode h (c.rd R.SEQ_STATE_GEAR))) ∧
      c.onlyRegs { t with testing := c.testing, readmits := c.readmits }) ∧
    (s.chip.calm = true → cool = false → Becomes (.tripRelease h) s c)

/-- A stack's temperature is shown in CTX_STACK_TEMP, 255 at most (R479); below 95 °C it does no more than forget the stack's
last hot reading.  At 95 °C or more both halves' levels rise where 64 conversions have passed since they last rose, and at 105 °C or more the
stack is out of service. -/
def Obligations.StackTemperatureShows : Prop :=
  ∀ (s : State) (d temp : Nat), s.chip.runs = true → s.chip.calm = true → d < 8 →
    (temp < 95 → Becomes (.stackTempReadout d temp) s
      { s.chip.wr R.CTX_STACK_TEMP_TEMP (dieOff d) temp with rawTemp := Tbl.erase (d * 8 + 6) s.chip.rawTemp }) ∧
    (95 ≤ temp → temp < 105 → Completes (.stackTempReadout d temp) s fun t =>
      t.rd R.CTX_STACK_TEMP_TEMP (dieOff d) = temp ∧
      ∀ h, h = 2 * d ∨ h = 2 * d + 1 → (∀ last, Tbl.find? s.chip.rose h = some last → last + 64 ≤ Tbl.get 0 s.chip.convs d) →
        t.rd R.PWR_H_STATE_T_LEVEL (halfWin h) = min 8 (s.chip.rd R.PWR_H_STATE_T_LEVEL (halfWin h) + 1)) ∧
    (105 ≤ temp → s.chip.jobRuns = false → Completes (.stackTempReadout d temp) s fun t =>
      t.rd R.CTX_STACK_TEMP_TEMP (dieOff d) = min 255 temp ∧ t.rd R.CTX_STATUS_STACK (dieOff d) = 3 ∧ t.flag R.CTX_STATUS_SCRUB_ON (dieOff d) = false)

/-- Every 1 ms the package power of R474 is compared with the cap: above it, CAP_ACTIVE sets, the ms is counted and P_LEVEL
rises by one, to 8 at most; else CAP_ACTIVE clears and the level stays.  The power and its PROG term are shown in whole
watts.  Ten evaluations in a row below the cap less its hysteresis release one level, and the count begins again. -/
def Obligations.PowerLevelFollowsTheCap : Prop :=
  ∀ (s : State), s.chip.runs = true →
    let c := s.chip
    let p := c.packagePower
    let overN := decide (c.rd R.PWR_CAP_CAP_W * watt < p)
    (Completes .powerEvaluation s fun t => t.power = p ∧ t.rd R.PWR_POWER_P_W = min 65535 (p / watt) ∧
      t.rd R.PWR_POWER_PROG_W = min 65535 (c.progPower / 1000) ∧ t.flag R.PWR_STATUS_CAP_ACTIVE = overN ∧
      t.powerBelow = (if p + c.rd R.PWR_CAP_HYST_W * watt < c.rd R.PWR_CAP_CAP_W * watt then c.powerBelow + 1 else 0) ∧
      t.rd R.PWR_STATUS_P_LEVEL = (if overN then min 8 (c.rd R.PWR_STATUS_P_LEVEL + 1) else c.rd R.PWR_STATUS_P_LEVEL) ∧
      t.rd R.PWR_CAP_MS_COUNT = (if overN then min (c.rd R.PWR_CAP_MS_COUNT + 1) (2 ^ 32 - 1) else c.rd R.PWR_CAP_MS_COUNT) ∧
      c.onlyRegs { t with power := c.power, powerBelow := c.powerBelow }) ∧
    (10 ≤ c.powerBelow → Becomes .powerLevelRelease s
      ({ c with powerBelow := 0 }.wr R.PWR_STATUS_P_LEVEL 0 (c.rd R.PWR_STATUS_P_LEVEL - 1))) ∧
    (c.powerBelow < 10 → Becomes .powerLevelRelease s c)

/-! ## The timebase -/

/-- The timebase (R160 to R164): a loss of RREF leaves LOCKED for HOLDOVER and sets RREF_LOST; its return locks again; the end of
the holdover sends a job that steps to HOLD with cause 4 and else changes no register; the first sync edge aligns the counter
to it; a later one within the tolerance counts as good, ends SYNC_LOST and the misses, and puts a pending epoch into force;
one outside it counts as an error and moves nothing while a job runs; a miss is counted, and the fourth in a row sets
SYNC_LOST; a set-epoch write is pending where no job runs, and else refused and counted. -/
def Obligations.TimebaseEvents : Prop :=
  ∀ (s : State), s.chip.runs = true →
    let c := s.chip
    let pos := c.beat % 65536 * 64 + c.refcyc
    let near := decide (min pos (syncPeriod - pos) ≤ c.rd R.TIMEBASE_CFG_SYNC_TOL)
    let align := fun (x : Chip) => { x with refcyc := 0 }.wr R.TIMEBASE_BEAT_BEAT 0 (c.beat / 65536 * 65536)
    (c.flag R.TIMEBASE_STATUS_LOCKED = true → Completes .rrefLost s fun t => t.flag R.TIMEBASE_STATUS_LOCKED = false ∧
      t.flag R.TIMEBASE_STATUS_RREF_LOST = true ∧ t.flag R.TIMEBASE_STATUS_HOLDOVER = true ∧ t.beat = c.beat ∧ c.onlyRegs t) ∧
    (c.flag R.TIMEBASE_STATUS_HOLDOVER = true → Becomes .rrefReturn s
      ((c.wr R.TIMEBASE_STATUS_HOLDOVER 0 0).wr R.TIMEBASE_STATUS_LOCKED 0 1)) ∧
    (c.flag R.TIMEBASE_STATUS_HOLDOVER = true → c.calm = true → Completes .holdoverEnd s fun t =>
      t.holdCause = (if c.stepping && decide (c.holdCause = 0) then 4 else c.holdCause) ∧
      c.onlyRegs { t with holdCause := c.holdCause }) ∧
    (c.flag R.TIMEBASE_STATUS_LOCKED = true → c.flag R.TIMEBASE_STATUS_SYNC_SEEN = false → Becomes .syncEdge s
      ((align c).wr R.TIMEBASE_STATUS_SYNC_SEEN 0 1)) ∧
    (c.flag R.TIMEBASE_STATUS_LOCKED = true → c.flag R.TIMEBASE_STATUS_SYNC_SEEN = true → near = true →
      Completes .syncEdge s fun t => t.flag R.TIMEBASE_STATUS_SYNC_LOST = false ∧ t.seq = { c.seq with misses := 0 } ∧
        t.rd R.TIMEBASE_SYNC_GOOD_COUNT = (c.rd R.TIMEBASE_SYNC_GOOD_COUNT + 1) % 2 ^ 32 ∧
        (c.flag R.TIMEBASE_STATUS_EPOCH_PENDING = true → t.beat = c.rd R.TIMEBASE_EPOCH_EPOCH_HI * 65536 % 2 ^ 48 ∧
          t.flag R.TIMEBASE_STATUS_EPOCH_VALID = true ∧ t.flag R.TIMEBASE_STATUS_EPOCH_PENDING = false) ∧
        (c.flag R.TIMEBASE_STATUS_EPOCH_PENDING = false → t.beat = c.beat ∧ t.refcyc = c.refcyc)) ∧
    (c.flag R.TIMEBASE_STATUS_LOCKED = true → c.flag R.TIMEBASE_STATUS_SYNC_SEEN = true → near = false →
      Becomes .syncEdge s (if c.jobRuns then c.bump R.TIMEBASE_SYNC_ERR_COUNT 0 1
        else align (c.bump R.TIMEBASE_SYNC_ERR_COUNT 0 1))) ∧
    (Completes .syncMiss s fun t => t.rd R.TIMEBASE_SYNC_MISS_COUNT = min (c.rd R.TIMEBASE_SYNC_MISS_COUNT + 1) (2 ^ 32 - 1) ∧
      t.seq = { c.seq with misses := c.seq.misses + 1 } ∧
      (4 ≤ c.seq.misses + 1 → t.flag R.TIMEBASE_STATUS_SYNC_LOST = true) ∧
      (c.seq.misses + 1 < 4 → t.rd R.TIMEBASE_STATUS_SYNC_LOST = c.rd R.TIMEBASE_STATUS_SYNC_LOST) ∧
      c.onlyRegs { t with seq := c.seq }) ∧
    (∀ hi, Becomes (.epochWrite hi) s (if c.jobRuns then c.bump R.TIMEBASE_EPOCH_REJECT_COUNT 0 1
      else (c.wr R.TIMEBASE_EPOCH_EPOCH_HI 0 hi).wr R.TIMEBASE_STATUS_EPOCH_PENDING 0 1))

/-- A timing sample goes out on the lane group of a job port whose group is UP and OWN, with the beat, the cycle and the
sender's θ (R166); a sample received for this package shows the mean of the port's last 16 offsets in TIMEBASE_LINK_OFFSET
(R168), and with the parent's θ gives θ. -/
def Obligations.TimingSamplesGiveOffsets : Prop :=
  ∀ (s : State), s.chip.runs = true → s.chip.calm = true →
    let c := s.chip
    (∀ port g, c.portPath port = some g → c.grpState (port * 4 + g.group) = grpUp → c.grpOwner (port * 4 + g.group) = ownerOwn →
      Becomes (.timeSampleSend port) s (c.queued (port * 4 + g.group)
        ⟨g.peer, c.rd R.SEQ_JOB_JOB, 0, .time c.beat c.refcyc c.thetaValid c.theta⟩)) ∧
    (∀ (h : Hdr) beat refcyc valid theta, h.port < 6 → h.group < 4 → c.takesFlit h (.time beat refcyc valid theta) = true →
      let off := divRneInt ((((c.beat * 64 + c.refcyc : Nat) : Int) - ((beat * 64 + refcyc : Nat) : Int)) * 100
        - c.rd R.TORUS_GRP_LAT_LAT (lgOff (h.port * 4 + h.group))) 100
      let all := Tbl.get [] c.seq.offsets h.port ++ [off]
      let l := all.drop (all.length - 16)
      Completes (.time h beat refcyc valid theta) s fun t => Tbl.get [] t.seq.offsets h.port = l ∧
        t.flag R.TIMEBASE_LINK_OFFSET_VALID (4 * h.port) = true ∧
        t.rd R.TIMEBASE_LINK_OFFSET_OFFSET (4 * h.port) = trunc 24 (meanOffset l) ∧
        (c.parentHop.map Prod.fst = some h.port → valid = true → t.flag R.TIMEBASE_THETA_VALID = true ∧
          t.rd R.TIMEBASE_THETA_THETA = trunc 24 (theta + meanOffset l)))

/-! ## Tasks and steps -/

/-- The step's events before its start: the sequencer posts it (R210); the head, with no request, closes the batch of the next
step, which carries the orders placed so far and goes to every package (R296, R299); a delivery of this package's own, or of
one good flit, is held for the next step (R299, R300, R333).  A finished tag wrap clears the tile's tags (R146). -/
def Obligations.StepPreparationEvents : Prop :=
  ∀ (s : State), s.chip.runs = true → s.chip.calm = true →
    let c := s.chip
    let step := (c.rd R.SEQ_STEP_STEP + 1) % 2 ^ 32
    (c.stepping = true → c.seq.next.isSome = true → c.holdCause = 0 →
      Becomes .stepStartPost s { c with seq := { c.seq with posted := true } }) ∧
    (c.admits = true → c.serving.closed ≠ some step → c.serving.requests = [] → c.serving.tenantNext = [] →
      Completes .admissionClose s fun t => t.serving.closed = some step ∧ t.serving.orders = [] ∧
        ∃ gen, t.serving.batchIn = some ⟨step, gen, [], c.serving.orders⟩) ∧
    (∀ b, Becomes (.batchBroadcast [] b) s { c with serving := { c.serving with batchIn := some b } }) ∧
    (∀ k rs, Becomes (.parameterDelivery [] k rs) s { c with serving := { c.serving with paramsIn := some (k, rs) } }) ∧
    (∀ k rs, Becomes (.resultDelivery [] k rs) s { c with serving := { c.serving with resultsIn := some (k, rs) } }) ∧
    (∀ h b, c.takesFlit h (.pkg (.batch b)) = true → Becomes (.batchBroadcast [h] b) s
      { c.received h with serving := { c.serving with batchIn := some b } }) ∧
    (∀ h k rs, c.takesFlit h (.pkg (.params k rs)) = true → Becomes (.parameterDelivery [h] k rs) s
      { c.received h with serving := { c.serving with paramsIn := some (k, rs) } }) ∧
    (∀ h k rs, c.takesFlit h (.pkg (.results k rs)) = true → Becomes (.resultDelivery [h] k rs) s
      { c.received h with serving := { c.serving with resultsIn := some (k, rs) } }) ∧
    (∀ t, c.flag R.SPAD_STATUS_TAGWRAP (tileOff t) = true → (c.tile t).wrapWait = [] → Becomes (.tagwrapDone t) s
      (((c.onTile t fun x => { x with tags := [], tagSplit := [] }).wr R.SPAD_STATUS_TAGWRAP (tileOff t) 0).wr
        R.SPAD_GEN_COUNTER_GEN (tileOff t) 0))

/-- STEP_START with nothing delivered, no request, no truing in hand and no tile shelved: the step counts on from the last
one, or is 0 where it is the job's first (R172); its start beat is shown; every tile's engine begins at word 0 of the bank of
the step's gear, in RUN, with the step (R112, R136, R178). -/
def Obligations.StepStartBeginsEveryEngine : Prop :=
  ∀ (s : State) (n : Nat), s.chip.runs = true → s.chip.calm = true → s.chip.stepping = true → s.chip.seq.posted = true →
    s.chip.holdCause = 0 → s.chip.seq.next = some n → s.chip.seq.skip = false → s.chip.truings = [] →
    s.chip.serving.requests = [] → s.chip.serving.batchIn = none → s.chip.serving.resultsIn = none →
    s.chip.serving.paramsIn = none → (∀ t, t < 384 → s.chip.tileState t ≠ tileShelved) →
    let c := s.chip
    let step := if c.flag R.SEQ_LAST_VALID then (c.rd R.SEQ_STEP_STEP + 1) % 2 ^ 32 else 0
    Completes .stepStart s fun d => d.rd R.SEQ_STEP_STEP = step ∧ d.rd R.SEQ_START_BEAT = n % 2 ^ 48 ∧ d.seq.next = none ∧
      d.seq.posted = false ∧ ∀ t, t < 384 → d.tileState t = tileRun ∧ d.rd R.TILE_STATE_PC (tileOff t) = 0 ∧
        d.rd R.TILE_STATE_BANK (tileOff t) = d.rd R.SEQ_STATE_GEAR % 4 ∧ d.rd R.TILE_STEP_STEP (tileOff t) = step ∧
        (d.tile t).issued = [] ∧ (d.tile t).hold = .none

/-- What goes wrong at a step: a delivery that is missing one beat before the start makes the package let the step pass, and
late results are counted (R300, R334); a READY board whose truing is overdue is SHELVED, counted and marked (R384); with the
commit peg incomplete by its time the head, whose own share has arrived, probes the other packages (R173, R418). -/
def Obligations.LateStepEvents : Prop :=
  ∀ (s : State), s.chip.runs = true → s.chip.calm = true → s.chip.stepping = true →
    let c := s.chip
    let step := (c.rd R.SEQ_STEP_STEP + 1) % 2 ^ 32
    (c.seq.next.isSome = true → c.lacksBatch step || c.lacksResults step || c.lacksParams step = true →
      Completes .batchLate s fun t => t.seq.skip = true ∧
        t.rd R.SAMPLER_RESULT_LATE_COUNT = (if c.lacksResults step then min (c.rd R.SAMPLER_RESULT_LATE_COUNT + 1) (2 ^ 32 - 1)
          else c.rd R.SAMPLER_RESULT_LATE_COUNT)) ∧
    (∀ b, b < 49152 → c.arrState b = arrReady →
      c.rd R.ARRAY_CAL_BEAT_BEAT (boardOff b) + truingInterval ≤ c.rd R.TIMEBASE_BEAT_BEAT →
      Completes (.truingOverdue b) s fun t => t.arrState b = arrShelved ∧
        t.flag R.TRUE_BOARD_STATE_OVERDUE (boardOff b) = true ∧
        t.rd R.TRUE_OVERDUE_COUNT (dieOff (b / 6144)) = min (c.rd R.TRUE_OVERDUE_COUNT (dieOff (b / 6144)) + 1) (2 ^ 32 - 1)) ∧
    (c.isHead = true → c.seq.next = none → c.seq.commitOwn = none → c.probing = none → c.arrived = true →
      c.flag R.FAULT_STATUS_SETTLING = false → c.others ≠ [] →
      Completes .tackTimeout s fun t => t.probing = some (t.headBeat, c.others))

/-- COMMIT at the head, of its own message for the running step, with no flip (R171): the message is taken, replay and settling
end, and S(k + 1) is the message's, unless the job ends with the step. -/
def Obligations.HeadCommitSetsTheNextStart : Prop :=
  ∀ (s : State) (m : CommitMsg), s.chip.runs = true → s.chip.seq.commitOwn = some m → s.chip.takesCommit m = true → m.flips = [] →
    Completes (.commit none) s fun t => t.rd R.FAULT_STATUS_REPLAY = 0 ∧ t.flag R.FAULT_STATUS_REPLAYING = false ∧
      t.flag R.FAULT_STATUS_SETTLING = false ∧ t.seq.posted = false ∧
      (t.seq.next = some m.next ∨ (t.seq.next = none ∧ t.rd R.SEQ_STATE_STATE = seqAccepted))

/-- SAMPLER_DRAW at a tail, for a valid slot that samples (R324): one token is drawn for the slot and counted. -/
def Obligations.SamplerDrawsOneToken : Prop :=
  ∀ (s : State) (slot : Nat) (logits : List Nat) (q : BatchSlot), s.chip.runs = true → s.chip.calm = true →
    s.chip.stepping = true → s.chip.isTail = true → s.chip.serving.batch.slots[slot]? = some q → q.valid = true → q.sample = true →
    Completes (.samplerDraw slot logits) s fun t => ∃ tok, t.serving.draws = Tbl.insert slot tok s.chip.serving.draws ∧
      t.rd R.SAMPLER_DRAWS_COUNT = R.SAMPLER_DRAWS_COUNT.count (s.chip.rd R.SAMPLER_DRAWS_COUNT) 1 ∧
      t.serving.requests = s.chip.serving.requests ∧ t.serving.batch = s.chip.serving.batch

/-! ## The engines -/

/-- Encoding of the engine's words (R115, R116): every instruction whose fields fit their bits is the one its word decodes to; and a
few words written out from the encoding tables read as they say, with an unassigned CLASS no instruction. -/
def Obligations.EngineWordsDecodeToWhatTheyEncode : Prop :=
  (∀ e : EInstr, e.wf = true → decodeWord (encodeWord e) = some e) ∧
  decodeWord 0x1230000012345678 = some (.setx 3 0x12345678) ∧
  decodeWord 0x10A7005002000000 = some (.copy 10 7 5 2) ∧
  decodeWord 0x8400120000000000 = some (.peg 4 0x12) ∧
  decodeWord 0xA200000000000000 = some .done ∧
  decodeWord 0x9000000000000100 = some (.waitBeat 0x100) ∧
  decodeWord 0x9100000000000007 = some (.waitCycles 7) ∧
  decodeWord 0xB000000000000000 = none

/-- Every engine instruction, once nothing holds it, issues in program order (R112, R114): the tile's PC advances by one, and no
other tile changes; a word of another class than the command's changes nothing, and one that is held (by a full queue, an interlock or a
receive that has not completed) counts one stalled cycle in TILE_STALLS and does nothing else.  For MIL ATTN this is said where every page it
reads has its key installed and no line an error, which would be detected errors of the package (R400).
Their commands: ARR_MVP, ARR_MVP_ADD; MOV_COPY, MOV_ZERO, MOV_SETX, MOV_ADDX; VEC_ADD, VEC_MUL, VEC_SCALE, VEC_SUMSQ, VEC_MAX, VEC_SUM,
VEC_EXPSUB, VEC_DIV, VEC_RSQ, VEC_ROPE, VEC_SILU_GATE, VEC_GELU_GATE, VEC_TOPK, VEC_QUANT, VEC_DEQ; MIL_ATTN; WEL_SCRUB; RED_ADD8,
RED_ADD32, RED_MAX32; SND_SEND, SND_ROUTE, SND_RETURN; RCV_POST, RCV_WAIT, RCV_GATHER; PEG_TILE, PEG_HALF, PEG_DIE, PEG_PACKAGE,
PEG_JOB; WAIT_BEAT, WAIT_CYCLES; CHK_SAMPLE, CHK_RETAIN, CHK_DONE. -/
def Obligations.EngineWordsIssueInOrder : Prop :=
  ∀ (s : State) (i : Instr) (t : Nat) (takes : EInstr → Bool) (e : EInstr), s.chip.runs = true → s.chip.calm = true →
    issues i = some (t, takes) →
    (takes e = true → s.chip.mayIssue t e = true →
      (∀ a d seq hd gM1 kvh layer vM1 v page q, e = .attn a d seq hd gM1 kvh layer vM1 → v ≤ vM1 →
        let desc := s.chip.ctxDesc (t / 48) ((s.chip.tile t).slot ((s.chip.tile t).slotNo seq + v)).context
        s.chip.ctxErr = [] ∧ (Tbl.find? desc.entries page = some q → (s.chip.pageKey desc q).isSome = true)) →
      Completes i s fun d => d.pc t = (s.chip.pc t + 1) % 2 ^ 14 ∧ ∀ u, u ≠ t → d.tile u = s.chip.tile u) ∧
    (takes e = false → s.chip.fetch t = some e → Becomes i s s.chip) ∧
    (s.chip.fetch t = none → Becomes i s s.chip) ∧
    (takes e = true → s.chip.fetch t = some e → (s.chip.tile t).blocked (s.chip.claim t (s.chip.tile t) e) = true →
      Becomes i s (s.chip.bump R.TILE_STALLS_COUNT (tileOff t) 1))

/-- MOV SETX and ADDX set an address register to IMM, or add it modulo 2³² (R116), and do nothing else but advance the PC. -/
def Obligations.MovSetxAndAddxWriteAddressRegisters : Prop :=
  ∀ (s : State) (t xd imm : Nat), s.chip.runs = true → s.chip.calm = true →
    (s.chip.fetch t = some (.setx xd imm) → Becomes (.movSetx t) s
      ((s.chip.wr R.TILE_STATE_PC (tileOff t) (s.chip.pc t + 1)).onTile t fun x => { x with xregs := Tbl.put 0 x.xregs xd imm })) ∧
    (s.chip.fetch t = some (.addx xd imm) → Becomes (.movAddx t) s
      ((s.chip.wr R.TILE_STATE_PC (tileOff t) (s.chip.pc t + 1)).onTile t fun x =>
        { x with xregs := Tbl.put 0 x.xregs xd ((x.xreg xd + imm) % 2 ^ 32) }))

/-- MOV ZERO and MOV COPY store to the lines of their destination vectors alone: every byte of the tile's scratchpad outside
them is kept; MOV ZERO leaves every line of its destination, where it lies within the slot, zero (R116). -/
def Obligations.MovStoresOnlyToItsDestination : Prop :=
  ∀ (s : State) (t dst lM1 vM1 : Nat), s.chip.runs = true → s.chip.calm = true →
    let c := s.chip
    let x := c.tile t
    let inDest := fun a => ∃ v k, v ≤ vM1 ∧ k ≤ lM1 ∧ c.lineAddr t (x.vline dst v + k) ≤ a ∧ a < c.lineAddr t (x.vline dst v + k) + 32
    (∀ src, c.mayIssue t (.copy src dst lM1 vM1) = true → Completes (.movCopy t) s fun d =>
      d.pc t = (c.pc t + 1) % 2 ^ 14 ∧ ∀ a, ¬inDest a → d.spadByte t a = c.spadByte t a) ∧
    (c.mayIssue t (.zero dst lM1 vM1) = true → Completes (.movZero t) s fun d =>
      d.pc t = (c.pc t + 1) % 2 ^ 14 ∧ (∀ a, ¬inDest a → d.spadByte t a = c.spadByte t a) ∧
      ∀ v k j, v ≤ vM1 → k ≤ lM1 → j < 32 → x.vline dst v + k < c.rd R.SPAD_SLOT_BOUND_LINES (slotOff t 0) →
        d.spadByte t (c.lineAddr t (x.vline dst v + k) + j) = 0)

/-- The VEC instructions with FP32 results, for one vector (R118): the words of D are the operation's result on the words read
of A and then of B, stored as little-endian words where the line lies within the slot (R111). -/
def Obligations.VecStoresItsResult : Prop :=
  ∀ (s : State) (i : Instr) (t op a b d lenM1 f aux : Nat), s.chip.runs = true → s.chip.calm = true →
    (i, op) ∈ [(Instr.vecAdd t, 0x0), (.vecMul t, 0x1), (.vecScale t, 0x2), (.vecSumsq t, 0x3), (.vecMax t, 0x4), (.vecSum t, 0x5),
      (.vecExpsub t, 0x6), (.vecDiv t, 0x7), (.vecRsq t, 0x8), (.vecRope t, 0x9), (.vecSiluGate t, 0xA), (.vecGeluGate t, 0xB),
      (.vecTopk t, 0xE)] →
    s.chip.mayIssue t (.vec op a b d lenM1 f 0 aux) = true →
    let c := s.chip
    let x := c.tile t
    let c1 := { c with sent := [] }.advanced t (.vec op a b d lenM1 f 0 aux)
    let ra := (readFp t (x.line a) (if op = 8 then 1 else lenM1 + 1)).run c1
    let nb := (vecLines op (lenM1 + 1) (fmtOfCode f) aux).2.1
    let wb := if nb = 0 then [] else if op = 9 then ((readFp t (x.line b) (headDim (bits aux 5 4) / 2)).run ra.2).1
      else if op = 2 ∨ op = 6 ∨ op = 7 then ((readFp t (x.line b) 1).run ra.2).1 else ((readFp t (x.line b) (lenM1 + 1)).run ra.2).1
    let r := ((vecResult op { a := ra.1, b := wb, scalar := nth 0 wb 0, pos := (x.slot (x.slotNo (aux % 16))).position,
                              len := lenM1 + 1, aux := aux }) {}).1
    Completes i s fun e => e.pc t = (c.pc t + 1) % 2 ^ 14 ∧
      ∀ k j, k < fpLines r.length → j < 32 → x.line d + k < c.rd R.SPAD_SLOT_BOUND_LINES (slotOff t 0) →
        e.spadByte t (c.lineAddr t (x.line d + k) + j) = BitVec.ofNat 8 (nth 0 (bytesOfWords r) (32 * k + j))

/-- Waits and holds (R122, R121, R112, R155): WAIT CYCLES n holds issue for n > 0; WAIT BEAT holds it before its offset, goes on
at it, and after it counts LATE where the half has run slowed or the tile awaits its replica, else a deadline miss with FAULT
0x10; RCV WAIT holds for a receive of its tag that has not completed; CHK DONE ends the program; a PEG of TILE scope in a
drained tile completes at once, one of a wider scope posts its arrival on the tree wires. -/
def Obligations.WaitsAndPegsHoldIssue : Prop :=
  ∀ (s : State) (t : Nat), s.chip.runs = true → s.chip.calm = true →
    let c := s.chip
    let x := c.tile t
    let held := fun h => (c.wr R.TILE_STATE_PC (tileOff t) (c.pc t + 1)).onTile t fun x => { x with hold := h }
    let went := c.wr R.TILE_STATE_PC (tileOff t) (c.pc t + 1)
    (∀ n, c.mayIssue t (.waitCycles n) = true → Becomes (.waitCycles t) s (if n = 0 then went else held (.cycles n))) ∧
    (∀ off, c.mayIssue t (.waitBeat off) = true →
      (c.beat < c.runStart + off → Becomes (.waitBeat t) s (held (.beat off))) ∧
      (c.beat = c.runStart + off → c.refcyc = 0 → Becomes (.waitBeat t) s went) ∧
      (c.passed off = true → (c.flag R.TIMEBASE_HALF_CLK_SLOWED (4 * halfOfTile t) || c.awaitsReplica t) = true →
        Becomes (.waitBeat t) s { went.bump R.TILE_LATE_COUNT (tileOff t) 1 with
          tack := c.tack ++ [.late (t / 48) t (c.stepNow % 65536)] }) ∧
      (c.passed off = true → (c.flag R.TIMEBASE_HALF_CLK_SLOWED (4 * halfOfTile t) || c.awaitsReplica t) = false →
        Becomes (.waitBeat t) s { went.bump R.TILE_DEADLINE_COUNT (tileOff t) 1 with
          tack := c.tack ++ [.fault (t / 48) 1 (t % 48) c.replayNow 0x10] })) ∧
    (∀ tag, c.mayIssue t (.wait tag) = true → Becomes (.rcvWait t) s
      (if x.recvs.any fun r => decide (r.tag = tag) && !r.done then held (.recv tag) else went)) ∧
    (c.mayIssue t .done = true → Becomes (.chkDone t) s (went.onTile t fun x => { x with ending := true })) ∧
    (∀ id, c.mayIssue t (.peg 0 id) = true → c.drained t 0 = true → Completes (.pegTile t) s fun d =>
      (d.tile t).hold = .none ∧ d.flag R.SPAD_PEG_LAST_VALID (tileOff t) = true ∧ d.rd R.SPAD_PEG_LAST_SCOPE (tileOff t) = 0 ∧
      d.rd R.SPAD_PEG_LAST_PEG_ID (tileOff t) = id % 2 ^ 16 ∧ d.upTree = c.upTree) ∧
    (∀ i scope id, (i, scope) ∈ [(Instr.pegHalf t, 1), (.pegDie t, 2), (.pegPackage t, 3), (.pegJob t, 4)] →
      c.mayIssue t (.peg scope id) = true → Completes i s fun d =>
        (c.drained t scope = true → (d.tile t).hold = .peg scope id true ∧
          ∃ check, d.upTree = c.upTree ++ [⟨scope, pegRoot t scope, t, check⟩]) ∧
        (c.drained t scope = false → (d.tile t).hold = .peg scope id false ∧ d.upTree = c.upTree))

/-- SND SEND of vectors to a tile injects their lines as packets of up to 16 and awaits their acknowledgement; to TILE 0x3F, for
one vector with a valid batch slot, it injects one append; ROUTE ends with one marker to each tile of its map; RETURN awaits one
acknowledgement for each placed and each dropped copy (R123, R200, R265). -/
def Obligations.SendsInjectPackets : Prop :=
  ∀ (s : State) (t : Nat), s.chip.runs = true → s.chip.calm = true →
    let c := s.chip
    let x := c.tile t
    let tag := Tbl.get 0 x.sendTag (c.rd R.TILE_STATE_BANK (tileOff t) * 16384 + c.pc t)
    (∀ a lM1 vM1 node die tile vl seq, tile ≠ 0x3F → c.mayIssue t (.send a lM1 vM1 node die tile vl seq) = true →
      Completes (.sndSend t) s fun d => ∃ lines : List (List Nat), lines.length = (vM1 + 1) * (lM1 + 1) ∧
        d.flight = c.flight ++ packetsOf (fun first data =>
          { src := c.place t, dest := ⟨node, die, tile⟩, step := c.stepNow, replay := c.replayNow, index := c.pc t,
            total := lines.length, vl := vl, detour := false, body := .lines 0 tag first false 0 data })
          (lines.length + 1) 0 lines ∧
        (d.tile t).sends = x.sends ++ [⟨c.pc t, ⟨node, die, tile⟩, lines.length⟩]) ∧
    (∀ a lM1 node die vl seq, c.mayIssue t (.send a lM1 0 node die 0x3F vl seq) = true →
      (x.slot (x.slotNo seq)).valid = true → Completes (.sndSend t) s fun d => ∃ bytes,
        d.flight = c.flight ++ [{ src := c.place t, dest := ⟨c.node, die, 0x3F⟩, step := c.stepNow, replay := c.replayNow,
                                  index := c.pc t, total := 1, vl := vl, detour := false,
                                  body := .append (tag % 2048) (bit tag 11) (x.slot (x.slotNo seq)) bytes }] ∧
        (d.tile t).sends = x.sends ++ [⟨c.pc t, ⟨c.node, die, 0x3F⟩, 1⟩]) ∧
    (∀ a b lM1 vM1 map vl seq, c.mayIssue t (.route a b lM1 vM1 map vl seq) = true →
      Completes (.sndRoute t) s fun d => ∃ copies, d.flight = c.flight ++ copies ++ (unique (nth [] c.experts map)).map fun dest =>
        { src := c.place t, dest := dest, step := c.stepNow, replay := c.replayNow, index := c.pc t, total := 0, vl := vl,
          detour := false, body := .endMark tag }) ∧
    (∀ a lM1 rtag r, c.mayIssue t (.ret a lM1 rtag) = true → x.recvs.find? (fun q => q.tag = rtag) = some r →
      Completes (.sndReturn t) s fun d => (d.tile t).sends.map (fun q => q.dest) =
        x.sends.map (fun q => q.dest) ++ (r.placed ++ r.dropped).map fun g => g.origin)

/-- RCV POST and GATHER post their receive under its tag in place of an older one of that tag (R123, R152), in a tile that does
not replay; CHK RETAIN retains its lines (R135); each shows TILE_RETAINED.  A posted plain receive whose lines have all come
completes, and an RCV WAIT on it resumes. -/
def Obligations.ReceivesArePostedAndComplete : Prop :=
  ∀ (s : State) (t : Nat), s.chip.runs = true → s.chip.calm = true → s.chip.tileState t ≠ tileReplay →
    let c := s.chip
    let x := c.tile t
    let gen := c.rd R.SPAD_SLOT_GEN_GEN (slotOff t 0)
    (∀ dd lM1 tag retain, c.mayIssue t (.post dd lM1 tag retain) = true → Completes (.rcvPost t) s fun d =>
      (d.tile t).recvs = x.recvs.filter (fun q => q.tag != tag) ++ [{
        tag := tag, line := x.line dd, lines := lM1 + 1, stride := 0, gen := gen, retain := retain, gather := false, cap := 1,
        sources := 0, arrived := [], copies := [], ends := [], placed := [], dropped := [], done := false }] ∧
      d.rd R.TILE_RETAINED_LINES (tileOff t) = (d.tile t).retainedLines % 2 ^ 18 ∧ (d.tile t).mem = x.mem) ∧
    (∀ dd lM1 tag retain capM1 sM1, c.mayIssue t (.gather dd lM1 tag retain capM1 sM1) = true → Completes (.rcvGather t) s fun d =>
      (d.tile t).recvs = x.recvs.filter (fun q => q.tag != tag) ++ [{
        tag := tag, line := x.line dd, lines := lM1 + 1, stride := x.stride dd, gen := gen, retain := retain, gather := true,
        cap := capM1 + 1, sources := sM1 + 1, arrived := [], copies := [], ends := [], placed := [], dropped := [],
        done := false }] ∧
      d.rd R.TILE_RETAINED_LINES (tileOff t) = (d.tile t).retainedLines % 2 ^ 18 ∧ (d.tile t).mem = x.mem) ∧
    (∀ a lM1, c.mayIssue t (.retain a lM1) = true → Completes (.chkRetain t) s fun d =>
      (d.tile t).retained = x.retained ++ [⟨x.line a, lM1 + 1⟩] ∧
      d.rd R.TILE_RETAINED_LINES (tileOff t) = (d.tile t).retainedLines % 2 ^ 18 ∧ (d.tile t).mem = x.mem) ∧
    (∀ tag r, x.recvs.find? (fun r => decide (r.tag = tag) && !r.done) = some r → r.gather = false → r.full = true →
      Becomes (.receiveComplete t tag) s (c.onTile t fun x => { x with
        recvs := amend (fun q => q.tag = tag) (fun _ => { r with
          done := true, placed := (sortBy copyLe r.copies).take r.cap, dropped := (sortBy copyLe r.copies).drop r.cap }) x.recvs
        hold := if x.hold = .recv tag then .none else x.hold }))

/-- What the engine does of itself (R112, R121, R122, R140): a unit's oldest instruction, awaiting no replica, leaves its queue
on completion; a WAIT CYCLES and a WAIT BEAT are released; a tile whose program has ended and whose queues are empty is DONE;
the patrol scrub moves to the next row and, with no symbol error in the tile, changes no stored byte. -/
def Obligations.EngineCompletionsAndScrub : Prop :=
  ∀ (s : State) (t : Nat), s.chip.runs = true → s.chip.calm = true →
    let c := s.chip
    let x := c.tile t
    (∀ u q, x.issued.find? (fun i => decide (i.unit = u)) = some q → q.replica = false → (∀ sc id, x.hold ≠ .peg sc id false) →
      Becomes (.instructionCompletion t (some u)) s (c.onTile t fun x =>
        { x with issued := dropFirst (fun i => decide (i.unit = u)) x.issued })) ∧
    (∀ n, x.hold = .cycles n → Becomes (.instructionCompletion t none) s (c.onTile t fun x => { x with hold := .none })) ∧
    (∀ off, x.hold = .beat off → Completes (.waitBeatRelease t) s fun d => (d.tile t).hold = .none ∧
      (c.counts = true → d.beat = if c.beat < c.runStart + off then (c.runStart + off) % 2 ^ 48 else c.beat)) ∧
    (c.running t = true → x.ending = true → x.issued = [] → Becomes (.tileDone t) s
      (c.wr R.TILE_STATE_STATE (tileOff t) tileDone)) ∧
    (x.symErr = [] → Completes (.spadScrubRead t [] []) s fun d => (d.tile t).scrubRow = (x.scrubRow + 1) % 4096 ∧
      (d.tile t).mem = x.mem ∧ ∀ u, u ≠ t → d.tile u = c.tile u)

/-! ## The package fabric -/

/-- Tack messages (R206, R207): an ACK ends the oldest outstanding send it names, a CREDIT gives a holder's delivery lines
back, LATE marks the step late, an ORDER (of which the spec gives no codes) is taken, and each is counted with its two words; a
word with a parity error is dropped, counted, and raises FAULT 0x30 of the die. -/
def Obligations.TackMessagesAct : Prop :=
  ∀ (s : State) (die : Nat), s.chip.runs = true → s.chip.calm = true →
    let c := s.chip
    let words := fun (x : Chip) => x.bump R.TACK_WORDS_COUNT (dieOff die) 2
    let without := fun (p : TackMsg → Bool) => { c with tack := dropFirst p c.tack }
    let isAck := fun m => match m with | .ack a => decide (a.dst.die = die) | _ => false
    let isCredit := fun m => match m with | .credit t _ _ => decide (t / 48 = die) | _ => false
    let isLate := fun m => match m with | .late d _ _ => decide (d = die) | _ => false
    let isOrder := fun m => match m with | .order d _ _ _ => decide (d = die) | _ => false
    (∀ a, c.tack.find? isAck = some (.ack a) → Completes (.ack die) s fun d => d.tack = dropFirst isAck c.tack ∧
      (d.tile (a.dst.die * 48 + a.dst.tile)).sends =
        dropFirst (fun q => decide (q.index = a.index ∧ q.dest = a.src)) (c.tile (a.dst.die * 48 + a.dst.tile)).sends ∧
      d.rd R.TACK_ACKS_COUNT (dieOff die) = (c.rd R.TACK_ACKS_COUNT (dieOff die) + 1) % 2 ^ 32) ∧
    (∀ t h n, c.tack.find? isCredit = some (.credit t h n) → Becomes (.credit die) s
      { words ((without isCredit).bump R.TACK_CREDITS_COUNT (dieOff die) 1) with
        credit := Tbl.modify 0 c.credit (t * 16 + h) (· - n) }) ∧
    (∀ x t k, c.tack.find? isLate = some (.late x t k) → Becomes (.late die) s
      { words ((without isLate).bump R.TACK_LATE_MSGS_COUNT (dieOff die) 1) with lateStep := true }) ∧
    (∀ m, c.tack.find? isOrder = some m → Becomes (.order die) s (words (without isOrder))) ∧
    (∀ k, Becomes (.tackParityError die k) s { c.bump R.TACK_PARITY_COUNT (dieOff die) 1 with
      tack := c.tack.eraseIdx k ++ [.fault die 3 0 (c.rd R.FAULT_STATUS_REPLAY) 0x30] })

/-- FAULT: a tile's FAULT message reaches its die controller with no job stepping (R402 to R404): the message is taken; one of a
tile that is out of service, or inside what is, is absorbed and counted; any other leaves the tile SHELVED, is counted, shown in
FAULT_LAST, sets the FAULT alert and is reported as event 0x10. -/
def Obligations.FaultOfATileIsShelvedAndReported : Prop :=
  ∀ (s : State) (die idx replay cause : Nat), s.chip.runs = true → s.chip.calm = true → s.chip.stepping = false →
    die < 8 → idx < 48 → cause < 256 →
    let c := s.chip
    let mine := fun m => match m with | TackMsg.fault d _ _ _ _ => decide (d = die) | _ => false
    c.tack.find? mine = some (.fault die 1 idx replay cause) → Tbl.get [] c.faultQueue die = [] →
    Completes (.fault die) s fun d => d.tack = dropFirst mine c.tack ∧
      (c.outOrInside 1 die idx = true → d.rd R.FAULT_ABSORBED_COUNT = min (c.rd R.FAULT_ABSORBED_COUNT + 1) (2 ^ 32 - 1) ∧
        d.reports = c.reports) ∧
      (c.outOrInside 1 die idx = false → d.tileState (die * 48 + idx) = tileShelved ∧
        d.rd R.FAULT_DETECTED_COUNT = min (c.rd R.FAULT_DETECTED_COUNT + 1) (2 ^ 32 - 1) ∧
        d.flag R.MGMT_ALERT_STATUS_FAULT = true ∧
        ∃ r ∈ d.reports, r.event = 0x10 ∧ r.cls = 1 ∧ r.cause = cause ∧ r.unit = unitWord die idx)

/-- Pegs on the tree (R208, R209): an arrival whose check differs from one of its scope at its root is counted and raises FAULT
0x31 of the root's die; one that completes no scope waits at the root; one that completes a scope below JOB sends DONE
down.  DONE completes the peg at every tile of its root that waits there. -/
def Obligations.PegsMeetAtTheirRoot : Prop :=
  ∀ (s : State), s.chip.runs = true → s.chip.calm = true → s.chip.jobPegs = [] →
    let c := s.chip
    (∀ k a, c.upTree[k]? = some a → a.scope ≠ 4 →
      let same := fun (b : PegArrival) => decide (b.scope = a.scope ∧ b.root = a.root)
      let in_ := { c with upTree := c.upTree.eraseIdx k, arrivals := c.arrivals ++ [a] }
      let die := if a.scope = 1 then a.root / 2 else if a.scope = 2 then a.root else c.rd R.MESH_ROOTS_MASTER
      (c.arrivals.any (fun b => same b && decide (b.check ≠ a.check)) = true → Becomes (.pegArrival k) s
        { in_.bump R.TACK_MISMATCH_COUNT (dieOff die) 1 with
          tack := c.tack ++ [.fault die 3 0 (c.rd R.FAULT_STATUS_REPLAY) 0x31] }) ∧
      (c.arrivals.any (fun b => same b && decide (b.check ≠ a.check)) = false → in_.scopeComplete a.scope a.root = false →
        Becomes (.pegArrival k) s in_) ∧
      (c.arrivals.any (fun b => same b && decide (b.check ≠ a.check)) = false → in_.scopeComplete a.scope a.root = true →
        a.tile ∈ participants a.scope a.root → Becomes (.pegArrival k) s { in_ with
          arrivals := in_.arrivals.filter fun b => !same b
          downDone := c.downDone ++ [(a.scope, a.root)] })) ∧
    (∀ scope root rest, c.downDone = (scope, root) :: rest → Completes .pegDone s fun d => d.downDone = rest ∧
      ∀ t id, t ∈ participants scope root → (c.tile t).hold = .peg scope id true → (d.tile t).hold = .none ∧
        d.flag R.SPAD_PEG_LAST_VALID (tileOff t) = true ∧ d.rd R.SPAD_PEG_LAST_PEG_ID (tileOff t) = id % 2 ^ 16)

/-- Packets and deliveries (R147, R200 to R203, R266): a packet with a bad header is dropped, counted, and raises FAULT 0x20 of
the half; lines for a tile of the sender's die, in service, enter that tile's delivery buffer; a buffered line written under
its slot's generation is stored there and nowhere else, and gives its holder's credit back; an append that a CTX station refuses
is counted, and acknowledged all the same. -/
def Obligations.PacketsAreDelivered : Prop :=
  ∀ (s : State) (k : Nat), s.chip.runs = true → s.chip.calm = true →
    let c := s.chip
    (∀ p half, c.flight[k]? = some p → Becomes (.meshPacket k false half) s
      { c.bump R.MESH_HDR_ERR_COUNT (dieOff (half / 2)) 1 with
        flight := c.flight.eraseIdx k
        tack := c.tack ++ [.fault (half / 2) 2 (half % 2) (c.rd R.FAULT_STATUS_REPLAY) 0x20] }) ∧
    (∀ p half slot tag first direct gen data, c.flight[k]? = some p → p.body = .lines slot tag first direct gen data →
      p.dest.node = c.node → p.dest.die = p.src.die → c.tileState (p.dest.die * 48 + p.dest.tile) ≠ tileShelved →
      c.replayNow ≤ p.replay → Completes (.meshPacket k true half) s fun d => d.flight = c.flight.eraseIdx k ∧
        let t := p.dest.die * 48 + p.dest.tile
        (d.tile t).buffer = (c.tile t).buffer ++ ((upFrom first data.length).zip data).map (fun e =>
          { slot := slot, tag := tag, index := e.1, gen := gen, direct := direct, src := p.src, sender := p.index,
            total := p.total, replay := p.replay, holder := 8, bytes := e.2 }) ∧ (d.tile t).mem = (c.tile t).mem) ∧
    (∀ t b, (c.tile t).buffer[k]? = some b → b.direct = true → b.gen = c.rd R.SPAD_SLOT_GEN_GEN (slotOff t b.slot) →
      b.index < c.rd R.SPAD_SLOT_BOUND_LINES (slotOff t b.slot) →
      let at_ := 32 * (c.rd R.SPAD_SLOT_BASE_BASE (slotOff t b.slot) + b.index)
      Completes (.delivery t k) s fun d => (d.tile t).buffer = (c.tile t).buffer.eraseIdx k ∧
        d.tack = c.tack ++ (if b.holder < 8 then [.credit t b.holder 1] else []) ∧
        (∀ j, j < 32 → d.spadByte t (at_ + j) = BitVec.ofNat 8 (nth 0 b.bytes j)) ∧
        ∀ a, (a < at_ ∨ at_ + 32 ≤ a) → d.spadByte t a = c.spadByte t a) ∧
    (∀ p pair value slot data, c.appends[k]? = some p → p.body = .append pair value slot data → p.src.node = c.node →
      Tbl.find? (c.ctxDesc p.dest.die slot.context).entries (slot.position / 64) = none → Completes (.append k) s fun d =>
        d.appends = c.appends.eraseIdx k ∧ d.kv = c.kv ∧
        d.rd R.CTX_APPEND_REFUSED_COUNT (dieOff p.dest.die) =
          min (c.rd R.CTX_APPEND_REFUSED_COUNT (dieOff p.dest.die) + 1) (2 ^ 32 - 1))

/-- Die-to-die edges (R214, R215, R218): an edge that leaves UP or DEGRADED is TRAINING, out of the routes on every die, and the
packets of its retry buffer are lost; a training that brings modules up leaves it UP, or DEGRADED where not all four are up at
full speed, and in the routes again where no job runs; the third failure leaves it FAILED; a retraining is done where no job
runs, and else counted as a clamped field. -/
def Obligations.EdgesTrainAndFail : Prop :=
  ∀ (s : State) (e : Nat), s.chip.runs = true → s.chip.calm = true → e < 10 →
    let c := s.chip
    (∀ lost, c.edgeState e = edgeUp ∨ c.edgeState e = edgeDegraded → Completes (.d2dEdgeDown e lost) s fun d =>
      d.edgeState e = edgeTraining ∧ (∀ x, x < 8 → bit (d.rd R.MESH_STATUS_LOST_EDGES (dieOff x)) e = true) ∧
      d.flight = ((upFrom 0 c.flight.length).zip c.flight).filterMap fun p => if lost.contains p.1 then none else some p.2) ∧
    (∀ x : EdgeTrained, c.edgeState e = edgeTraining →
      (x.modules % 16 = 15 → x.slow % 16 = 0 → Completes (.d2dTrainingDone e x) s fun d => d.edgeState e = edgeUp ∧
        (c.jobRuns = false → ∀ y, y < 8 → bit (d.rd R.MESH_STATUS_LOST_EDGES (dieOff y)) e = false)) ∧
      (x.modules % 16 ≠ 0 → (x.modules % 16 ≠ 15 ∨ x.slow % 16 ≠ 0) → Completes (.d2dTrainingDone e x) s fun d =>
        d.edgeState e = edgeDegraded) ∧
      (x.modules % 16 = 0 → Completes (.d2dTrainingDone e x) s fun d =>
        d.edgeState e = if 2 ≤ (Tbl.get noEdge c.edges e).fails then edgeFailed else edgeTraining)) ∧
    (∀ die side, edgeAt die side = some e →
      (c.jobRuns = false → Completes (.d2dRetrain die side) s fun d => d.edgeState e = edgeTraining) ∧
      (c.jobRuns = true → Completes (.d2dRetrain die side) s fun d =>
        d.rd R.FAULT_CLAMP_COUNT (4 * srcMgmt) = min (c.rd R.FAULT_CLAMP_COUNT (4 * srcMgmt) + 1) (2 ^ 32 - 1) ∧
        d.edgeState e = c.edgeState e))

/-! ## The torus -/

/-- Lane groups train and fall (R223, R244 to R246): a group that leaves UP, of a package with no job, counts it and trains
again, or stays DOWN without light; a received TRAIN is kept, its echo, while fewer than 64 are held, as a latency sample; a
training that deskews and agrees makes the group UP and shows its peer; the third failure makes it FAILED; GROUP_RETRAIN trains
a group that is defined and carries no running job, and else counts as a clamped field. -/
def Obligations.LaneGroupsTrain : Prop :=
  ∀ (s : State) (port group : Nat), s.chip.runs = true → s.chip.calm = true → port < 6 → group < 4 →
    let c := s.chip
    let g := port * 4 + group
    let l := c.link g
    let trained := if c.lit g then grpTraining else grpDown
    (c.grpState g = grpUp → c.jobRuns = false → Completes (.torusGroupDown port group) s fun d => d.grpState g = trained ∧
      d.rd R.TORUS_GRP_DOWNS_COUNT (lgOff g) = min (c.rd R.TORUS_GRP_DOWNS_COUNT (lgOff g) + 1) (2 ^ 32 - 1) ∧
      d.link g = { noLink with queue := l.queue, count := l.count } ∧ ∀ h, h ≠ g → d.link h = c.link h) ∧
    (∀ m received stamp hold, c.grpState g = grpTraining → Becomes (.train port group m received stamp hold) s
      (c.withLink g { l with
        peer := some m
        echoes := if m.echo && decide (l.echoes.length < 64) then l.echoes ++ [(received - stamp - hold) / 2] else l.echoes })) ∧
    (∀ m, c.grpState g = grpTraining → l.peer = some m → c.trainAgrees g = true → c.keySpent g = false →
      Completes (.torusTrainingDone port group true) s fun d => d.grpState g = grpUp ∧
        d.rd R.TORUS_GRP_PEER_PEER_NODE (lgOff g) = m.node % 2 ^ 12 ∧ d.flag R.TORUS_GRP_PEER_VALID (lgOff g) = true ∧
        (d.link g).trainFails = 0) ∧
    (c.grpState g = grpTraining → Completes (.torusTrainingDone port group false) s fun d =>
      (d.link g).trainFails = l.trainFails + 1 ∧ d.grpState g = if 3 ≤ l.trainFails + 1 then grpFailed else grpTraining) ∧
    (c.grpState g ≠ grpUnused → c.carriesJob g = false → Completes (.groupRetrain port group) s fun d => d.grpState g = trained) ∧
    (c.grpState g = grpUnused ∨ c.carriesJob g = true → Completes (.groupRetrain port group) s fun d =>
      d.rd R.FAULT_CLAMP_COUNT (4 * srcMgmt) = min (c.rd R.FAULT_CLAMP_COUNT (4 * srcMgmt) + 1) (2 ^ 32 - 1) ∧
      d.grpState g = c.grpState g ∧ d.links = c.links)

/-- What a group that is UP puts on its lanes (R229, R232, R246): first what is to be sent again, which counts as a retry; else
the flit that the choice of R232 takes, with the next SEQ, held until it is acknowledged, against one credit; with nothing to
send, an IDLE flit.  An IDLE that is owed reports ACK; an IDLE received without a NAK uses its ACK and credits; a corrupt flit
is counted, also as an authentication failure where its tag failed on an encrypted group, and a NAK is owed. -/
def Obligations.LaneGroupsSendAndAcknowledge : Prop :=
  ∀ (s : State) (port group wait : Nat), s.chip.runs = true → s.chip.calm = true →
    let c := s.chip
    let g := port * 4 + group
    let l := (c.link g).payCredit
    c.grpState g = grpUp →
    (∀ n f rest, l.resend = (n, f) :: rest → f.vl ≠ 0 → Becomes (.flitTime port group wait) s
      ((c.bump R.TORUS_GRP_RETRIES_COUNT (lgOff g) 1).withLink g
        { l with resend := rest, nak := false, ackDue := false, line := some f })) ∧
    (∀ f turn left, l.resend = [] → l.unacked.length < 2048 → l.rejoin = false → c.chooseFlit g l = some (f, turn, left) →
      c.flag R.TORUS_GRP_STATE_ENC (lgOff g) = false → Completes (.flitTime port group wait) s fun d =>
        d.link g = { l with
          queue := dropFirst (fun q => decide (q = f)) l.queue, unacked := l.unacked ++ [(l.txSeq, f)]
          txSeq := (l.txSeq + 1) % 4096, credit := setNth (nth 0 l.credit f.vl - 1) l.credit f.vl, turn := turn, left := left
          count := l.count + 1, nak := false, ackDue := false, line := some f } ∧
        d.rd R.TORUS_GRP_FLITS_TX_COUNT (lgOff g) = (c.rd R.TORUS_GRP_FLITS_TX_COUNT (lgOff g) + 1) % 2 ^ 32) ∧
    (l.resend = [] → l.unacked.length < 2048 → l.rejoin = false → c.chooseFlit g l = none →
      Becomes (.flitTime port group wait) s (c.withLink g { l with nak := false, ackDue := false, line := none })) ∧
    ((c.link g).ackDue = true → Becomes (.ackReport port group) s
      (c.withLink g { l with nak := false, ackDue := false, line := none })) ∧
    (∀ h : Hdr, h.port = port → h.group = group → h.nak = false → h.corrected = false → Becomes (.idle h) s
      (c.withLink g { c.link g with
        unacked := (c.link g).unacked.filter fun u => !seqUpTo u.1 h.ack
        resend := (c.link g).resend.filter fun u => !seqUpTo u.1 h.ack
        credit := setNth (nth 0 (c.link g).credit h.cvl + h.cred) (c.link g).credit h.cvl })) ∧
    (∀ auth, Becomes (.corruptFlit port group auth) s
      ((if auth && c.flag R.TORUS_GRP_STATE_ENC (lgOff g) then
          (c.bump R.TORUS_GRP_NAKS_COUNT (lgOff g) 1).bump R.TORUS_GRP_AUTH_FAIL_COUNT (lgOff g) 1
        else c.bump R.TORUS_GRP_NAKS_COUNT (lgOff g) 1).withLink g { c.link g with nak := true }))

/-- What a flit for the package and its job carries (R230, R231): DATA for a tile on the die of the group's share enters its
delivery buffer; a COPY whose lines have not all come is held with them; an END marks its origin at the receive of its tag; an
ACKD record becomes the tack acknowledgement of the send it names; a DONE of the head's peg goes down the tree.  A SHARD fragment that
does not begin where the stream stands ends the stream, one that leaves it short is kept (R347). -/
def Obligations.TorusFlitsAreTaken : Prop :=
  ∀ (s : State) (h : Hdr), s.chip.runs = true → s.chip.calm = true →
    let c := s.chip
    let r := c.received h
    let here := shareDie (h.port * 4 + h.group)
    (2 ≤ r.rd R.SEQ_STATE_STATE → h.job = r.rd R.SEQ_JOB_JOB →
      (∀ dl o line lines, c.takesFlit h (.data dl o line lines) = true → dl.die = here → dl.slot ≠ 0 →
        r.tileState (dl.die * 48 + dl.tile) ≠ tileShelved → r.replayNow ≤ dl.replay → Completes (.data h dl o line lines) s fun d =>
          let t := dl.die * 48 + dl.tile
          (d.tile t).buffer = (c.tile t).buffer ++ ((upFrom line lines.length).zip lines).map (fun e =>
            { slot := dl.slot, tag := dl.tag, index := e.1, gen := r.rd R.SPAD_SLOT_GEN_GEN (slotOff t dl.slot), direct := true,
              src := o.src, sender := o.index, total := o.total, replay := dl.replay, holder := 8, bytes := e.2 }) ∧
          (d.tile t).mem = (c.tile t).mem) ∧
      (∀ dl o idx line rec_ lines, c.takesFlit h (.copy dl o idx line rec_ lines) = true → lines.length < o.total →
        c.copyParts = [] → Completes (.copy h dl o idx line rec_ lines) s fun d => ∃ m, d.copyParts = [⟨dl, o, idx, rec_, m⟩] ∧
          d.tiles = c.tiles) ∧
      (∀ dl origin n, c.takesFlit h (.endMark dl origin n) = true → dl.die = here →
        r.tileState (dl.die * 48 + dl.tile) ≠ tileShelved → r.replayNow ≤ dl.replay → Completes (.endMark h dl origin n) s fun d =>
          let t := dl.die * 48 + dl.tile
          d.tile t = (c.tile t).onRecv dl.tag fun q => if q.done then q else { q with ends := q.ends ++ [origin] }) ∧
      (∀ q e, c.takesFlit h (.ackd [q]) = true →
        let t := q.die * 48 + q.tile
        (c.tile t).sends.find? (fun e => decide (e.dest.node ≠ r.node) && decide (Tbl.get 0 (c.tile t).sendTag
          (r.rd R.TILE_STATE_BANK (tileOff t) * 16384 + e.index) = q.tag)) = some e →
        Becomes (.ackd h [q]) s { r with tack := c.tack ++ [.ack { dst := ⟨r.node, q.die, q.tile⟩, src := e.dest, index := e.index,
                                                                   tag := q.tag, step := q.step, replay := q.replay }] })) ∧
    (∀ m, c.takesFlit h (.peg m) = true → r.stepping = true → c.seq.next = none → m.step = r.rd R.SEQ_STEP_STEP →
      m.replay = r.rd R.FAULT_STATUS_REPLAY → m.done = true → Becomes (.peg h m) s { r with downDone := c.downDone ++ [(4, 0)] }) ∧
    (∀ f : ShardFrag, c.takesFlit h (.shard f) = true →
      let g := h.port * 4 + h.group
      let so := if f.offset = 0 then [] else Tbl.get [] c.shardIn g
      (so.length ≠ f.offset → Becomes (.shardFlit h f) s { r with shardIn := Tbl.erase g c.shardIn }) ∧
      (so.length = f.offset → (so ++ f.bytes).length < 32 → Becomes (.shardFlit h f) s
        { r with shardIn := Tbl.put [] c.shardIn g (so ++ f.bytes) }))

/-! ## Front ports and the Trione protocol -/

/-- Frames at a front port that is up (R278 to R281): a damaged frame and a PAUSE frame are counted; one of a wrong length is
dropped; an unprotected frame is dropped for its EtherType or IP form, counted as malformed for its UDP checksum or TNP form,
and a good segment of one counts as received; a frame whose MACsec fails is counted.  Neighbor Solicitations and Echo Requests
to the port's address are answered, others dropped; the port's link comes up once stage 10 has started it, and goes down; a
partial message that times out is discarded as malformed (R283). -/
def Obligations.FrontPortsTakeFrames : Prop :=
  ∀ (s : State) (f : Nat), s.chip.runs = true → f < 2 →
    let c := s.chip
    let o := frontOff f
    let dropped := c.bump R.FRONT_DROPS_OTHER o 1
    (c.flag R.FRONT_STATUS_LINK_UP o = true → ∀ x : EthFrame, x.front = f →
      (x.intact = false → Becomes (.ethernetFrame x) s (c.bump R.FRONT_ERRS_FCS o 1)) ∧
      (x.intact = true → x.payload = .pause → Becomes (.ethernetFrame x) s (c.bump R.FRONT_DROPS_PAUSE o 1)) ∧
      (x.intact = true → x.payload ≠ .pause → x.bytes < 64 ∨ 9216 < x.bytes → Becomes (.ethernetFrame x) s dropped) ∧
      (x.intact = true → x.payload ≠ .pause → 64 ≤ x.bytes → x.bytes ≤ 9216 → x.vlan = none →
        (∀ t, x.sec = some t → t.valid = false → Becomes (.ethernetFrame x) s (c.bump R.FRONT_ERRS_MACSEC o 1)) ∧
        (x.sec = none → c.flag R.FRONT_CFG_MACSEC_REQ o = true → Becomes (.ethernetFrame x) s c) ∧
        (x.sec = none → c.flag R.FRONT_CFG_MACSEC_REQ o = false →
          (x.payload = .otherType ∨ x.payload = .otherIp → Becomes (.ethernetFrame x) s dropped) ∧
          (∀ g, x.payload = .udp false g → Becomes (.ethernetFrame x) s
            ((c.bump R.FRONT_MALFORMED_IP_COUNT 0 1).bump R.FRONT_DROPS_OTHER o 1)) ∧
          (∀ g, x.payload = .udp true g → g.formOk = false ∨ 8192 < g.bytes → Becomes (.ethernetFrame x) s
            ((c.bump R.FRONT_FRAMES_RX o 1).bump R.SERVE_MALFORMED_COUNT 0 1)) ∧
          (∀ g, x.payload = .udp true g → g.formOk = true → g.bytes ≤ 8192 → (tagKey g.typ g.tenant).isSome = true →
            (g.tagOk = false → Becomes (.ethernetFrame x) s
              ((c.bump R.FRONT_FRAMES_RX o 1).bump R.SERVE_AUTH_FAIL_COUNT 0 1)) ∧
            (c.tagPasses g.typ g.tenant g.tagOk = true → g.last = true → g.index = 0 →
              Becomes (.ethernetFrame x) s (c.bump R.FRONT_FRAMES_RX o 1)))))) ∧
    (c.flag R.FRONT_STATUS_LINK_UP o = true → ∀ source target ident seq data,
      (target ≠ c.frontAddr f → Becomes (.neighborSolicitation f target) s dropped ∧
        Becomes (.echoRequest f source target ident seq data) s dropped) ∧
      (target = c.frontAddr f → c.plainPort f = true →
        (Completes (.neighborSolicitation f target) s fun d => d.quiet = (c.bump R.FRONT_FRAMES_TX o 1).quiet ∧
          Out.neighbor f target ∈ d.sent) ∧
        Completes (.echoRequest f source target ident seq data) s fun d => d.quiet = (c.bump R.FRONT_FRAMES_TX o 1).quiet ∧
          Out.echo f source ident seq data ∈ d.sent)) ∧
    (c.stageDone 10 = true → Becomes (.frontLinkUp f) s (c.wr R.FRONT_STATUS_LINK_UP o 1)) ∧
    Becomes (.frontLinkDown f) s (c.wr R.FRONT_STATUS_LINK_UP o 0) ∧
    (∀ k p, c.serving.parts[k]? = some p → Becomes (.reassemblyTimeout k) s
      ({ c with serving := { c.serving with parts := c.serving.parts.eraseIdx k } }.bump R.SERVE_MALFORMED_COUNT 0 1))

/-- Sessions and their streams (R284, R287, R288).  An ACK that is due goes out alone when nothing else carries it; an unacknowledged
message is sent again with the current ACK, at most RETRIES times in a session, which then closes; OPEN gives its source the
lowest free session, whose OPENED is the first message of its stream, or is refused where the package takes no requests; CLOSE and an
idle session close it: its requests end at the next close. -/
def Obligations.SessionsOpenCarryAndClose : Prop :=
  ∀ (s : State) (n : Nat), s.chip.runs = true → n < 4096 →
    let c := s.chip
    let back := fun (x : Stream) => (x.rxNext + 2 ^ 32 - 1) % 2 ^ 32
    let closed := fun (p : Peer) (d : Chip) => Tbl.find? d.serving.sessions n = none ∧
      (∀ m, m ≠ n → Tbl.find? d.serving.sessions m = Tbl.find? c.serving.sessions m) ∧
      d.serving.orders = c.serving.orders ++ [sessionOrder n p false] ∧
      d.serving.requests = Tbl.mapVals (fun _ r => if r.session = n then { r with ends := r.ends ++ [3] } else r) c.serving.requests
    (∀ p x, c.stream n = some (p, x) →
      (x.ackDue = true → c.plainPort p.front = true → Completes (.streamAck n) s fun d =>
        d.stream n = some (p, { x with ackDue := false }) ∧ Out.tnp p ⟨n, 0, x.txNext, back x, 0, .streamAck⟩ ∈ d.sent) ∧
      (x.ackDue = false → Becomes (.streamAck n) s c) ∧
      (∀ q u, x.unacked.find? (fun v => decide (v.1.seq = q)) = some u →
        (u.2 < c.rd R.SERVE_CFG_RETRIES → c.plainPort p.front = true → Completes (.streamRetransmit n q) s fun d =>
          d.stream n = some (p, { x with
            unacked := x.unacked.map fun v => if v.1.seq = q then (v.1, v.2 + 1) else v
            ackDue := false }) ∧
          Out.tnp p { u.1 with ack := back x } ∈ d.sent) ∧
        (c.rd R.SERVE_CFG_RETRIES ≤ u.2 → Completes (.streamRetransmit n q) s (closed p))) ∧
      Completes (.sessionIdleTimeout n) s (closed p) ∧
      (∀ i, i.session = n → c.inTurn i 2 = true → Completes (.closeSession i) s (closed p))) ∧
    (∀ i g, c.hears i 1 = true → i.seq = 0 → c.openRepeats i g = none →
      (c.admits = true → (upFrom 0 4096).find? (fun k => (Tbl.find? c.serving.sessions k).isNone) = some n →
        Completes (.openSession i g) s fun d => (∃ x, Tbl.find? d.serving.sessions n = some ⟨i.src, g, x⟩ ∧ x.rxNext = 1) ∧
          d.serving.orders = c.serving.orders ++ [sessionOrder n i.src true] ∧ ∃ a, d.said n 0 (.opened n c.tailNode a)) ∧
      (c.admits = false → c.plainPort i.src.front = true → Completes (.openSession i g) s fun d => d.serving = c.serving ∧
        Out.tnp i.src ⟨ctrlSession, 0, 0, 0, 0, .status 1 0x10 none⟩ ∈ d.sent))

/-- A gateway's requests in turn on its session (R291 to R294, R304, R421).  A SUBMIT, clamped, that a check refuses is answered by
ADMIT with that check's status; else a new request takes the lowest free context and waits QUEUED with its clamped tokens, and a
CONTINUE feeds its last token and the new ones from its COMMIT on.  RESUME with the right handle makes its request QUEUED again.
CANCEL marks the end of its request, QUERY answers what the head knows of it, UNPIN unpins its handle's blocks; each answers 0x20
or 0x15 where there is none. -/
def Obligations.RequestsAreAnsweredInTheirStream : Prop :=
  ∀ (s : State) (i : TnpIn), s.chip.runs = true → i.src.front < 2 →
    let c := s.chip
    let n := i.session
    (∀ b, c.gatewayTurn i 3 = true →
      (c.admits = false → Completes (.submit i b) s fun d => d.said n 0 (.admitted b.clientTag 0x10 0) ∧
        d.serving.requests = c.serving.requests ∧
        d.rd R.SERVE_REFUSED_COUNT = min (c.rd R.SERVE_REFUSED_COUNT + 1) (2 ^ 32 - 1)) ∧
      (c.admits = true → c.tenantKnown i.tenant = true →
        let r := ((clampSubmit n (c.tenant i.tenant) { b with resume := false }).run c).1
        (∀ st, c.submitFail i.tenant i.request r = some st → Completes (.submit i b) s fun d =>
          d.said n 0 (.admitted b.clientTag st 0) ∧ d.serving.requests = c.serving.requests) ∧
        (∀ x, c.submitFail i.tenant i.request r = none → r.cont = false → c.freeContext = some x →
          Completes (.submit i b) s fun d => ∃ q, d.request x = some q ∧ q.tenant = i.tenant ∧ q.session = n ∧ q.state = 0 ∧
            q.feed = r.tokens ∧ q.params = r.params ∧ q.maxTokens = r.maxTokens ∧ q.priority = r.priority ∧
            q.request = c.node * 2 ^ 20 + Tbl.get 0 c.serving.reuse x % 16 * 2 ^ 16 + x ∧
            d.said n q.request (.admitted b.clientTag 0 q.next) ∧
            d.rd R.SERVE_ADMITTED_COUNT = (c.rd R.SERVE_ADMITTED_COUNT + 1) % 2 ^ 32) ∧
        (∀ x q, c.submitFail i.tenant i.request r = none → r.cont = true → c.findRequest i.request i.tenant = some (x, q) →
          Completes (.submit i b) s fun d => (∃ p, d.request x = some p ∧ p.request = q.request ∧ p.state = 0 ∧
            p.feed = q.last.toList ++ r.tokens ∧ p.base = q.commit ∧ p.next = q.commit ∧ p.commit = q.commit) ∧
            d.said n q.request (.admitted b.clientTag 0 q.commit)) ∧
        (∀ x q, c.findRequest i.request i.tenant = some (x, q) → q.marked = some (b.handle % 2 ^ 32) → b.handle / 2 ^ 32 = q.request →
          Completes (.resume i b) s fun d =>
            d.request x = some { q with marked := none, state := 0, next := q.commit, tookLast := false } ∧
            d.said n q.request (.admitted b.clientTag 0 q.commit)) ∧
        (∀ x q, c.findRequest i.request i.tenant = some (x, q) → q.marked = none →
          Completes (.resume i b) s fun d => d.said n 0 (.admitted b.clientTag 0x15 0) ∧ d.serving.requests = c.serving.requests))) ∧
    (c.gatewayTurn i 4 = true →
      (c.findRequest i.request i.tenant = none → Completes (.cancel i) s fun d => d.said n i.request (.status 4 0x20 none)) ∧
      (∀ x q, c.findRequest i.request i.tenant = some (x, q) → c.request x = some q → Completes (.cancel i) s fun d =>
        d.request x = some { q with ends := q.ends ++ [3] })) ∧
    (c.gatewayTurn i 5 = true →
      (c.findRequest i.request i.tenant = none → Completes (.query i) s fun d => d.said n i.request (.status 5 0x20 none)) ∧
      (∀ x q, c.findRequest i.request i.tenant = some (x, q) → Completes (.query i) s fun d =>
        d.said n i.request (.status 5 0 (some q.info)))) ∧
    (∀ handle, c.gatewayTurn i 6 = true →
      (c.pinnedUnder i.tenant handle = [] → Completes (.unpin i handle) s fun d => d.said n i.request (.status 6 0x15 none)) ∧
      (c.pinnedUnder i.tenant handle ≠ [] → Completes (.unpin i handle) s fun d => d.said n i.request (.status 6 0 none) ∧
        ∀ e ∈ c.pinnedUnder i.tenant handle, ∃ q, Tbl.find? d.prefixes e.1 = some q ∧ q.pinned = false))

/-- Step packets at the tail (R311): a gateway's ACK is kept as the last packet it has; RESEND sends again those of its kept packets
that lie in the range asked for, its count clamped to 1…1024 and counted, and answers GONE where a packet at or after the range's first
has left the window. -/
def Obligations.StepPacketsAreKeptForTheGateway : Prop :=
  ∀ (s : State) (i : TnpIn) (t : TailSession), s.chip.runs = true → i.src.front < 2 → i.session < 4096 →
    let c := s.chip
    Tbl.find? c.serving.tail i.session = some t → t.peer = i.src →
    (∀ step, c.hears i 7 = true → Completes (.stepAck i step) s fun d =>
      Tbl.find? d.serving.tail i.session = some { t with acked := some step } ∧ d.serving.requests = c.serving.requests ∧
      d.stream i.session = (c.stream i.session).map fun e => (e.1, if e.1 = i.src then e.2.acked i.ack else e.2)) ∧
    (∀ first count, c.hears i 8 = true → c.plainPort i.src.front = true → Completes (.resend i first count) s fun d =>
      let n := max 1 (min 1024 count)
      (∀ p ∈ t.packets, (p.1 + 2 ^ 32 - first) % 2 ^ 32 < n →
        Out.tnp t.peer ⟨i.session, 0, p.1, 0, 0, .step p.2.2 p.2.1⟩ ∈ d.sent) ∧
      (∀ g, t.gone = some g → (g + 2 ^ 32 - first) % 2 ^ 32 < 2 ^ 31 →
        Out.tnp t.peer ⟨i.session, i.tenant, 0, 0, 0, .status 8 0x22 none⟩ ∈ d.sent) ∧
      (count ≠ n → d.rd R.FAULT_CLAMP_COUNT (4 * srcGateway) =
        min (c.rd R.FAULT_CLAMP_COUNT (4 * srcGateway) + 1) (2 ^ 32 - 1)) ∧
      d.serving.tail = c.serving.tail)

/-! ## Control orders, the context store, loading -/

/-- Orders in turn on the control stream for the job (R164, R175, R177, R419).  EPOCH waits for the next SYNC edge, and is refused
while a job runs.  START is answered by the status of its first failing check; else, where nothing loads, trues or is programmed, the
job runs from B0 at step 0 in its gear, with no request.  STOP names a running job's last step, no earlier than the current one; it ends
a job in HOLD at once.  GEAR is kept for the head's next commit message; gear 3 changes nothing. -/
def Obligations.JobOrdersAct : Prop :=
  ∀ (s : State) (i : TnpIn), s.chip.runs = true → s.chip.calm = true → i.src.front < 2 →
    let c := s.chip
    let answers := fun (typ st : Nat) (d : Chip) => d.said ctrlSession i.request (.status typ st none)
    (∀ hi, c.controlTurn i 0x43 = true →
      (c.jobRuns = true → Completes (.epoch i hi) s fun d => answers 0x43 0x30 d ∧
        d.rd R.TIMEBASE_EPOCH_REJECT_COUNT = min (c.rd R.TIMEBASE_EPOCH_REJECT_COUNT + 1) (2 ^ 32 - 1)) ∧
      (c.jobRuns = false → Completes (.epoch i hi) s fun d => answers 0x43 0 d ∧
        d.rd R.TIMEBASE_EPOCH_EPOCH_HI = hi % 2 ^ 32 ∧ d.flag R.TIMEBASE_STATUS_EPOCH_PENDING = true)) ∧
    (∀ job gear b0 frames, c.controlTurn i 0x40 = true →
      (∀ st, c.startFail (job % 4096) (b0 % 2 ^ 48) = some st → Completes (.start i job gear b0 frames) s fun d =>
        answers 0x40 st d ∧ d.rd R.SEQ_STATE_STATE = c.rd R.SEQ_STATE_STATE ∧ d.seq = c.seq) ∧
      (c.startFail (job % 4096) (b0 % 2 ^ 48) = none → c.loads = [] → c.truings = [] →
        (∀ b, b < 49152 → c.arrState b ≠ arrProgram) → Completes (.start i job gear b0 frames) s fun d => answers 0x40 0 d ∧
          d.rd R.SEQ_STATE_STATE = seqRunning ∧ d.rd R.SEQ_STATE_GEAR = min 2 gear ∧ d.rd R.SEQ_B0_BEAT = b0 % 2 ^ 48 ∧
          d.rd R.SEQ_STEP_STEP = 0 ∧ d.rd R.FAULT_STATUS_REPLAY = 0 ∧ d.flag R.SEQ_LAST_VALID = false ∧
          d.seq.next = some (b0 % 2 ^ 48) ∧ d.seq.stopAt = none ∧ d.serving.requests = [])) ∧
    (∀ job last, c.controlTurn i 0x41 = true →
      (c.jobRuns = false ∨ c.rd R.SEQ_JOB_JOB ≠ job % 4096 → Completes (.stop i job last) s fun d => answers 0x41 0x10 d ∧
        d.rd R.SEQ_STATE_STATE = c.rd R.SEQ_STATE_STATE ∧ d.seq = c.seq) ∧
      (c.jobRuns = true → c.rd R.SEQ_JOB_JOB = job % 4096 →
        let cur := c.rd R.SEQ_STEP_STEP
        let stop := if stepBefore (last % 2 ^ 32) cur then cur else last % 2 ^ 32
        (c.rd R.SEQ_STATE_STATE = seqHold → Completes (.stop i job last) s fun d => answers 0x41 0 d ∧
          d.rd R.SEQ_STATE_STATE = seqAccepted ∧ d.flag R.FAULT_STATUS_HOLD = false ∧ d.serving.requests = [] ∧ d.seq.next = none) ∧
        (c.rd R.SEQ_STATE_STATE ≠ seqHold → stop ≠ cur ∨ c.seq.next = none ∨ c.flag R.SEQ_LAST_VALID = false →
          Completes (.stop i job last) s fun d => answers 0x41 0 d ∧ d.rd R.SEQ_STATE_STATE = seqStopping ∧
            d.seq = { c.seq with stopAt := some stop }))) ∧
    (∀ job gear, c.controlTurn i 0x42 = true →
      (c.stepping = false ∨ c.isHead = false ∨ c.rd R.SEQ_JOB_JOB ≠ job % 4096 → Completes (.gear i job gear) s fun d =>
        answers 0x42 0x10 d ∧ d.seq = c.seq) ∧
      (c.stepping = true → c.isHead = true → c.rd R.SEQ_JOB_JOB = job % 4096 → Completes (.gear i job gear) s fun d =>
        answers 0x42 0 d ∧ d.seq = if gear < 3 then
          { c.seq with gearOrder := if gear = c.seq.gearLater then none else some gear } else c.seq))

/-- The other orders in turn on the control stream (R240, R271, R272, R313, R314, R346, R411).  A TRANSIT that no check refuses joins the same
group of a dimension's two ports, each to the other, for its job; RELEASE makes them FREE.  TENANT waits, clamped, for the next admission
close.  PAGE_OUT and PAGE_IN move an IDLE and a REMOTE request.  REPLICA names this package's replica from the next step boundary; its
rows that name no package of the job reachable from here are counted.  A good shard of a cutting list that has others missing is
held; a corrupt one is counted and reported. -/
def Obligations.OrchestratorOrdersAct : Prop :=
  ∀ (s : State) (i : TnpIn), s.chip.runs = true → s.chip.calm = true → i.src.front < 2 →
    let c := s.chip
    let answers := fun (typ st : Nat) (d : Chip) => d.said ctrlSession i.request (.status typ st none)
    (∀ job dim group lanes enc, c.controlTurn i 0x44 = true →
      let dm := min 2 dim
      let gr := min 3 group
      (∀ e, c.transitFail dm gr lanes enc = some e → Completes (.transit i job dim group lanes enc) s fun d =>
        answers 0x44 e d ∧ d.links = c.links) ∧
      (c.transitFail dm gr lanes enc = none → Completes (.transit i job dim group lanes enc) s fun d => answers 0x44 0 d ∧
        ∀ p q, (p = 2 * dm ∧ q = 2 * dm + 1) ∨ (p = 2 * dm + 1 ∧ q = 2 * dm) →
          let g := p * 4 + gr
          d.grpOwner g = ownerTransit ∧ d.rd R.TORUS_GRP_STATE_JOB (lgOff g) = job % 4096 ∧
          d.flag R.TORUS_GRP_STATE_LANES8 (lgOff g) = decide (lanes = 8) ∧ d.flag R.TORUS_GRP_STATE_ENC (lgOff g) = enc ∧
          d.flag R.TORUS_GRP_TRANSIT_VALID (lgOff g) = true ∧ d.rd R.TORUS_GRP_TRANSIT_PORT_OUT (lgOff g) = q ∧
          d.rd R.TORUS_GRP_TRANSIT_GROUP_OUT (lgOff g) = gr ∧ d.grpState g = if c.lit g then grpTraining else grpDown)) ∧
    (∀ dim group, c.controlTurn i 0x45 = true → Completes (.release i dim group) s fun d => answers 0x45 0 d ∧
      ∀ p, p = 2 * min 2 dim ∨ p = 2 * min 2 dim + 1 →
        let g := p * 4 + min 3 group
        if c.grpOwner g = ownerTransit then d.grpOwner g = ownerFree ∧ d.grpState g = grpUnused
        else d.grpOwner g = c.grpOwner g ∧ d.grpState g = c.grpState g) ∧
    (∀ o, c.controlTurn i 0x46 = true → Completes (.tenant i o) s fun d => answers 0x46 0 d ∧
      Tbl.find? d.serving.tenantNext i.tenant = some { o with
        cls := min 3 o.cls, policy := min 2 o.policy, maxActive := min 65536 o.maxActive
        maxContext := max 1 (min 1048576 o.maxContext) } ∧
      d.serving.tenants = c.serving.tenants) ∧
    (∀ id handle, c.controlTurn i 0x47 = true →
      (c.admits = false → Completes (.pageOut i id handle) s (answers 0x47 0x10)) ∧
      (c.admits = true → c.requestById id = none → Completes (.pageOut i id handle) s (answers 0x47 0x20)) ∧
      (∀ x q, c.admits = true → c.requestById id = some (x, q) → q.state ≠ 2 → Completes (.pageOut i id handle) s (answers 0x47 0x1A)) ∧
      (∀ x q, c.admits = true → c.requestById id = some (x, q) → c.request x = some q → q.state = 2 →
        Completes (.pageOut i id handle) s fun d => answers 0x47 0 d ∧ d.request x = some { q with state := 3 } ∧
          d.serving.orders = c.serving.orders ++ [{ noOrder with op := 6, context := x, request := id, handle := handle }])) ∧
    (∀ id, c.controlTurn i 0x48 = true →
      (∀ x q, c.admits = true → c.requestById id = some (x, q) → q.state ≠ 3 → Completes (.pageIn i id) s (answers 0x48 0x1A)) ∧
      (∀ x q, c.admits = true → c.requestById id = some (x, q) → c.request x = some q → q.state = 3 →
        Completes (.pageIn i id) s fun d => answers 0x48 0 d ∧ d.request x = some { q with state := 2 } ∧
          d.serving.orders = c.serving.orders ++ [{ noOrder with op := 7, context := x, request := id }])) ∧
    (∀ job rows, c.controlTurn i 0x49 = true →
      let good := fun (r : ReplicaRow) => (c.seq.jobs.any fun e => decide (e.node = r.replica % 4096)) &&
        !decide (r.replica % 4096 = c.node) && c.flag R.TORUS_PATH_VALID (4 * (r.replica % 4096))
      let me := (indexOf (fun e : JobEntry => decide (e.node = c.node)) c.seq.jobs).getD 0
      (c.rd R.SEQ_STATE_STATE = seqEmpty ∨ c.rd R.SEQ_JOB_JOB ≠ job % 4096 → Completes (.replica i job rows) s fun d =>
        d.replicaNext = c.replicaNext) ∧
      (c.rd R.SEQ_STATE_STATE ≠ seqEmpty → c.rd R.SEQ_JOB_JOB = job % 4096 → Completes (.replica i job rows) s fun d =>
        d.replicaNext = (match (rows.filter fun r => good r && decide (r.index = me)).getLast? with
          | some r => some ⟨r.replica % 4096, r.crc⟩
          | none => c.replicaNext) ∧
        (rows.any (fun r => !good r) = true → d.flag R.FAULT_CLAMP_SRC_VALID = true))) ∧
    (∀ h data, c.controlTurn i 0x4B = true → h.dest = c.node → h.abort = false → h.repair = false →
      (∀ l, h.kind = 2 → c.loadOf 2 h.object = some l → l.got.contains h.index = false → l.got.length + 1 < l.count →
        h.index < h.count → data ≠ [] → data.length ≤ 1048576 →
        (c.loads.map (·.stagedLines)).foldl (· + ·) 0 + cdiv data.length 32 ≤ ((upFrom 0 8).map fun d => c.regionLines d 6).foldl (· + ·) 0 →
        Completes (.shard i h true data) s fun d => d.loadOf 2 h.object = some { l with
          got := l.got ++ [h.index], pieces := Tbl.insert h.offset data l.pieces, state := if l.state = 5 then 1 else l.state }) ∧
      (c.loadOf h.kind h.object = none → c.reports = [] → Completes (.shard i h false data) s fun d =>
        d.rd R.LOAD_NAKS_COUNT = min (c.rd R.LOAD_NAKS_COUNT + 1) (2 ^ 32 - 1) ∧ d.loads = c.loads ∧
        d.said ctrlSession 0 (.report [⟨1, h.kind, 0, h.object, h.index, 0⟩])))

/-- Paging, zeroed frames and the patrol scrub (R267, R271 to R273, R275).  A stored image leaves the list of a page-out, whose last
one leaves the context REMOTE without frames; an image that comes back with a right tag is written to its frame, under the page's key,
the last one leaving the context RESIDENT.  An image that is late is asked for again up to PAGE_RETRIES times; then the context is
LOST.  A dirty frame is zeroed and free.  The scrub reads the next unit: codewords of at most two symbol errors are corrected and
counted. -/
def Obligations.ContextStoreKeepsItsPages : Prop :=
  ∀ (s : State), s.chip.runs = true → s.chip.calm = true →
    let c := s.chip
    (∀ (i : TnpIn) (id : ImageId) (x : Nat) (p : Paging), i.session = pagingSession → id.die < 8 →
      c.pagedContext id i.request = some x → c.paging id.die x = some p →
      let left := p.waiting.filter (· != id.page)
      let o := dieOff id.die
      (p.out = true → c.hears i 0x61 = true →
        (left ≠ [] → Completes (.putAck i id 0x40) s fun d => d.paging id.die x = some { p with waiting := left } ∧ d.descs = c.descs) ∧
        (left = [] → Completes (.putAck i id 0x40) s fun d => d.paging id.die x = none ∧
          (d.ctxDesc id.die x).state = ctxRemote ∧ (d.ctxDesc id.die x).entries = [] ∧
          d.rd R.CTX_PAGE_OUT_COUNT o = min (c.rd R.CTX_PAGE_OUT_COUNT o + 1) (2 ^ 32 - 1))) ∧
      (∀ image tag key mac e, p.out = false → c.hears i 0x63 = true → c.key keyTenantData (c.ctxDesc id.die x).tenant = some key →
        c.key keyTenantMac (c.ctxDesc id.die x).tenant = some mac → Tbl.find? (c.ctxDesc id.die x).entries id.page = some e →
        key.length = 64 → cmac mac image = tag → image.length = 32 * c.rd R.CTX_FRAME_CFG_FRAME_LINES o →
        Completes (.pagingData i id image tag) s fun d =>
          let n := c.rd R.CTX_FRAME_CFG_FRAME_LINES o
          let at_ := fun l => globalLine id.die (c.pageLine id.die e.frame 0 + l)
          d.kv = (upFrom 0 n).foldl (fun m l => putBytes m (32 * at_ l) (xts false key (at_ l) ((xts true key
            (imageTweak (c.ctxDesc id.die x).handle c.node id.die (id.page * n + l)) ((image.drop (32 * l)).take 32)).take 32))) c.kv ∧
          (left ≠ [] → d.paging id.die x = some { p with waiting := left }) ∧
          (left = [] → d.paging id.die x = none ∧ (d.ctxDesc id.die x).state = ctxResident ∧
            d.rd R.CTX_PAGE_IN_COUNT o = min (c.rd R.CTX_PAGE_IN_COUNT o + 1) (2 ^ 32 - 1)))) ∧
    (∀ d x page p, d < 8 → c.paging d x = some p →
      let n := Tbl.get 0 p.retries page
      (p.waiting.contains page = false → Becomes (.pagingTimeout d x page) s c) ∧
      (p.waiting.contains page = true → p.out = false → n < c.rd R.CTX_PAGE_CFG_PAGE_RETRIES (dieOff d) →
        Completes (.pagingTimeout d x page) s fun e =>
          e.paging d x = some { p with retries := Tbl.modify 0 p.retries page (· + 1) } ∧
          e.rd R.CTX_PAGE_FAIL_REFETCH (dieOff d) = min (c.rd R.CTX_PAGE_FAIL_REFETCH (dieOff d) + 1) (2 ^ 16 - 1)) ∧
      (p.waiting.contains page = true → c.rd R.CTX_PAGE_CFG_PAGE_RETRIES (dieOff d) ≤ n → Completes (.pagingTimeout d x page) s fun e =>
        e.paging d x = none ∧ (e.ctxDesc d x).state = ctxLost ∧ (e.ctxDesc d x).entries = [] ∧
        e.rd R.CTX_PAGE_FAIL_LOST (dieOff d) = min (c.rd R.CTX_PAGE_FAIL_LOST (dieOff d) + 1) (2 ^ 16 - 1))) ∧
    (∀ d f x, (c.busyFrames d).find? (·.2.dirty) = some (f, x) → Completes (.frameZeroed d) s fun e => e.frame d f = noFrame ∧
      let first := globalLine d (c.pageLine d f 0)
      ∀ a, Tbl.get (0 : Byte) e.kv a =
        if first * 32 ≤ a ∧ a < (first + c.rd R.CTX_FRAME_CFG_FRAME_LINES (dieOff d)) * 32 then 0 else Tbl.get (0 : Byte) c.kv a) ∧
    (∀ d ups, d < 8 →
      let errs := ups.foldl (fun m u => Tbl.modify 0 m u.1 (· + u.2)) c.ctxErr
      let u := Tbl.get 0 c.ctxScrub d
      let lines := upFrom (16 * u) 16
      (c.flag R.CTX_STATUS_SCRUB_ON (dieOff d) = false → Becomes (.ctxScrubRead d ups) s { c with ctxErr := errs }) ∧
      (c.flag R.CTX_STATUS_SCRUB_ON (dieOff d) = true → (∀ l ∈ lines, Tbl.get 0 errs (globalLine d l) ≤ 2) →
        Completes (.ctxScrubRead d ups) s fun e => Tbl.get 0 e.ctxScrub d = (u + 1) % stackUnits ∧ e.kv = c.kv ∧
          (∀ a, Tbl.get 0 e.ctxErr a = if a ∈ lines.map (globalLine d) then 0 else Tbl.get 0 errs a) ∧
          e.rd R.CTX_CORRECTED_COUNT (dieOff d) = (lines.foldl (fun y l => if Tbl.get 0 errs (globalLine d l) = 0 then y
            else y.bump R.CTX_CORRECTED_COUNT (dieOff d) 1) c).rd R.CTX_CORRECTED_COUNT (dieOff d)))

/-- Programming a board, the loaders' timeouts and reports (R80, R105, R350, R355, R356, R363, R365).  A PROGRAM window starts on a
board whose copy has rows left, outside a job at once and in a step in its window, and ends with the board READY or EMPTY; a row starts within the power
budget and its window, the first one counting the board's wear; a completed row holds the intended codes.  A written insole is
STANDBY.  READY and FAIL at the head keep the set of packages that hold the object.  An object that waits for shards becomes
INCOMPLETE at its timeout, which is reported. -/
def Obligations.BoardsAreProgrammedRowByRow : Prop :=
  ∀ (s : State) (b : Nat), s.chip.runs = true → s.chip.calm = true → b < 49152 →
    let c := s.chip
    (∀ deferred, c.boardLoad b = none → Becomes (.programWindowStart b deferred) s c) ∧
    (∀ deferred l k, c.boardLoad b = some (l, k) → l.mode ≠ 2 → k.next < k.rows → c.arrState b ∈ [arrEmpty, arrReady, arrHeld] →
      c.programming (b / 6144) < 1536 → c.jobRuns = false ∨ (c.stepping = true ∧ (c.windowNow b 1).isSome = true) →
      Completes (.programWindowStart b deferred) s fun d => d.arrState b = arrProgram ∧ (d.board b).before = c.arrState b ∧
        d.rd R.SEQ_DEFER_COUNT = if deferred then min (c.rd R.SEQ_DEFER_COUNT + 1) (2 ^ 32 - 1) else c.rd R.SEQ_DEFER_COUNT) ∧
    (c.arrState b = arrProgram → Completes (.programWindowEnd b) s fun d =>
      d.arrState b = if c.copyValid b && (c.board b).trued then arrReady else arrEmpty) ∧
    (c.arrState b ≠ arrProgram → Becomes (.programWindowEnd b) s c) ∧
    (∀ l k, c.boardLoad b = some (l, k) → c.arrState b = arrProgram → k.busy = false → k.next < k.rows → 38 ≤ c.windowLeft b →
      (c.flag R.PWR_STATUS_PFAIL = true → Becomes (.programRow b) s c) ∧
      (c.flag R.PWR_STATUS_PFAIL = false → c.progBoards (b / 6144) < 1536 →
        (c.rd R.PWR_CAP_CAP_W * watt < c.power + 60 * 2 ^ 40 → Becomes (.programRow b) s
          (c.bump R.PWR_D_PROG_DEFER_COUNT (dieWin (b / 6144)) 1)) ∧
        (c.power + 60 * 2 ^ 40 ≤ c.rd R.PWR_CAP_CAP_W * watt →
          (k.counted = true → Completes (.programRow b) s fun d => ∃ m, d.boardLoad b = some (m, { k with busy := true }) ∧
            d.wear = c.wear) ∧
          (k.counted = false → (c.wearOf b).count < 15999 → Completes (.programRow b) s fun d =>
            (∃ m, d.boardLoad b = some (m, { k with busy := true, counted := true })) ∧
            d.wearOf b = if k.up then { c.wearOf b with count := (c.wearOf b).count + 1, validU := false, genU := 0 }
              else { c.wearOf b with count := (c.wearOf b).count + 1, validL := false, genL := 0 })))) ∧
    (∀ l k, c.boardLoad b = some (l, k) → k.busy = true → k.trued = false → k.done = false → Completes (.rowComplete b []) s fun d =>
      let row := (if k.up then 512 else 0) + k.next
      (∃ m, d.boardLoad b = some (m, { k with busy := false, next := nextRow k.rows k.skip (k.next + 1) })) ∧
      ∀ col, col < 512 → d.pairCodes b row col = c.wantCodes b row col) ∧
    (∀ t n j, t < 384 → n < 64 → c.insoleJobs.find? (fun j => decide (j.tile = t ∧ j.desc = n)) = some j →
      c.loadOf 3 j.object = none → Completes (.insoleSlotsWritten t n) s fun d => (d.desc t n).state = 2 ∧
        d.insoleJobs = c.insoleJobs.filter fun k => !decide (k = j)) ∧
    (∀ (h : Hdr) kind node obj code, let r := c.received h
      (c.takesFlit h (.ctrl (.ready kind node obj code)) = true → Becomes (.ready h kind node obj code) s
        (if r.isHead then r.withReady kind node obj true else r)) ∧
      (c.takesFlit h (.ctrl (.fail kind node obj code)) = true → Becomes (.fail h kind node obj code) s
        (if r.isHead then r.withReady kind node obj false else r))) ∧
    (∀ kind obj, (c.loadOf kind obj = none → Becomes (.loadTimeout kind obj) s c) ∧
      ∀ l k, c.loadOf kind obj = some l → l.missing = some k → c.reports = [] → Completes (.loadTimeout kind obj) s fun d =>
        d.loadOf kind obj = some { l with state := 5 } ∧
        let r : Report := ⟨2, kind, 0, obj, k, 0⟩
        (c.serving.orch = none → d.reports = [r]) ∧ (c.serving.orch.isSome = true → d.said ctrlSession 0 (.report [r])))

/-! ## Truing and recovery -/

/-- Truings (R375 to R380, R385, R387) and the converter (R389 to R393), where no pattern loads.  A TRACK truing begins in a board's window, a free one
with no job on the tile's next board, at most four at once.  One that passes puts its taps in force, zeroes DRIFT and is dated, and leaves the board
READY where its copy is valid; one that fails leaves its old taps and a board out of service; one that its window's end cuts
leaves the old taps and state, and is DUE.  A conversion enters the channel's filter, whose every D-th sample gives a result. -/
def Obligations.TruingsPassFailOrAreCut : Prop :=
  ∀ (s : State) (b : Nat), s.chip.runs = true → s.chip.calm = true → s.chip.loads = [] → b < 49152 →
    let c := s.chip
    let o := boardOff b
    let begun := fun (x k : Nat) (free : Bool) (d : Chip) => d.arrState x = arrTruing ∧ Tbl.find? d.truings x = some
      { kind := k, free := free, before := c.arrState x, taps := c.tapsOf x, drift := c.driftWords x, result := none, found := [] }
    let image := fun (ts : List Nat) => ((ts ++ zeroTaps).take 496).map (· % 256)
    let passed := fun (tr : Truing) (ts : List Nat) (d : Chip) => Tbl.find? d.truings b = none ∧
      d.arrState b = (if c.copyValid b then arrReady else arrEmpty) ∧
      d.tapsOf b = (if tr.kind = truingVerify then c.tapsOf b else image ts) ∧
      (∀ w, w < 64 → d.rd R.TRUE_DRIFT_TAPS (o + 4 * w) = 0) ∧ d.rd R.TRUE_BOARD_STATE_LAST_RESULT o = 1 ∧
      d.rd R.ARRAY_CAL_COUNT_COUNT o = min (c.rd R.ARRAY_CAL_COUNT_COUNT o + 1) (2 ^ 16 - 1) ∧
      d.rd R.ARRAY_CAL_BEAT_BEAT o = c.rd R.TIMEBASE_BEAT_BEAT % 2 ^ 48
    (∀ deferred, c.stepping = true → c.inGap = false → (c.windowNow b 2).isSome = true → c.tileIn b = true →
      c.arrState b = arrReady → Completes (.truingWindowStart b deferred) s (begun b truingTrack false)) ∧
    (∀ t, c.jobRuns = false → (c.truings.filter fun e => decide (tileOfBoard e.1 = t)).length < 4 →
      (c.nextTruing t = none → Becomes (.freeTruingStart t) s c) ∧
      (∀ x k, c.nextTruing t = some (x, k) → x < 49152 → Completes (.freeTruingStart t) s (begun x k true))) ∧
    (∀ tr, Tbl.find? c.truings b = some tr → c.arrState b = arrTruing →
      (∀ search verify ts found, tr.result = none →
        (tr.free = false ∨ (c.jobRuns = true ∧ c.inGap = false) → Becomes (.truingComplete b search verify ts found) s
          { c with truings := Tbl.insert b { tr with result := some (truingResult tr.kind search verify ts) } c.truings }) ∧
        (tr.free = true → c.jobRuns = false →
          ((truingResult tr.kind search verify ts).1 = 0 → Completes (.truingComplete b search verify ts found) s (passed tr ts)) ∧
          ((truingResult tr.kind search verify ts).1 ≠ 0 → tr.kind ≠ truingVerify → Completes (.truingComplete b search verify ts found) s fun d =>
            d.arrState b ∈ [arrShelved, arrHeld] ∧ d.tapsOf b = image tr.taps ∧ d.rd R.TRUE_BOARD_STATE_LAST_RESULT o = 2 ∧
            d.rd R.TRUE_BOARD_STATE_FAIL_CAUSE o = (truingResult tr.kind search verify ts).1))) ∧
      (∀ rows found, tr.free = false → tr.found = [] →
        (tr.result = none → Completes (.truingWindowEnd b rows found) s fun d => Tbl.find? d.truings b = none ∧
          d.arrState b = tr.before % 8 ∧ d.tapsOf b = image tr.taps ∧ d.rd R.TRUE_BOARD_STATE_LAST_RESULT o = 3 ∧
          d.flag R.TRUE_BOARD_STATE_DUE o = true) ∧
        (∀ ts, tr.result = some (0, ts) → Completes (.truingWindowEnd b rows found) s (passed tr ts)))) ∧
    (∀ d, d < 8 → Becomes (.refSettle d) s (c.wr R.MON_STATUS_REF_SETTLED (dieOff d) 1)) ∧
    (∀ d scaled, d < 8 → Tbl.get 0 c.suspect d = 0 →
      let ch := c.nextChannel d
      let p := dieOff d + 4 * ch
      let code := monCode scaled
      let n := c.rd R.MON_FILT_ORDER_M1 p + 1
      let dec := c.rd R.MON_FILT_DECIM_M1 p + 1
      let x : MonChan := ⟨((code.1, code.2.1) :: (c.monChan d ch).samples).take (n * (dec - 1) + 1), (c.monChan d ch).count + 1⟩
      ch < 32 → ch ∉ upFrom 9 7 → ch ≠ 20 → Completes (.monConversion d scaled) s fun e => e.monChan d ch = x ∧
        Tbl.get 0 e.convs d = Tbl.get 0 c.convs d + 1 ∧
        (code.2.1 = true → bit (e.rd R.MON_OVR_OVR (dieOff d)) ch = true) ∧
        (x.count % dec = 0 → e.rd R.MON_LAST_VALUE p = (filterResult n dec x).1 ∧
          e.rd R.MON_RESULTS_COUNT (dieOff d) = (c.rd R.MON_RESULTS_COUNT (dieOff d) + 1) % 2 ^ 32) ∧
        (x.count % dec ≠ 0 → e.rd R.MON_LAST_VALUE p = c.rd R.MON_LAST_VALUE p))

/-- The response to an error at the head and the packages (R407 to R410, R418, R419).  A notice of a later step waits at the head;
one of the running run orders the next replay, or settles the step once MAX_REPLAYS are spent.  A package takes a newer replay of its
step, and starts it with every tile in REPLAY; it takes SETTLE; it goes into HOLD with the head at the step boundary, its requests marked for
resume.  A probe that finds no tile missing is answered so; answers are ticked off; packages that do not answer are counted. -/
def Obligations.RunsAreReplayedSettledOrHeld : Prop :=
  ∀ (s : State) (h : Hdr), s.chip.runs = true → s.chip.calm = true →
    let c := s.chip
    let r := c.received h
    let step := r.rd R.SEQ_STEP_STEP
    let replay := r.rd R.FAULT_STATUS_REPLAY
    (∀ n, c.takesFlit h (.ctrl (.notice n)) = true →
      (r.isHead = false ∨ r.stepping = false → Becomes (.faultNotice h n) s r) ∧
      (r.isHead = true → r.stepping = true → n.step ≠ step → stepBefore n.step step = false →
        Becomes (.faultNotice h n) s { r with notices := c.notices ++ [n] }) ∧
      (r.isHead = true → r.stepRuns = true → r.seq.commitOwn = none → r.flag R.FAULT_STATUS_SETTLING = false → r.probing = none →
        n.step = step → n.replay = replay → ¬(n.cls = 4 ∧ n.cause = 0x4A) →
        (replay < r.rd R.FAULT_CFG_MAX_REPLAYS → Completes (.faultNotice h n) s fun d => d.rd R.FAULT_STATUS_REPLAY = (replay + 1) % 16 ∧
          d.flag R.FAULT_STATUS_REPLAYING = true ∧ d.replayAt = some (r.localBeat (r.headBeat +
            r.rd (if n.cls = 1 ∨ n.cls = 2 ∨ n.cls = 3 then R.FAULT_GAP_READMIT_GAP else R.FAULT_GAP_REPLAY_GAP)))) ∧
        (r.rd R.FAULT_CFG_MAX_REPLAYS ≤ replay → Completes (.faultNotice h n) s fun d =>
          d.flag R.FAULT_STATUS_SETTLING = true ∧ d.seq.commitOwn.isSome = true))) ∧
    (∀ count k start, c.takesFlit h (.ctrl (.replay count k start)) = true →
      (r.takesReplay count k = false → Becomes (.replay h count k start) s r) ∧
      (r.takesReplay count k = true → r.beat ≤ r.localBeat start → Completes (.replay h count k start) s fun d =>
        d.rd R.FAULT_STATUS_REPLAY = count % 16 ∧ d.flag R.FAULT_STATUS_REPLAYING = true ∧ d.replayAt = some (r.localBeat start) ∧
        d.runFault = false ∧ d.arrived = false ∧ d.jobPegs = [])) ∧
    (∀ b, c.replayAt = some b → c.stepRuns = true → c.flag R.FAULT_STATUS_SETTLING = false → c.pkgCauses = [] → c.seq.skip = false →
      c.truings = [] → (∀ t, t < 384 → c.tileState t ≠ tileShelved) → Completes .replayStart s fun d => d.replayAt = none ∧
        d.rd R.FAULT_REPLAYS_COUNT = min (c.rd R.FAULT_REPLAYS_COUNT + 1) (2 ^ 32 - 1) ∧
        ∀ t, t < 384 → d.tileState t = tileReplay ∧ d.pc t = 0) ∧
    (∀ count k, c.takesFlit h (.ctrl (.settle count k)) = true → Becomes (.settle h count k) s
      (if r.stepRuns = true ∧ k = step then r.wr R.FAULT_STATUS_SETTLING 0 1 else r)) ∧
    (∀ cause k node, c.takesFlit h (.ctrl (.hold cause k node)) = true →
      (r.stepping = false → Becomes (.hold h cause k node) s r) ∧
      (r.stepping = true → Completes (.hold h cause k node) s fun d => d.holdCause = if c.holdCause = 0 then 6 else c.holdCause)) ∧
    (c.stepping = true → c.seq.next.isSome = true → c.holdCause ≠ 0 → Completes .holdEntry s fun d =>
      d.rd R.SEQ_STATE_STATE = seqHold ∧ d.flag R.FAULT_STATUS_HOLD = true ∧
      d.rd R.FAULT_STATUS_HOLD_CAUSE = c.holdCause % 2 ^ 8 ∧ d.holdCause = 0 ∧ d.faultQueue = [] ∧
      d.rd R.FAULT_HOLDS_COUNT = min (c.rd R.FAULT_HOLDS_COUNT + 1) (2 ^ 32 - 1) ∧
      (c.isTail = false → d.serving.requests = Tbl.mapVals (fun _ q => if q.state = 0 ∨ q.state = 1 then
        { q with state := 2, marked := some q.commit } else q) c.serving.requests)) ∧
    (∀ k, c.takesFlit h (.ctrl (.probe k)) = true → r.stepRuns = true → k = step → r.notArrived = [] → Becomes (.probe h k) s
      (match r.routeOf r.headNode with
        | none => r
        | some g => r.queued g ⟨r.headNode, r.rd R.SEQ_JOB_JOB, 0, .ctrl (.probeReply r.node k [])⟩)) ∧
    (∀ node b left, c.takesFlit h (.ctrl (.probeReply node step [])) = true → c.probing = some (b, left) → node ∈ left →
      left.filter (· != node) ≠ [] → Becomes (.probeReply h node step []) s { r with probing := some (b, left.filter (· != node)) }) ∧
    (c.probing = none → Becomes .noReply s c) ∧
    (∀ b left, c.probing = some (b, left) → left ≠ [] → Completes .noReply s fun d =>
      d.rd R.FAULT_CAUSE_COUNT (4 * 0x49) = min (c.rd R.FAULT_CAUSE_COUNT (4 * 0x49) + left.length) (2 ^ 32 - 1))

/-- The replica service (R412, R413).  A request that a check refuses is counted and answered with the check's status; one that passes is
charged to the serving tile's reserve and computed; its return counts it served.  At the requester a good answer completes the ARR, and a
refusal or a timeout leaves it without a result: counted, reported, its share uncovered (R410). -/
def Obligations.ReplicasServeArrays : Prop :=
  ∀ (s : State) (h : Hdr) (q : ReplicaReq), s.chip.runs = true → s.chip.calm = true →
    let c := s.chip
    let r := c.received h
    let t := q.die * 48 + q.tile
    let refused := fun (x : Chip) (o : ReplicaOut) (d : Chip) =>
      d.replicaOut = dropFirst (fun y => decide (y = o)) c.replicaOut ∧
      (d.tile o.tile).issued = dropFirst (fun i => i.index = o.index && i.replica) (c.tile o.tile).issued ∧
      d.rd R.FAULT_REPLICA_REFUSED_OUT = min (x.rd R.FAULT_REPLICA_REFUSED_OUT + 1) (2 ^ 16 - 1) ∧
      (∃ e ∈ d.reports, e.event = 0x16 ∧ e.unit = unitWord (o.tile / 48) (o.tile % 48)) ∧
      d.tack = c.tack ++ [.fault (o.tile / 48) 4 0 (x.rd R.FAULT_STATUS_REPLAY) 0x4A]
    (c.takesFlit h (.ctrl (.replicaReq q)) = true →
      (r.replicaCheck q ≠ 0 → Completes (.replicaReq h q) s fun d => d.replicaServe = c.replicaServe ∧
        d.rd R.FAULT_REPLICA_REFUSED_IN = min (r.rd R.FAULT_REPLICA_REFUSED_IN + 1) (2 ^ 16 - 1)) ∧
      (∀ v, r.replicaCheck q = 0 → r.servedArr q = some v → Completes (.replicaReq h q) s fun d =>
        d.replicaServe = c.replicaServe ++ [v] ∧ (d.tile t).charged = (c.tile t).charged + standinStrokes q.vcount (v.run r))) ∧
    (∀ k v, c.replicaServe[k]? = some v → Completes (.replicaReturn k) s fun d => d.replicaServe = c.replicaServe.eraseIdx k ∧
      d.rd R.FAULT_REPLICA_SERVED_COUNT = min (c.rd R.FAULT_REPLICA_SERVED_COUNT + 1) (2 ^ 32 - 1)) ∧
    (∀ status, c.takesFlit h (.ctrl (.replicaDone q status)) = true →
      let sought := c.replicaOut.find? fun o => decide (o.tile = t ∧ o.index = q.index)
      (sought = none ∨ q.step ≠ r.stepNow ∨ q.replay ≠ r.replayNow → Becomes (.replicaDone h q status) s r) ∧
      (∀ o, sought = some o → q.step = r.stepNow → q.replay = r.replayNow →
        (status ≠ 0 → Completes (.replicaDone h q status) s (refused r o)) ∧
        (status = 0 → Completes (.replicaDone h q status) s fun d =>
          d.replicaOut = dropFirst (fun y => decide (y = o)) c.replicaOut ∧
          ∀ i ∈ (d.tile t).issued, i.index = q.index → i.replica = false))) ∧
    (∀ k o, c.replicaOut[k]? = some o → Completes (.replicaTimeout k) s (refused c o))

/-- Units leave and return (R406, R415, R416, R420, R426).  A unit that passes its test is in service again and is reported; one that fails counts a
shelving, its third within 86,400 operating seconds leaving it HELD.  SHELVE, with no step running, shelves the tile or board named, with cause MGMT; READMIT
orders the test of a tile that is SHELVED, at once or in the next replay gap, and the truing of a SHELVED board; for any other it is one clamp event.
A marked request that is not resumed in time ends at the next close. -/
def Obligations.UnitsLeaveAndReturn : Prop :=
  ∀ (s : State), s.chip.runs = true → s.chip.calm = true →
    let c := s.chip
    (∀ cls n pass, 1 ≤ cls → cls ≤ 3 → n < 384 →
      let key := unitKey cls n
      (c.testing.contains key = false → Becomes (.unitTestDone cls n pass) s c) ∧
      (c.testing.contains key = true → Completes (.unitTestDone cls n pass) s fun d => d.testing = c.testing.filter (· != key) ∧
        (pass = true → c.held cls n = false → d.out cls n = false ∧ ∃ e ∈ d.reports, e.event = 0x11 ∧ e.cls = cls) ∧
        (pass = false → d.heldUnits = if 2 ≤ c.shelvings key then c.heldUnits ++ [key] else c.heldUnits))) ∧
    (∀ die idx, c.stepping = false → Tbl.get [] c.faultQueue (die % 8) = [] →
      let t := die % 8 * 48 + min 47 idx
      let b := die % 8 * 6144 + min 6143 idx
      (c.outOrInside 1 (die % 8) (min 47 idx) = true → idx < 48 → Completes (.shelve 1 die idx) s fun d =>
        d.rd R.FAULT_ABSORBED_COUNT = min (c.rd R.FAULT_ABSORBED_COUNT + 1) (2 ^ 32 - 1) ∧ d.reports = c.reports) ∧
      (c.outOrInside 1 (die % 8) (min 47 idx) = false → Completes (.shelve 1 die idx) s fun d => d.tileState t = tileShelved ∧
        d.flag R.MGMT_ALERT_STATUS_FAULT = true ∧ ∃ e ∈ d.reports, e.event = 0x10 ∧ e.cls = 1 ∧ e.cause = 0x08) ∧
      (c.outOrInside 0 (die % 8) (min 6143 idx) = false → c.arrState b = arrReady → Completes (.shelve 0 die idx) s fun d =>
        d.arrState b ∈ [arrShelved, arrHeld] ∧ ∃ e ∈ d.reports, e.event = 0x10 ∧ e.cls = 0 ∧ e.cause = 0x08)) ∧
    (∀ die idx, idx < 48 →
      let t := die % 8 * 48 + idx
      let key := unitKey 1 t
      (c.out 1 t = true → c.held 1 t = false → Becomes (.readmit 1 die idx) s
        (if c.jobRuns then { c with readmits := c.readmits.filter (· != key) ++ [key] }
          else { c with testing := c.testing.filter (· != key) ++ [key] })) ∧
      (c.out 1 t = false ∨ c.held 1 t = true → Completes (.readmit 1 die idx) s fun d =>
        d.rd R.FAULT_CLAMP_COUNT (4 * srcMgmt) = min (c.rd R.FAULT_CLAMP_COUNT (4 * srcMgmt) + 1) (2 ^ 32 - 1) ∧
        d.testing = c.testing ∧ d.readmits = c.readmits)) ∧
    (∀ die idx, idx < 6144 → c.jobRuns = false → c.arrState (die % 8 * 6144 + idx) = arrShelved →
      Completes (.readmit 0 die idx) s fun d => d.arrState (die % 8 * 6144 + idx) = arrTruing) ∧
    (∀ x q, c.request x = some q →
      (q.marked = none → Becomes (.resumeExpiry x) s c) ∧
      (q.marked.isSome = true → Completes (.resumeExpiry x) s fun d =>
        d.request x = some { q with marked := none, ends := q.ends ++ [3] } ∧
        d.rd R.FAULT_RESUMES_EXPIRED = min (c.rd R.FAULT_RESUMES_EXPIRED + 1) (2 ^ 16 - 1)))

/-! ## Lifecycle and keys -/

/-- Lifecycle orders (R428, R429, R432, R444, R448).  An order while one is busy is dropped (log 9); any other is answered in SEC_LC_STATUS, and one
that succeeds blows its fuses, which the state follows at the next power-on reset only.  A TOKEN order always advances the challenge, and is carried out
where it passes every check; an accepted DEBUG token erases every key, closes every session and frees every lane group, and DEBUG begins once the
scratchpads, tags, insole arrays and every stack that has not failed are zero. -/
def Obligations.LifecycleOrdersAreCheckedAndAct : Prop :=
  ∀ (s : State), s.chip.runs = true →
    let c : Chip := { s.chip with sent := [] }
    let busy := c.flag R.SEC_LC_STATUS_BUSY
    let ended := fun (command result : Nat) (f : Fuses) (d : Chip) => d.rd R.SEC_LC_STATUS_VALID = 1 ∧ d.rd R.SEC_LC_STATUS_BUSY = 0 ∧
      d.rd R.SEC_LC_STATUS_COMMAND = command ∧ d.rd R.SEC_LC_STATUS_RESULT = result ∧ d.fuses = f ∧ d.lifecycle = c.lifecycle
    let b := c.wordsAt R.SEC_PROV_BYTES 32
    let provisions := c.lifecycle = lcManufacture ∧ programmed (b.take 32) = true ∧ programmed ((b.drop 32).take 48) = true
    (busy = true → Becomes .provision s c ∧ Becomes .decommission s c) ∧
    (busy = false →
      (provisions → Completes .provision s (ended 0 0 { c.fuses with
        lc := c.fuses.lc ||| 1, pkgKey := blow c.fuses.pkgKey (b.take 32), owner0 := blow c.fuses.owner0 ((b.drop 32).take 48),
        owner1 := blow c.fuses.owner1 (b.drop 80) })) ∧
      (¬provisions → Completes .provision s (ended 0 6 c.fuses)) ∧
      (c.lifecycle = lcManufacture → Completes .decommission s (ended 0 0 c.fuses.decommissioned)) ∧
      (c.lifecycle ≠ lcManufacture → Completes .decommission s (ended 0 6 c.fuses))) ∧
    (∀ t k i, (k, i) ∈ [(1, Instr.operate t), (2, .debug t), (3, .tokenDecommission t), (4, .revoke t)] →
      let e := ((putWords R.SEC_TOKEN_BYTES (t.bytes k)).run c).2
      let b := e.wordsAt R.SEC_TOKEN_BYTES 56
      let advanced := fun (d : Chip) =>
        d.rd R.SEC_CHALLENGE_ATTEMPTS = min (c.rd R.SEC_CHALLENGE_ATTEMPTS + 1) (2 ^ 32 - 1)
      (busy = true → Completes i s fun d => advanced d ∧ d.fuses = c.fuses ∧ d.lifecycle = c.lifecycle) ∧
      (busy = false → e.tokenFail b ≠ 0 → Completes i s fun d => advanced d ∧ ended k (e.tokenFail b) c.fuses d) ∧
      (busy = false → e.tokenFail b = 0 →
        (k = 1 → Completes i s fun d => advanced d ∧ ended k 0 { c.fuses with lc := c.fuses.lc ||| 3 } d) ∧
        (k = 3 → Completes i s fun d => advanced d ∧ ended k 0 c.fuses.decommissioned d) ∧
        (k = 4 → Completes i s fun d => advanced d ∧ ended k 0 { c.fuses with revoked := bitOr c.fuses.revoked (1 - nth 0 b 7) } d) ∧
        (k = 2 → Completes i s fun d => advanced d ∧ d.zeroising = true ∧ d.rd R.SEC_ZEROISE_ELAPSED_US = 0 ∧
          d.rd R.SEC_LC_STATUS_BUSY = 1 ∧ d.lifecycle = c.lifecycle ∧ d.serving.sessions = [] ∧ d.keys = [] ∧ d.keyGated = true ∧
          ∀ g, g < 24 → d.grpState g = grpUnused))) ∧
    (∀ us,
      (c.zeroising = false → Becomes (.zeroisationComplete us) s c) ∧
      (c.zeroising = true → Completes (.zeroisationComplete us) s fun d => d.lifecycle = lcDebug ∧ d.rd R.SEC_LC_DEBUG_READY = 1 ∧
        d.zeroising = false ∧ d.rd R.SEC_ZEROISE_ELAPSED_US = min us 65535 ∧ d.rd R.SEC_LC_STATUS_VALID = 1 ∧
        d.rd R.SEC_LC_STATUS_BUSY = 0 ∧ d.rd R.SEC_LC_STATUS_COMMAND = 2 ∧ d.rd R.SEC_LC_STATUS_RESULT = 0 ∧ d.descs = [] ∧
        (∀ t, t < 384 → (d.tile t).mem = [] ∧ (d.tile t).tags = [] ∧ (d.tile t).insole = [] ∧ (d.tile t).weltStandby = []) ∧
        ∀ a, c.stackFailed (a / 32 / 2 ^ 30) = false → Tbl.get (0 : Byte) d.kv a = 0))

/-- Keys (R435, R437, R438, R448).  INSTALL and ERASE take the legal KIND and SLOT nearest to those written, and make the block busy; while it is busy each
of their writes is dropped and counted.  The command takes effect as BUSY clears: refused outside PROVISIONED and OPERATIONAL; an install refused where the
slot is occupied or the key does not unwrap; an erase refused where the key is in use; otherwise the key is installed or erased. -/
def Obligations.KeysAreInstalledAndErased : Prop :=
  ∀ (s : State), s.chip.runs = true →
    let c := s.chip
    let busy := c.flag R.SEC_KEY_STATUS_BUSY
    let clamps := fun (n : Nat) (d : Chip) => d.rd R.FAULT_CLAMP_COUNT = min (c.rd R.FAULT_CLAMP_COUNT + n) (2 ^ 32 - 1) ∧
      d.rd R.FAULT_CLAMP_SRC_SOURCE = srcMgmt ∧ d.keyCmd = c.keyCmd ∧ d.keys = c.keys
    (∀ kind slot wrapped,
      let k := legalKind kind
      let sl := legalSlot k slot
      let begun := fun (erase : Bool) (d : Chip) => d.rd R.SEC_KEY_STATUS_BUSY = 1 ∧ d.rd R.SEC_KEY_SEL_KIND = k ∧
        d.rd R.SEC_KEY_SEL_SLOT = sl ∧ d.keys = c.keys ∧ ∃ w, d.keyCmd = some ⟨erase, k, sl, w⟩ ∧
          (erase = false → wrapped.length = wrappedLen k → (∀ x ∈ wrapped, x < 256) → w = wrapped)
      (busy = true → Completes (.install kind slot wrapped) s (clamps (2 + min 18 (cdiv wrapped.length 4))) ∧
        Completes (.erase kind slot) s (clamps 2)) ∧
      (busy = false → Completes (.install kind slot wrapped) s (begun false) ∧ Completes (.erase kind slot) s (begun true))) ∧
    (c.keyCmd = none → Becomes .keyCommandDone s c) ∧
    (∀ k, c.keyCmd = some k →
      let closed := (c.lifecycle ≠ lcProvisioned ∧ c.lifecycle ≠ lcOperational) ∨ c.zeroising = true ∨ c.keyGated = true
      let held := (c.key k.kind k.slot).isSome
      let unwrapped := keyUnwrap c.fuseShadow.pkgKey ([0xA6, 0xA6, k.kind, 0] ++ leBytes 4 k.slot) k.wrapped
      let ends := fun (result : Nat) (keys : Map (List Nat)) => Completes .keyCommandDone s fun d => d.keyCmd = none ∧
        d.rd R.SEC_KEY_STATUS_VALID = 1 ∧ d.rd R.SEC_KEY_STATUS_BUSY = 0 ∧ d.rd R.SEC_KEY_STATUS_RESULT = result ∧ d.keys = keys ∧
        d.rd R.SEC_KEY_REFUSED_COUNT =
          if result = 0 then c.rd R.SEC_KEY_REFUSED_COUNT else min (c.rd R.SEC_KEY_REFUSED_COUNT + 1) (2 ^ 32 - 1)
      (closed → ends 4 c.keys) ∧
      (¬closed → k.erase = true →
        (held = false → ends 0 c.keys) ∧
        (held = true → c.eraseRefused k.kind k.slot ≠ 0 → ends 3 c.keys) ∧
        (held = true → c.eraseRefused k.kind k.slot = 0 → ends 0 (Tbl.erase (k.kind * 4096 + k.slot) c.keys))) ∧
      (¬closed → k.erase = false →
        (held = true → c.installRefused k.kind k.slot = true → ends 2 c.keys) ∧
        ((held = false ∨ c.installRefused k.kind k.slot = false) →
          (unwrapped = none → ends 1 c.keys) ∧
          (∀ key, unwrapped = some key → ends 0 (Tbl.insert (k.kind * 4096 + k.slot) key c.keys)))))

/-! ## The event recorder -/

/-- The recorder of a die (R450 to R465).  A trigger is staged, or counted lost while the staging queue is full or PFAIL_MODE holds.  A staged record
takes the next number and the next place of the buffer once the start-up scan is done; over an unflushed record it is dropped while a flush runs,
else it takes the place and the lost one is counted.  A flush stores the unflushed record of lowest number in the slot of R457 until none is left.
A seek finds the earliest whole record not before its number, and a read of the window's last word moves an AUTO cursor on. -/
def Obligations.RecordsAreTakenStoredAndSought : Prop :=
  ∀ (s : State) (n : Nat), s.chip.runs = true → n < 8 →
    let c : Chip := { s.chip with sent := [] }
    let x := c.recorder n
    let o := dieOff n
    let more := fun (f : Fld) => min (c.rd f o + 1) (2 ^ 32 - 1)
    let flushing := c.flag R.EVR_STATUS_FLUSHING o
    (∀ sev,
      (c.flag R.EVR_STATUS_PFAIL_MODE o = true ∨ 8 ≤ x.staging.length → Completes (.trigger n sev) s fun d =>
        d.recorder n = x ∧ d.rd R.EVR_TRIG_LOST_COUNT o = more R.EVR_TRIG_LOST_COUNT) ∧
      (c.flag R.EVR_STATUS_PFAIL_MODE o = false → x.staging.length < 8 → Completes (.trigger n sev) s fun d => d.recorder n =
        { x with staging := x.staging ++ [c.capture n 15 (sev % 4) false (leBytes 4 (c.rd R.EVR_MANUAL_VALUE o))] })) ∧
    (x.staging = [] ∨ c.flag R.EVR_STATUS_SCAN_DONE o = false → Becomes (.recordEntry n) s c) ∧
    (∀ r rest, x.staging = r :: rest → c.flag R.EVR_STATUS_SCAN_DONE o = true →
      let number := c.rd R.EVR_SEQ_NEXT o
      let entered := fun (d : Chip) => (d.recorder n).staging = rest ∧ (d.recorder n).next = (x.next + 1) % 1024 ∧
        Tbl.find? (d.recorder n).ring x.next = some ({ r with seq := number }, false) ∧ d.rd R.EVR_SEQ_NEXT o = nextSeq number ∧
        (2 ≤ r.severity → d.flag R.EVR_STATUS_FLUSHING o = true)
      ((∀ e, Tbl.find? x.ring x.next = some e → e.2 = true) → Completes (.recordEntry n) s entered) ∧
      (∀ e, Tbl.find? x.ring x.next = some e → e.2 = false →
        (flushing = false → Completes (.recordEntry n) s fun d => entered d ∧ (d.recorder n).gap = true ∧
          d.rd R.EVR_BUF_LOST_COUNT o = more R.EVR_BUF_LOST_COUNT) ∧
        (flushing = true → Completes (.recordEntry n) s fun d => d.recorder n = { x with staging := rest, gap := true } ∧
          d.rd R.EVR_DROPPED_COUNT o = more R.EVR_DROPPED_COUNT ∧ d.flag R.EVR_STATUS_DROP_SEEN o = true))) ∧
    (flushing = true → Becomes (.flush n) s c) ∧
    (flushing = false → Completes (.flush n) s fun d => d.flag R.EVR_STATUS_FLUSHING o = true ∧
      d.recorder n = { x with stored := 0, pfail := false }) ∧
    (∀ fails us, flushing = false → Becomes (.flushStore n fails us) s c) ∧
    (∀ fails us, flushing = true →
      (x.unflushed = none → x.staging ≠ [] → Becomes (.flushStore n fails us) s c) ∧
      (x.unflushed = none → x.staging = [] → Completes (.flushStore n fails us) s fun d => d.flag R.EVR_STATUS_FLUSHING o = false ∧
        d.rd R.EVR_FLUSHES_ALL o = (c.rd R.EVR_FLUSHES_ALL o + 1) % 2 ^ 16 ∧ d.rd R.EVR_LAST_FLUSH_RECORDS o = min x.stored 65535 ∧
        d.rd R.EVR_LAST_FLUSH_US o = min us 65535) ∧
      (∀ i r, x.unflushed = some (i, r) →
        Completes (.flushStore n fails us) s (fun d => Tbl.find? (d.recorder n).ring i = some (r, true) ∧ d.recorder n =
          { x with ring := Tbl.insert i (r, true) x.ring, stored := (d.recorder n).stored, gap := (d.recorder n).gap }) ∧
        (∀ k, c.chooseSlot n r.severity = some k → fails = 0 → Completes (.flushStore n fails us) s fun d =>
          let w := (c.logSlot n k).writes + 1
          d.logSlot n k = ⟨.whole { r with flags := r.flags + b2n x.pfail + 2 * b2n x.gap }, decide (20000 ≤ w), w⟩ ∧
          (d.recorder n).stored = x.stored + 1 ∧ (d.recorder n).gap = false ∧
          (16000 ≤ w → d.flag R.EVR_STATUS_WEAR_WARN o = true)) ∧
        (c.chooseSlot n r.severity = none → Completes (.flushStore n fails us) s fun d => d.logbook = c.logbook ∧
          d.rd R.EVR_DROPPED_COUNT o = more R.EVR_DROPPED_COUNT ∧ d.flag R.EVR_STATUS_DROP_SEEN o = true ∧
          (d.recorder n).gap = true))) ∧
    (∀ q, Completes (.seek n q) s fun d => d.flag R.EVR_WINDOW_STATUS_SEEK_BUSY o = true ∧ d.recorder n = { x with seek := some (q % 2 ^ 32) }) ∧
    (x.seek = none → Becomes (.seekDone n) s c) ∧
    (∀ q, x.seek = some q →
      let ahead := (c.logSlots n).filterMap fun e => match e.2.content with
        | .whole r => if e.2.retired || seqBefore r.seq q then none else some (e.1, r.seq)
        | _ => none
      Completes (.seekDone n) s fun d => d.flag R.EVR_WINDOW_STATUS_SEEK_BUSY o = false ∧ d.recorder n = { x with seek := none } ∧
        d.flag R.EVR_CURSOR_SRC o = true ∧
        (ahead = [] → d.flag R.EVR_WINDOW_STATUS_FOUND o = false ∧ d.rd R.EVR_CURSOR_SLOT o = c.rd R.EVR_CURSOR_SLOT o) ∧
        (∀ e, firstBy (fun a b => seqBefore a.2 b.2) ahead = some e →
          d.flag R.EVR_WINDOW_STATUS_FOUND o = true ∧ d.rd R.EVR_CURSOR_SLOT o = e.1)) ∧
    (∀ bad, Completes (.evrWindowRead n bad) s fun d =>
      d.flag R.EVR_WINDOW_STATUS_UNCORR o = (bad && c.flag R.EVR_CURSOR_SRC o) ∧
      (c.flag R.EVR_CURSOR_AUTO o = false → d.rd R.EVR_CURSOR_SLOT o = c.rd R.EVR_CURSOR_SLOT o) ∧
      (c.flag R.EVR_CURSOR_AUTO o = true → d.rd R.EVR_CURSOR_SLOT o =
        (c.rd R.EVR_CURSOR_SLOT o + 1) % (if c.flag R.EVR_CURSOR_SRC o then 8192 else 1024)))

/-! ## Register accesses -/

/-- Register writes and wide reads (R17, R18, R21, R22, R423).  A write of a plain register changes register fields alone; a field with limits takes the
legal value nearest to the bits written; a 1 clears a W1C bit; an unmapped address reads 0, and a write of one is dropped as
one clamp event.  An upper word of a wide value waits in the
shadow and is committed with the lowest; reading the lowest loads the shadow and clears RC fields, and reading an upper word changes nothing. -/
def Obligations.RegistersAreWrittenAndReadByTheirTypes : Prop :=
  ∀ (s : State) (a v : Nat), s.chip.runs = true → s.chip.calm = true →
    let c : Chip := { s.chip with sent := [] }
    let field := fun (f : Fld) => bits (v % 2 ^ 32) (f.lsb + f.width - 1) f.lsb
    (regAt a = none → (readReg a).run c = (0, c)) ∧
    (regAt a = none → Completes (.registerWrite a v) s fun d => d.onlyRegs c ∧
      d.rd R.FAULT_CLAMP_COUNT = min (c.rd R.FAULT_CLAMP_COUNT + 1) (2 ^ 32 - 1) ∧ d.flag R.FAULT_CLAMP_SRC_VALID = true ∧
      d.rd R.FAULT_CLAMP_SRC_SOURCE = srcMgmt ∧ d.rd R.FAULT_CLAMP_ADDR_WHERE = a % 2 ^ 32 / 4 * 4) ∧
    (∀ x, regAt a = some x → x.word = 0 → (actingWrite srcMgmt x (v % 2 ^ 32)).isNone = true →
      Completes (.registerWrite a v) s fun d => d.onlyRegs c) ∧
    (∀ x, regAt a = some x → 0 < x.word → x.reg.wideRw = false → Becomes (.registerWrite a v) s c) ∧
    (∀ f ∈ [R.PWR_CAP_CAP_W, R.PWR_CAP_HYST_W, R.PWR_FIXED_FIXED_W, R.FAULT_CFG_MAX_REPLAYS, R.FAULT_CFG_PROBE_BEATS, R.FAULT_GAP_REPLAY_GAP,
        R.FAULT_GAP_READMIT_GAP, R.FAULT_RESUME_MS, R.SERVE_CFG_RETRIES, R.SERVE_CFG_RETX_US, R.SERVE_CFG_IDLE_MS, R.LOAD_CFG_TIMEOUT,
        R.TRUE_CFG_TEMP_DUE, R.TRUE_CFG_PASS_MARGIN, R.TIMEBASE_CFG_SYNC_TOL],
      Completes (.registerWrite f.addr v) s fun d => d.rd f = max f.lo (min f.hi (field f))) ∧
    (∀ n, n < 8 → Completes (.registerWrite (R.EVR_STATUS_DROP_SEEN.addr + dieOff n) v) s fun d =>
      d.rd R.EVR_STATUS_DROP_SEEN (dieOff n) = if v / 16 % 2 = 1 then 0 else c.rd R.EVR_STATUS_DROP_SEEN (dieOff n) % 2) ∧
    (∀ f, f < 2 →
      let p := R.FRONT_NEXTHOP_MAC.addr + frontOff f
      Completes (.registerWrite (p + 4) v) s (fun d => d.onlyRegs { c with shadows := d.shadows } ∧ Tbl.get 0 d.shadows p % 2 ^ 32 = v % 2 ^ 32) ∧
      Completes (.registerWrite p v) s fun d => Tbl.get 0 d.shadows p = Tbl.get 0 c.shadows p % 2 ^ 16 ∧
        d.rd R.FRONT_NEXTHOP_MAC (frontOff f) = (v % 2 ^ 32 + Tbl.get 0 c.shadows p % 2 ^ 16 * 2 ^ 32)) ∧
    (regAt a = none → Becomes (.wideValueRead a) s c) ∧
    (∀ x, regAt a = some x →
      (0 < x.word → Becomes (.wideValueRead a) s c) ∧
      (x.word = 0 → x.reg.addr ∉ [R.TIMEBASE_BEAT_BEAT.addr, R.TRUE_IMAGE_BYTES.addr, R.EVR_WINDOW_BYTES.addr] →
        Completes (.wideValueRead a) s fun d =>
          (1 < x.reg.words → Tbl.get 0 d.shadows (x.reg.addr + x.off) = c.value x.reg x.off / 2 ^ 32) ∧
          ∀ f ∈ x.reg.fields, f.acc = .rc → d.rd f x.off = 0)) ∧
    Completes (.wideValueRead R.TIMEBASE_BEAT_BEAT.addr) s fun d => d.rd R.TIMEBASE_REFCYC_REFCYC = c.refcyc % 2 ^ 6 ∧
      Tbl.get 0 d.shadows R.TIMEBASE_BEAT_BEAT.addr = c.rd R.TIMEBASE_BEAT_BEAT % 2 ^ 48 / 2 ^ 32

/-- Registers whose writes act (R387, R391 to R393, R495, R518 to R520).  Images are latched whole, and written only while the board is EMPTY, SHELVED or
HELD; a reference chosen anew settles anew; a filter written, or entering the scan, restarts; the fixed channels stay in the scan.  A save takes
one copy out of use and, once done, stores the trims with the next SEQ; the operating-seconds count is stored at each multiple of 1,024.  PKG_NODE is written
only without groups and jobs, and the static address within its limits. -/
def Obligations.ActingRegistersAct : Prop :=
  ∀ (s : State) (v : Nat), s.chip.runs = true →
    let c : Chip := { s.chip with sent := [] }
    let clamped := fun (d : Chip) => d.rd R.FAULT_CLAMP_COUNT = min (c.rd R.FAULT_CLAMP_COUNT + 1) (2 ^ 32 - 1)
    (∀ b word, b < 49152 → word < 128 →
      Completes (.trueImageLatch b) s (fun d => Tbl.find? d.imageLatch b = some (c.imageBytes b)) ∧
      (word < 4 → Becomes (.trueImageWrite b word v) s c) ∧
      (4 ≤ word → c.arrState b ∈ [arrEmpty, arrShelved, arrHeld] → Completes (.trueImageWrite b word v) s fun d =>
        let ts := c.tapsOf b
        d.tapsOf b = ((ts.take (4 * word - 16) ++ leBytes 4 v ++ ts.drop (4 * word - 12) ++ zeroTaps).take 496).map (· % 256) ∧
        d.flag R.TRUE_BOARD_STATE_RESTORED (boardOff b) = true) ∧
      (4 ≤ word → c.arrState b ∉ [arrEmpty, arrShelved, arrHeld] → Completes (.trueImageWrite b word v) s fun d =>
        clamped d ∧ d.taps = c.taps)) ∧
    (∀ n, n < 8 →
      let o := dieOff n
      Completes (.refSelWrite n v) s (fun d => d.rd R.MON_CTRL_REF_SEL o = min 2 v ∧ d.flag R.MON_STATUS_REF_SETTLED o = false ∧
        d.flag R.MON_STATUS_REF_FALLBACK o = false ∧ (∀ ch, ch < 32 → voltageChannel ch = true → d.monChan n ch = noMon) ∧
        (2 < v → clamped d)) ∧
      (∀ ch, ch < 32 → Completes (.filterWrite n ch v) s fun d => d.rd R.MON_FILT_ORDER_M1 (o + 4 * ch) = v / 65536 % 4 ∧
        d.rd R.MON_FILT_DECIM_M1 (o + 4 * ch) = v % 1024 ∧ d.monChan n ch = noMon) ∧
      Completes (.monScanWrite n v) s fun d => d.rd R.MON_SCAN_MASK o = v % 2 ^ 32 ||| fixedScan ∧
        (∀ ch, ch < 32 → d.monChan n ch =
          if bit (v % 2 ^ 32 ||| fixedScan) ch && !bit (c.rd R.MON_SCAN_MASK o) ch then noMon else c.monChan n ch) ∧
        (v % 2 ^ 32 ≠ v % 2 ^ 32 ||| fixedScan → clamped d)) ∧
    ((c.flag R.PKG_CAL_SAVE_BUSY = true ∨ c.intrusive = true → Completes .save s fun d => clamped d ∧ d.saving = c.saving ∧
        d.calCopies = c.calCopies) ∧
      (c.flag R.PKG_CAL_SAVE_BUSY = false → c.intrusive = false →
        (c.flashReady = true → Completes .save s fun d => d.flag R.PKG_CAL_SAVE_BUSY = true ∧ d.saving = some c.saveCopy ∧
          d.calCopies = Tbl.erase c.saveCopy c.calCopies) ∧
        (c.flashReady = false → Completes .save s fun d => d.flag R.PKG_CAL_SAVE_VALID = true ∧ d.rd R.PKG_CAL_SAVE_RESULT = 1 ∧
          d.calCopies = c.calCopies))) ∧
    (c.saving = none → ∀ ok, Becomes (.saveDone ok) s c) ∧
    (∀ k ok, c.saving = some k →
      let seq := match Tbl.find? c.calCopies (1 - k) with
        | none => 1
        | some o => nextSeq o.seq
      Completes (.saveDone ok) s fun d => d.saving = none ∧ d.flag R.PKG_CAL_SAVE_BUSY = false ∧ d.flag R.PKG_CAL_SAVE_VALID = true ∧
        if ok && !c.intrusive then d.rd R.PKG_CAL_SAVE_RESULT = 0 ∧ d.rd R.PKG_CAL_SEQ_SEQ = seq ∧
          d.calCopies = Tbl.insert k ⟨seq, c.taps⟩ c.calCopies
        else d.rd R.PKG_CAL_SAVE_RESULT = 2 ∧ d.calCopies = c.calCopies) ∧
    (Completes (.pkgNodeWrite v) s fun d =>
      if c.jobRuns = true ∨ ∃ g ∈ upFrom 0 24, c.grpState g ≠ grpUnused then clamped d ∧ d.rd R.PKG_NODE_NODE = c.rd R.PKG_NODE_NODE
      else d.rd R.PKG_NODE_NODE = v % 4096) ∧
    Completes (.staticAddrWrite v) s (fun d => d.rd R.MGMT_CFG_STATIC_ADDR = max 8 (min 119 (v % 128)) ∧
      d.rd R.MGMT_CFG_PEC_REQ = v / 512 % 2) ∧
    Completes .opsecTick s fun d =>
      let n := min (c.rd R.PKG_OPSEC_SECONDS + 1) (2 ^ 32 - 1)
      d.rd R.PKG_OPSEC_SECONDS = n ∧ d.opsecRing =
        if n % 1024 = 0 then (c.opsecRing ++ [n]).drop (c.opsecRing.length - 63) else c.opsecRing

/-! ## The management port -/

/-- Frames, modes and common command codes of the management port (R504 to R511).  A request waits for stage APPLY; one that overruns an unread response is
counted; one that is carried out leaves its response frame, and a bad one the status of its fault.  A read of the response takes a waiting
MCTP packet first.  ENTDAA and SETDASA give a port without one its dynamic address, and I3C mode; RSTDAA takes them away; every other code acts in I3C mode
alone. -/
def Obligations.ManagementPortServesFramesAndCodes : Prop :=
  ∀ (s : State) (tag addr a : Nat) (overrun early : Bool), s.chip.runs = true →
    let c : Chip := { s.chip with sent := [] }
    let codes := [Instr.setnewda a, .rstdaa, .getpid, .getbcr, .getdcr, .getstatus, .getmwl, .getmrl, .setmwl a, .setmrl a, .enec, .disec]
    let answers := fun (i : Instr) (code : Nat) (b : List Nat) => Completes i s fun d => d.quiet = c.quiet ∧ .ccc code b ∈ d.sent
    let addressed := fun (d : Chip) => d.flag R.MGMT_STATUS_DYN_VALID = true ∧ d.rd R.MGMT_STATUS_DYN_ADDR = a % 128 ∧ d.i3c = true
    let shows := fun (b : List Nat) => Completes (.responseRead early) s fun d => d.quiet = c.quiet ∧ .mgmt b ∈ d.sent
    (∀ count ws b, c.portServes = false → Becomes (.read tag addr count overrun) s c ∧ Becomes (.badFrame b overrun) s c ∧
      (c.calm = true → Becomes (.write tag addr ws overrun) s c)) ∧
    (∀ count ws b, c.portServes = true → overrun = true → c.mgmt.response ≠ [] →
      let counted := fun (d : Chip) => d.rd R.MGMT_OVERRUN_COUNT = min (c.rd R.MGMT_OVERRUN_COUNT + 1) (2 ^ 32 - 1) ∧
        d.mgmt.response = c.mgmt.response
      Completes (.read tag addr count overrun) s counted ∧ Completes (.badFrame b overrun) s counted ∧
      (c.calm = true → Completes (.write tag addr ws overrun) s counted)) ∧
    (c.portServes = true → overrun = false ∨ c.mgmt.response = [] →
      (∀ count,
        let r := (mapM_ (upFrom 0 count) fun i => readReg (addr + 4 * i)).run c
        Completes (.read tag addr count overrun) s (fun d => d.mgmt.response = responseFrame 0xB0 tag count r.1 ∧
          d.rd R.MGMT_FRAMES_COUNT = (r.2.rd R.MGMT_FRAMES_COUNT + 1) % 2 ^ 32) ∧
        (count = 1 → (regAt addr = none → r.1 = [0]) ∧ ∀ x, regAt addr = some x → x.word = 0 → x.reg.addr ∉ [R.TIMEBASE_BEAT_BEAT.addr,
          R.TRUE_IMAGE_BYTES.addr] → r.1 = [c.value x.reg x.off % 2 ^ 32])) ∧
      (∀ ws,
        let r := ((forM_ ((upFrom 0 ws.length).zip ws) fun e => writeReg srcMgmt (addr + 4 * e.1) e.2).run c).2
        r.calm = true → Completes (.write tag addr ws overrun) s fun d => d.mgmt.response = responseFrame 0xB0 tag 0 [] ∧
          d.rd R.MGMT_FRAMES_COUNT = (r.rd R.MGMT_FRAMES_COUNT + 1) % 2 ^ 32) ∧
      Completes (.badFrame (.crc tag) overrun) s (fun d => d.mgmt.response = responseFrame 0xB2 tag 0 [] ∧
        d.rd R.MGMT_FRAME_ERR_CRC = min (c.rd R.MGMT_FRAME_ERR_CRC + 1) (2 ^ 16 - 1)) ∧
      Completes (.badFrame (.format tag) overrun) s (fun d => d.mgmt.response = responseFrame 0xB3 tag 0 [] ∧
        d.rd R.MGMT_FRAME_ERR_FORMAT = min (c.rd R.MGMT_FRAME_ERR_FORMAT + 1) (2 ^ 16 - 1)) ∧
      Completes (.badFrame .pec overrun) s fun d => d.mgmt.response = c.mgmt.response ∧
        d.rd R.MGMT_FRAME_ERR_CRC = min (c.rd R.MGMT_FRAME_ERR_CRC + 1) (2 ^ 16 - 1)) ∧
    (c.portReached = false → ∀ i ∈ Instr.responseRead early :: Instr.entdaa a :: Instr.setdasa addr a :: codes, Becomes i s c) ∧
    (c.portReached = true →
      (c.stageDone 4 = false → shows (responseFrame 0xB1 0 0 [])) ∧
      (c.stageDone 4 = true →
        (∀ p rest, c.mgmt.packets = p :: rest → c.i3c = true → Completes (.responseRead early) s fun d =>
          d.mgmt.packets = rest ∧ .mgmt p ∈ d.sent ∧ d.flag R.MGMT_STATUS_MCTP_IBI = !rest.isEmpty) ∧
        (c.mgmt.packets = [] → c.mgmt.response = [] → shows (responseFrame 0xB4 0 0 [])) ∧
        (c.mgmt.packets = [] → c.mgmt.response ≠ [] →
          shows (if early then responseFrame 0xB1 (nth 0 c.mgmt.response 1) 0 [] else c.mgmt.response))) ∧
      (c.flag R.MGMT_STATUS_DYN_VALID = true → Becomes (.entdaa a) s c ∧ Becomes (.setdasa addr a) s c) ∧
      (c.flag R.MGMT_STATUS_DYN_VALID = false → Completes (.entdaa a) s addressed ∧
        (addr ≠ c.rd R.MGMT_CFG_STATIC_ADDR → Becomes (.setdasa addr a) s c) ∧
        (addr = c.rd R.MGMT_CFG_STATIC_ADDR → Completes (.setdasa addr a) s addressed)) ∧
      (c.i3c = false → ∀ i ∈ codes, Becomes i s c) ∧
      (c.i3c = true →
        Completes (.setnewda a) s (fun d => d.rd R.MGMT_STATUS_DYN_ADDR = a % 128) ∧
        Completes .rstdaa s (fun d => d.flag R.MGMT_STATUS_DYN_VALID = false ∧ d.rd R.MGMT_STATUS_DYN_ADDR = 0 ∧ d.i3c = false ∧
          d.rd R.MGMT_STATUS_EID = 0 ∧ d.mgmt.packets = []) ∧
        answers .getpid 0x8D (beBytes 6 c.fuseShadow.i3cId) ∧ answers .getbcr 0x8E [0x06] ∧ answers .getdcr 0x8F [0x00] ∧
        Completes .getstatus s (fun d => ∃ v, v < 2 ^ 16 ∧ .ccc 0x90 (beBytes 2 v) ∈ d.sent) ∧
        answers .getmwl 0x8B (beBytes 2 c.mgmt.mwl) ∧ answers .getmrl 0x8C (beBytes 2 c.mgmt.mrl) ∧
        Completes (.setmwl a) s (fun d => d.mgmt.mwl = max 137 (min 256 a)) ∧
        Completes (.setmrl a) s (fun d => d.mgmt.mrl = max 133 (min 256 a)) ∧
        Completes .enec s (fun d => d.flag R.MGMT_STATUS_IBI_EN = true) ∧
        Completes .disec s fun d => d.flag R.MGMT_STATUS_IBI_EN = false)) ∧
    Becomes .smbusTimeout s c

/-- MCTP and PLDM (R512 to R514).  In I3C mode, once the port serves, a message for this endpoint is answered: its answer's packets wait for a read, and the
answer is counted; one with another endpoint ID or a wrong packet error code is dropped and counted.  Before an endpoint ID is set, only
control messages are taken.  Readings are the values of their sources; a sensor that R513 does not list answers 0x80, a record beyond the repository
0x82. -/
def Obligations.MctpAndPldmMessagesAreAnswered : Prop :=
  ∀ (s : State) (x : McIn) (n : Nat), s.chip.runs = true →
    let c : Chip := { s.chip with sent := [] }
    let own := c.rd R.MGMT_STATUS_EID
    let control := [Instr.setEndpointId x n, .getEndpointId x, .getMctpVersionSupport x, .getMessageTypeSupport x]
    let pldm := [Instr.getTid x, .setTid x n, .getPldmVersion x, .getPldmTypes x, .getPldmCommands x n, .getSensorReading x n,
      .getPdrRepositoryInfo x, .getPdr x n]
    let drops := fun (i : Instr) => Completes i s fun d => d.mgmt.packets = c.mgmt.packets ∧
      d.rd R.MGMT_MCTP_DROPPED = min (c.rd R.MGMT_MCTP_DROPPED + 1) (2 ^ 16 - 1)
    let taken := x.pecOk = true ∧ (x.eid = own ∨ x.eid = 0)
    let answers := fun (i : Instr) (from_ : Nat) (ok : List Nat → Prop) => Completes i s fun d => ∃ b, ok b ∧
      d.mgmt.packets = c.mgmt.packets ++ mctpPackets from_ x.from_ x.tag (b.length + 1) 0 b ∧
      d.flag R.MGMT_STATUS_MCTP_IBI = true ∧ d.rd R.MGMT_MCTP_ANSWERED = (c.rd R.MGMT_MCTP_ANSWERED + 1) % 2 ^ 16
    let sets := fun (i : Instr) (f : Fld) => Completes i s fun d => d.rd f = n % 256
    (c.portServes = false ∨ c.i3c = false → ∀ i ∈ control ++ pldm, Becomes i s c) ∧
    (c.portServes = true → c.i3c = true →
      (¬taken → ∀ i ∈ control, drops i) ∧
      (x.pecOk = false ∨ own = 0 ∨ x.eid ≠ own → ∀ i ∈ pldm, drops i) ∧
      (taken →
        sets (.setEndpointId x n) R.MGMT_STATUS_EID ∧
        answers (.setEndpointId x n) (n % 256) (· = controlAnswer x 1 [0, n % 256, 0]) ∧
        answers (.getEndpointId x) own (· = controlAnswer x 2 [own, 0, 0]) ∧
        answers (.getMctpVersionSupport x) own (fun b => ∃ v, v < 2 ^ 32 ∧ b = controlAnswer x 4 (1 :: leBytes 4 v)) ∧
        answers (.getMessageTypeSupport x) own (· = controlAnswer x 5 [2, 0x00, 0x01])) ∧
      (x.pecOk = true → own ≠ 0 → x.eid = own →
        answers (.getTid x) own (· = pldmAnswer x 0 2 0 [c.rd R.MGMT_STATUS_TID]) ∧
        sets (.setTid x n) R.MGMT_STATUS_TID ∧ answers (.setTid x n) own (· = pldmAnswer x 0 1 0 []) ∧
        answers (.getPldmVersion x) own (fun b => ∃ v, v < 2 ^ 32 ∧
          b = pldmAnswer x 0 3 0 ([0, 0, 0, 0, 5] ++ leBytes 4 v ++ leBytes 4 (crc32 (leBytes 4 v)))) ∧
        answers (.getPldmTypes x) own (· = pldmAnswer x 0 4 0 [5, 0, 0, 0, 0, 0, 0, 0]) ∧
        answers (.getPldmCommands x n) own (· = match pldmCommands n with
          | some m => pldmAnswer x 0 5 0 (leBytes 32 m)
          | none => pldmAnswer x 0 5 0x83 []) ∧
        answers (.getSensorReading x n) own (· = match c.sensor n with
          | none => pldmAnswer x 2 0x11 0x80 []
          | some r => if r.valid then pldmAnswer x 2 0x11 0 ([4, 0, 0, r.state, r.state, r.state] ++ leBytes 4 r.reading)
            else pldmAnswer x 2 0x11 0 [4, 2, 0, 0, 0, 0, 0, 0, 0, 0]) ∧
        answers (.getPdrRepositoryInfo x) own (fun b => ∃ times size largest, times.length = 26 ∧
          b = pldmAnswer x 2 0x50 0 ([0] ++ times ++ leBytes 4 21 ++ leBytes 4 size ++ leBytes 4 largest ++ [0])) ∧
        (n ≤ 21 → answers (.getPdr x n) own (fun b => ∃ r, r.take 4 = leBytes 4 (max 1 n) ∧
          b = pldmAnswer x 2 0x51 0 (leBytes 4 (if n = 21 then 0 else max 1 n + 1) ++ [0, 0, 0, 0, 5] ++ leBytes 2 r.length ++ r))) ∧
        (21 < n → answers (.getPdr x n) own (· = pldmAnswer x 2 0x51 0x82 []))))

/-! ## Test access -/

/-- The test access port and the test registers (R549 to R559).  The port works while the part is powered: an instruction loads, and its scan goes out; INTSCAN
outside grade FULL, and an intrusive one while a job runs, load as BYPASS and are counted.  The first capture in INTSCAN stops the part, once every
flush has ended.  A TEST write outside its grade is one clamp event.  A raw read shows the stored bytes, and whether the codeword was wrong. -/
def Obligations.TestAccessFollowsItsGrades : Prop :=
  ∀ (s : State) (v lands shift : Nat),
    let c : Chip := { s.chip with sent := [] }
    let ir := fun (d : Chip) => d.rd R.TEST_STATUS_IR
    let grade := c.rd R.TEST_STATUS_GRADE
    let out := fun (n b : Nat) (d : Chip) => .tdo n b ∈ d.sent
    let loads := fun (code n b : Nat) (d : Chip) => ir d = code ∧ out n b d ∧ d.rd R.TEST_REFUSED_COUNT = c.rd R.TEST_REFUSED_COUNT
    let refused := fun (i : Instr) => Completes i s fun d => ir d = irBypass ∧ d.boundary = c.boundary ∧
      d.rd R.TEST_REFUSED_COUNT = min (c.rd R.TEST_REFUSED_COUNT + 1) (2 ^ 32 - 1)
    let scans := fun (code : Nat) (d : Chip) => loads code 124 (lands % 2 ^ 124) d ∧ d.boundary = shift % 2 ^ 124
    let clamped := fun (i : Instr) => Completes i s fun d => d.onlyRegs c ∧
      d.rd R.FAULT_CLAMP_COUNT = min (c.rd R.FAULT_CLAMP_COUNT + 1) (2 ^ 32 - 1)
    (c.takes .tap = true →
      Completes .testLogicReset s (fun d => ir d = irIdcode) ∧
      Completes .idcode s (loads irIdcode 32 (c.rd R.PKG_ID_STEPPING % 16 * 2 ^ 28 + 0xC008 * 2 ^ 12 + 0x2F3 * 2 + 1)) ∧
      Completes (.samplePreload lands shift) s (scans irSample) ∧ Completes .bypass s (loads irBypass 1 0) ∧
      (c.jobRuns = true → ∀ i ∈ [Instr.extest lands shift, .clamp, .highz], refused i) ∧
      (c.jobRuns = false → Completes (.extest lands shift) s (scans irExtest) ∧
        Completes .clamp s (loads irClamp 1 0) ∧ Completes .highz s (loads irHighz 1 0)) ∧
      (grade ≠ 3 → refused .intscan) ∧
      (grade = 3 → Completes .intscan s fun d => ir d = irIntscan) ∧
      (let flushed := ∀ n, n < 8 → c.flag R.EVR_STATUS_FLUSHING (dieOff n) = false
       (ir c = irIntscan → flushed → Completes .intscanCapture s fun d => d.scanned = true) ∧
       (¬(ir c = irIntscan ∧ flushed) → Becomes .intscanCapture s c))) ∧
    (c.runs = true →
      (grade ≠ 3 → clamped (.tmuxSelect v)) ∧
      (grade = 3 → Completes (.tmuxSelect v) s fun d => d.rd R.TEST_TMUX_EN = bits v 31 31 ∧ d.rd R.TEST_TMUX_DIE = bits v 26 24 ∧
        d.rd R.TEST_TMUX_TILE = min 47 (bits v 21 16) ∧ d.rd R.TEST_TMUX_GROUP = if tmuxGroup (v % 256) then v % 256 else 0) ∧
      (grade < 2 → clamped (.tanaSelect v)) ∧
      (2 ≤ grade → Completes (.tanaSelect v) s fun d => d.rd R.TEST_TANA_EN = bits v 31 31 ∧ d.rd R.TEST_TANA_DIE = bits v 30 28 ∧
        d.rd R.TEST_TANA_SUB = bits v 27 21 ∧ d.rd R.TEST_TANA_BOARD = min 6143 (v % 2 ^ 13) ∧
        d.rd R.TEST_TANA_NODE = if tanaNode (bits v 20 13) then bits v 20 13 else 0) ∧
      (c.flag R.PKG_STAGE_TEST_HALT = false → clamped (.stageRun v)) ∧
      (c.flag R.PKG_STAGE_TEST_HALT = true → Completes (.stageRun v) s fun d => d.ordered = c.ordered |||
        (if c.lifecycle = lcDecommissioned then bits v 10 7 else bits v 11 7) * 128) ∧
      (c.rawOpen = false ∨ c.flag R.TEST_RAW_STATUS_BUSY = true → clamped .rawRead) ∧
      (c.rawOpen = true → c.flag R.TEST_RAW_STATUS_BUSY = false → Completes .rawRead s fun d => d.flag R.TEST_RAW_STATUS_BUSY = true ∧
        d.rawRead = some ⟨c.rd R.TEST_RAW_SEL_SRC, c.rd R.TEST_RAW_LOC_DIE, c.rd R.TEST_RAW_LOC_TILE, c.rd R.TEST_RAW_LOC_ARRAY,
          min (c.rd R.TEST_RAW_SEL_ADDR) (rawLast (c.rd R.TEST_RAW_SEL_SRC))⟩) ∧
      (c.rawRead = none → Becomes .rawReadDone s c) ∧
      (∀ r, c.rawRead = some r →
        let u := c.rawUnit r
        Completes .rawReadDone s fun d => d.rawRead = none ∧ d.flag R.TEST_RAW_STATUS_VALID = true ∧
          d.flag R.TEST_RAW_STATUS_BUSY = false ∧ d.flag R.TEST_RAW_STATUS_SYNDROME = decide (u.errs ≠ 0) ∧
          (u.errs = 0 → ∀ w, w < 8 → d.rd R.TEST_RAW_DATA_BYTES (4 * w) = le u.bytes (4 * w) 4) ∧
          (u.coded = false → d.rd R.TEST_RAW_DATA_BYTES 32 = 0)))
end

