-- ==== Sys2Proof/Laws/State.lean ====
section
/-! SUPPORT. Reading a field of the state after an update: one lemma for each field, true by definition. -/
namespace Sys2Proof.Machine

/-! ## Register writes touch the register file only -/

@[simp] theorem Chip.wr_shadows (c : Chip) (f : Fld) (o v : Nat) : (c.wr f o v).shadows = c.shadows := rfl
@[simp] theorem Chip.wr_fresh (c : Chip) (f : Fld) (o v : Nat) : (c.wr f o v).fresh = c.fresh := rfl
@[simp] theorem Chip.wr_tiles (c : Chip) (f : Fld) (o v : Nat) : (c.wr f o v).tiles = c.tiles := rfl
@[simp] theorem Chip.wr_boards (c : Chip) (f : Fld) (o v : Nat) : (c.wr f o v).boards = c.boards := rfl
@[simp] theorem Chip.wr_cells (c : Chip) (f : Fld) (o v : Nat) : (c.wr f o v).cells = c.cells := rfl
@[simp] theorem Chip.wr_flight (c : Chip) (f : Fld) (o v : Nat) : (c.wr f o v).flight = c.flight := rfl
@[simp] theorem Chip.wr_tack (c : Chip) (f : Fld) (o v : Nat) : (c.wr f o v).tack = c.tack := rfl
@[simp] theorem Chip.wr_stationOut (c : Chip) (f : Fld) (o v : Nat) : (c.wr f o v).stationOut = c.stationOut := rfl
@[simp] theorem Chip.wr_ackOut (c : Chip) (f : Fld) (o v : Nat) : (c.wr f o v).ackOut = c.ackOut := rfl
@[simp] theorem Chip.wr_appends (c : Chip) (f : Fld) (o v : Nat) : (c.wr f o v).appends = c.appends := rfl
@[simp] theorem Chip.wr_credit (c : Chip) (f : Fld) (o v : Nat) : (c.wr f o v).credit = c.credit := rfl
@[simp] theorem Chip.wr_arrivals (c : Chip) (f : Fld) (o v : Nat) : (c.wr f o v).arrivals = c.arrivals := rfl
@[simp] theorem Chip.wr_edges (c : Chip) (f : Fld) (o v : Nat) : (c.wr f o v).edges = c.edges := rfl
@[simp] theorem Chip.wr_refcyc (c : Chip) (f : Fld) (o v : Nat) : (c.wr f o v).refcyc = c.refcyc := rfl
@[simp] theorem Chip.wr_seq (c : Chip) (f : Fld) (o v : Nat) : (c.wr f o v).seq = c.seq := rfl
@[simp] theorem Chip.wr_links (c : Chip) (f : Fld) (o v : Nat) : (c.wr f o v).links = c.links := rfl
@[simp] theorem Chip.wr_copyParts (c : Chip) (f : Fld) (o v : Nat) : (c.wr f o v).copyParts = c.copyParts := rfl
@[simp] theorem Chip.wr_runStart (c : Chip) (f : Fld) (o v : Nat) : (c.wr f o v).runStart = c.runStart := rfl
@[simp] theorem Chip.wr_upTree (c : Chip) (f : Fld) (o v : Nat) : (c.wr f o v).upTree = c.upTree := rfl
@[simp] theorem Chip.wr_downDone (c : Chip) (f : Fld) (o v : Nat) : (c.wr f o v).downDone = c.downDone := rfl
@[simp] theorem Chip.wr_jobPegs (c : Chip) (f : Fld) (o v : Nat) : (c.wr f o v).jobPegs = c.jobPegs := rfl
@[simp] theorem Chip.wr_arrived (c : Chip) (f : Fld) (o v : Nat) : (c.wr f o v).arrived = c.arrived := rfl
@[simp] theorem Chip.wr_lateStep (c : Chip) (f : Fld) (o v : Nat) : (c.wr f o v).lateStep = c.lateStep := rfl
@[simp] theorem Chip.wr_experts (c : Chip) (f : Fld) (o v : Nat) : (c.wr f o v).experts = c.experts := rfl
@[simp] theorem Chip.wr_replicaOut (c : Chip) (f : Fld) (o v : Nat) : (c.wr f o v).replicaOut = c.replicaOut := rfl
@[simp] theorem Chip.wr_replicaServe (c : Chip) (f : Fld) (o v : Nat) : (c.wr f o v).replicaServe = c.replicaServe := rfl
@[simp] theorem Chip.wr_shelfTimes (c : Chip) (f : Fld) (o v : Nat) : (c.wr f o v).shelfTimes = c.shelfTimes := rfl
@[simp] theorem Chip.wr_outUnits (c : Chip) (f : Fld) (o v : Nat) : (c.wr f o v).outUnits = c.outUnits := rfl
@[simp] theorem Chip.wr_heldUnits (c : Chip) (f : Fld) (o v : Nat) : (c.wr f o v).heldUnits = c.heldUnits := rfl
@[simp] theorem Chip.wr_testing (c : Chip) (f : Fld) (o v : Nat) : (c.wr f o v).testing = c.testing := rfl
@[simp] theorem Chip.wr_readmits (c : Chip) (f : Fld) (o v : Nat) : (c.wr f o v).readmits = c.readmits := rfl
@[simp] theorem Chip.wr_shelvedWith (c : Chip) (f : Fld) (o v : Nat) : (c.wr f o v).shelvedWith = c.shelvedWith := rfl
@[simp] theorem Chip.wr_faultQueue (c : Chip) (f : Fld) (o v : Nat) : (c.wr f o v).faultQueue = c.faultQueue := rfl
@[simp] theorem Chip.wr_pkgCauses (c : Chip) (f : Fld) (o v : Nat) : (c.wr f o v).pkgCauses = c.pkgCauses := rfl
@[simp] theorem Chip.wr_runFault (c : Chip) (f : Fld) (o v : Nat) : (c.wr f o v).runFault = c.runFault := rfl
@[simp] theorem Chip.wr_uncovered (c : Chip) (f : Fld) (o v : Nat) : (c.wr f o v).uncovered = c.uncovered := rfl
@[simp] theorem Chip.wr_nextFault (c : Chip) (f : Fld) (o v : Nat) : (c.wr f o v).nextFault = c.nextFault := rfl
@[simp] theorem Chip.wr_holdCause (c : Chip) (f : Fld) (o v : Nat) : (c.wr f o v).holdCause = c.holdCause := rfl
@[simp] theorem Chip.wr_reports (c : Chip) (f : Fld) (o v : Nat) : (c.wr f o v).reports = c.reports := rfl
@[simp] theorem Chip.wr_replicaNext (c : Chip) (f : Fld) (o v : Nat) : (c.wr f o v).replicaNext = c.replicaNext := rfl
@[simp] theorem Chip.wr_notices (c : Chip) (f : Fld) (o v : Nat) : (c.wr f o v).notices = c.notices := rfl
@[simp] theorem Chip.wr_probing (c : Chip) (f : Fld) (o v : Nat) : (c.wr f o v).probing = c.probing := rfl
@[simp] theorem Chip.wr_replayAt (c : Chip) (f : Fld) (o v : Nat) : (c.wr f o v).replayAt = c.replayAt := rfl
@[simp] theorem Chip.wr_recorders (c : Chip) (f : Fld) (o v : Nat) : (c.wr f o v).recorders = c.recorders := rfl
@[simp] theorem Chip.wr_logbook (c : Chip) (f : Fld) (o v : Nat) : (c.wr f o v).logbook = c.logbook := rfl
@[simp] theorem Chip.wr_descs (c : Chip) (f : Fld) (o v : Nat) : (c.wr f o v).descs = c.descs := rfl
@[simp] theorem Chip.wr_frames (c : Chip) (f : Fld) (o v : Nat) : (c.wr f o v).frames = c.frames := rfl
@[simp] theorem Chip.wr_kv (c : Chip) (f : Fld) (o v : Nat) : (c.wr f o v).kv = c.kv := rfl
@[simp] theorem Chip.wr_ctxErr (c : Chip) (f : Fld) (o v : Nat) : (c.wr f o v).ctxErr = c.ctxErr := rfl
@[simp] theorem Chip.wr_ctxScrub (c : Chip) (f : Fld) (o v : Nat) : (c.wr f o v).ctxScrub = c.ctxScrub := rfl
@[simp] theorem Chip.wr_kvMap (c : Chip) (f : Fld) (o v : Nat) : (c.wr f o v).kvMap = c.kvMap := rfl
@[simp] theorem Chip.wr_regionNext (c : Chip) (f : Fld) (o v : Nat) : (c.wr f o v).regionNext = c.regionNext := rfl
@[simp] theorem Chip.wr_keys (c : Chip) (f : Fld) (o v : Nat) : (c.wr f o v).keys = c.keys := rfl
@[simp] theorem Chip.wr_pagings (c : Chip) (f : Fld) (o v : Nat) : (c.wr f o v).pagings = c.pagings := rfl
@[simp] theorem Chip.wr_prefixes (c : Chip) (f : Fld) (o v : Nat) : (c.wr f o v).prefixes = c.prefixes := rfl
@[simp] theorem Chip.wr_bodyAt (c : Chip) (f : Fld) (o v : Nat) : (c.wr f o v).bodyAt = c.bodyAt := rfl
@[simp] theorem Chip.wr_embedAt (c : Chip) (f : Fld) (o v : Nat) : (c.wr f o v).embedAt = c.embedAt := rfl
@[simp] theorem Chip.wr_promptBlocks (c : Chip) (f : Fld) (o v : Nat) : (c.wr f o v).promptBlocks = c.promptBlocks := rfl
@[simp] theorem Chip.wr_poison (c : Chip) (f : Fld) (o v : Nat) : (c.wr f o v).poison = c.poison := rfl
@[simp] theorem Chip.wr_serving (c : Chip) (f : Fld) (o v : Nat) : (c.wr f o v).serving = c.serving := rfl
@[simp] theorem Chip.wr_wear (c : Chip) (f : Fld) (o v : Nat) : (c.wr f o v).wear = c.wear := rfl
@[simp] theorem Chip.wr_inForce (c : Chip) (f : Fld) (o v : Nat) : (c.wr f o v).inForce = c.inForce := rfl
@[simp] theorem Chip.wr_loads (c : Chip) (f : Fld) (o v : Nat) : (c.wr f o v).loads = c.loads := rfl
@[simp] theorem Chip.wr_insoleJobs (c : Chip) (f : Fld) (o v : Nat) : (c.wr f o v).insoleJobs = c.insoleJobs := rfl
@[simp] theorem Chip.wr_stuckMap (c : Chip) (f : Fld) (o v : Nat) : (c.wr f o v).stuckMap = c.stuckMap := rfl
@[simp] theorem Chip.wr_stuckFound (c : Chip) (f : Fld) (o v : Nat) : (c.wr f o v).stuckFound = c.stuckFound := rfl
@[simp] theorem Chip.wr_readySets (c : Chip) (f : Fld) (o v : Nat) : (c.wr f o v).readySets = c.readySets := rfl
@[simp] theorem Chip.wr_shardIn (c : Chip) (f : Fld) (o v : Nat) : (c.wr f o v).shardIn = c.shardIn := rfl
@[simp] theorem Chip.wr_taps (c : Chip) (f : Fld) (o v : Nat) : (c.wr f o v).taps = c.taps := rfl
@[simp] theorem Chip.wr_calTemp (c : Chip) (f : Fld) (o v : Nat) : (c.wr f o v).calTemp = c.calTemp := rfl
@[simp] theorem Chip.wr_imageLatch (c : Chip) (f : Fld) (o v : Nat) : (c.wr f o v).imageLatch = c.imageLatch := rfl
@[simp] theorem Chip.wr_truings (c : Chip) (f : Fld) (o v : Nat) : (c.wr f o v).truings = c.truings := rfl
@[simp] theorem Chip.wr_mon (c : Chip) (f : Fld) (o v : Nat) : (c.wr f o v).mon = c.mon := rfl
@[simp] theorem Chip.wr_suspect (c : Chip) (f : Fld) (o v : Nat) : (c.wr f o v).suspect = c.suspect := rfl
@[simp] theorem Chip.wr_convs (c : Chip) (f : Fld) (o v : Nat) : (c.wr f o v).convs = c.convs := rfl
@[simp] theorem Chip.wr_rose (c : Chip) (f : Fld) (o v : Nat) : (c.wr f o v).rose = c.rose := rfl
@[simp] theorem Chip.wr_rawTemp (c : Chip) (f : Fld) (o v : Nat) : (c.wr f o v).rawTemp = c.rawTemp := rfl
@[simp] theorem Chip.wr_power (c : Chip) (f : Fld) (o v : Nat) : (c.wr f o v).power = c.power := rfl
@[simp] theorem Chip.wr_powerBelow (c : Chip) (f : Fld) (o v : Nat) : (c.wr f o v).powerBelow = c.powerBelow := rfl
@[simp] theorem Chip.wr_fuses (c : Chip) (f : Fld) (o v : Nat) : (c.wr f o v).fuses = c.fuses := rfl
@[simp] theorem Chip.wr_fuseShadow (c : Chip) (f : Fld) (o v : Nat) : (c.wr f o v).fuseShadow = c.fuseShadow := rfl
@[simp] theorem Chip.wr_calCopies (c : Chip) (f : Fld) (o v : Nat) : (c.wr f o v).calCopies = c.calCopies := rfl
@[simp] theorem Chip.wr_opsecRing (c : Chip) (f : Fld) (o v : Nat) : (c.wr f o v).opsecRing = c.opsecRing := rfl
@[simp] theorem Chip.wr_boot (c : Chip) (f : Fld) (o v : Nat) : (c.wr f o v).boot = c.boot := rfl
@[simp] theorem Chip.wr_saving (c : Chip) (f : Fld) (o v : Nat) : (c.wr f o v).saving = c.saving := rfl
@[simp] theorem Chip.wr_inReset (c : Chip) (f : Fld) (o v : Nat) : (c.wr f o v).inReset = c.inReset := rfl
@[simp] theorem Chip.wr_keyCmd (c : Chip) (f : Fld) (o v : Nat) : (c.wr f o v).keyCmd = c.keyCmd := rfl
@[simp] theorem Chip.wr_keyGated (c : Chip) (f : Fld) (o v : Nat) : (c.wr f o v).keyGated = c.keyGated := rfl
@[simp] theorem Chip.wr_mgmt (c : Chip) (f : Fld) (o v : Nat) : (c.wr f o v).mgmt = c.mgmt := rfl
@[simp] theorem Chip.wr_boundary (c : Chip) (f : Fld) (o v : Nat) : (c.wr f o v).boundary = c.boundary := rfl
@[simp] theorem Chip.wr_rawRead (c : Chip) (f : Fld) (o v : Nat) : (c.wr f o v).rawRead = c.rawRead := rfl
@[simp] theorem Chip.wr_ordered (c : Chip) (f : Fld) (o v : Nat) : (c.wr f o v).ordered = c.ordered := rfl
@[simp] theorem Chip.wr_txSa (c : Chip) (f : Fld) (o v : Nat) : (c.wr f o v).txSa = c.txSa := rfl
@[simp] theorem Chip.wr_txPn (c : Chip) (f : Fld) (o v : Nat) : (c.wr f o v).txPn = c.txPn := rfl
@[simp] theorem Chip.wr_rxPn (c : Chip) (f : Fld) (o v : Nat) : (c.wr f o v).rxPn = c.rxPn := rfl
@[simp] theorem Chip.wr_sent (c : Chip) (f : Fld) (o v : Nat) : (c.wr f o v).sent = c.sent := rfl

@[simp] theorem Chip.bump_shadows (c : Chip) (f : Fld) (o n : Nat) : (c.bump f o n).shadows = c.shadows := rfl
@[simp] theorem Chip.bump_fresh (c : Chip) (f : Fld) (o n : Nat) : (c.bump f o n).fresh = c.fresh := rfl
@[simp] theorem Chip.bump_tiles (c : Chip) (f : Fld) (o n : Nat) : (c.bump f o n).tiles = c.tiles := rfl
@[simp] theorem Chip.bump_boards (c : Chip) (f : Fld) (o n : Nat) : (c.bump f o n).boards = c.boards := rfl
@[simp] theorem Chip.bump_cells (c : Chip) (f : Fld) (o n : Nat) : (c.bump f o n).cells = c.cells := rfl
@[simp] theorem Chip.bump_flight (c : Chip) (f : Fld) (o n : Nat) : (c.bump f o n).flight = c.flight := rfl
@[simp] theorem Chip.bump_tack (c : Chip) (f : Fld) (o n : Nat) : (c.bump f o n).tack = c.tack := rfl
@[simp] theorem Chip.bump_stationOut (c : Chip) (f : Fld) (o n : Nat) : (c.bump f o n).stationOut = c.stationOut := rfl
@[simp] theorem Chip.bump_ackOut (c : Chip) (f : Fld) (o n : Nat) : (c.bump f o n).ackOut = c.ackOut := rfl
@[simp] theorem Chip.bump_appends (c : Chip) (f : Fld) (o n : Nat) : (c.bump f o n).appends = c.appends := rfl
@[simp] theorem Chip.bump_credit (c : Chip) (f : Fld) (o n : Nat) : (c.bump f o n).credit = c.credit := rfl
@[simp] theorem Chip.bump_arrivals (c : Chip) (f : Fld) (o n : Nat) : (c.bump f o n).arrivals = c.arrivals := rfl
@[simp] theorem Chip.bump_edges (c : Chip) (f : Fld) (o n : Nat) : (c.bump f o n).edges = c.edges := rfl
@[simp] theorem Chip.bump_refcyc (c : Chip) (f : Fld) (o n : Nat) : (c.bump f o n).refcyc = c.refcyc := rfl
@[simp] theorem Chip.bump_seq (c : Chip) (f : Fld) (o n : Nat) : (c.bump f o n).seq = c.seq := rfl
@[simp] theorem Chip.bump_links (c : Chip) (f : Fld) (o n : Nat) : (c.bump f o n).links = c.links := rfl
@[simp] theorem Chip.bump_copyParts (c : Chip) (f : Fld) (o n : Nat) : (c.bump f o n).copyParts = c.copyParts := rfl
@[simp] theorem Chip.bump_runStart (c : Chip) (f : Fld) (o n : Nat) : (c.bump f o n).runStart = c.runStart := rfl
@[simp] theorem Chip.bump_upTree (c : Chip) (f : Fld) (o n : Nat) : (c.bump f o n).upTree = c.upTree := rfl
@[simp] theorem Chip.bump_downDone (c : Chip) (f : Fld) (o n : Nat) : (c.bump f o n).downDone = c.downDone := rfl
@[simp] theorem Chip.bump_jobPegs (c : Chip) (f : Fld) (o n : Nat) : (c.bump f o n).jobPegs = c.jobPegs := rfl
@[simp] theorem Chip.bump_arrived (c : Chip) (f : Fld) (o n : Nat) : (c.bump f o n).arrived = c.arrived := rfl
@[simp] theorem Chip.bump_lateStep (c : Chip) (f : Fld) (o n : Nat) : (c.bump f o n).lateStep = c.lateStep := rfl
@[simp] theorem Chip.bump_experts (c : Chip) (f : Fld) (o n : Nat) : (c.bump f o n).experts = c.experts := rfl
@[simp] theorem Chip.bump_replicaOut (c : Chip) (f : Fld) (o n : Nat) : (c.bump f o n).replicaOut = c.replicaOut := rfl
@[simp] theorem Chip.bump_replicaServe (c : Chip) (f : Fld) (o n : Nat) : (c.bump f o n).replicaServe = c.replicaServe := rfl
@[simp] theorem Chip.bump_shelfTimes (c : Chip) (f : Fld) (o n : Nat) : (c.bump f o n).shelfTimes = c.shelfTimes := rfl
@[simp] theorem Chip.bump_outUnits (c : Chip) (f : Fld) (o n : Nat) : (c.bump f o n).outUnits = c.outUnits := rfl
@[simp] theorem Chip.bump_heldUnits (c : Chip) (f : Fld) (o n : Nat) : (c.bump f o n).heldUnits = c.heldUnits := rfl
@[simp] theorem Chip.bump_testing (c : Chip) (f : Fld) (o n : Nat) : (c.bump f o n).testing = c.testing := rfl
@[simp] theorem Chip.bump_readmits (c : Chip) (f : Fld) (o n : Nat) : (c.bump f o n).readmits = c.readmits := rfl
@[simp] theorem Chip.bump_shelvedWith (c : Chip) (f : Fld) (o n : Nat) : (c.bump f o n).shelvedWith = c.shelvedWith := rfl
@[simp] theorem Chip.bump_faultQueue (c : Chip) (f : Fld) (o n : Nat) : (c.bump f o n).faultQueue = c.faultQueue := rfl
@[simp] theorem Chip.bump_pkgCauses (c : Chip) (f : Fld) (o n : Nat) : (c.bump f o n).pkgCauses = c.pkgCauses := rfl
@[simp] theorem Chip.bump_runFault (c : Chip) (f : Fld) (o n : Nat) : (c.bump f o n).runFault = c.runFault := rfl
@[simp] theorem Chip.bump_uncovered (c : Chip) (f : Fld) (o n : Nat) : (c.bump f o n).uncovered = c.uncovered := rfl
@[simp] theorem Chip.bump_nextFault (c : Chip) (f : Fld) (o n : Nat) : (c.bump f o n).nextFault = c.nextFault := rfl
@[simp] theorem Chip.bump_holdCause (c : Chip) (f : Fld) (o n : Nat) : (c.bump f o n).holdCause = c.holdCause := rfl
@[simp] theorem Chip.bump_reports (c : Chip) (f : Fld) (o n : Nat) : (c.bump f o n).reports = c.reports := rfl
@[simp] theorem Chip.bump_replicaNext (c : Chip) (f : Fld) (o n : Nat) : (c.bump f o n).replicaNext = c.replicaNext := rfl
@[simp] theorem Chip.bump_notices (c : Chip) (f : Fld) (o n : Nat) : (c.bump f o n).notices = c.notices := rfl
@[simp] theorem Chip.bump_probing (c : Chip) (f : Fld) (o n : Nat) : (c.bump f o n).probing = c.probing := rfl
@[simp] theorem Chip.bump_replayAt (c : Chip) (f : Fld) (o n : Nat) : (c.bump f o n).replayAt = c.replayAt := rfl
@[simp] theorem Chip.bump_recorders (c : Chip) (f : Fld) (o n : Nat) : (c.bump f o n).recorders = c.recorders := rfl
@[simp] theorem Chip.bump_logbook (c : Chip) (f : Fld) (o n : Nat) : (c.bump f o n).logbook = c.logbook := rfl
@[simp] theorem Chip.bump_descs (c : Chip) (f : Fld) (o n : Nat) : (c.bump f o n).descs = c.descs := rfl
@[simp] theorem Chip.bump_frames (c : Chip) (f : Fld) (o n : Nat) : (c.bump f o n).frames = c.frames := rfl
@[simp] theorem Chip.bump_kv (c : Chip) (f : Fld) (o n : Nat) : (c.bump f o n).kv = c.kv := rfl
@[simp] theorem Chip.bump_ctxErr (c : Chip) (f : Fld) (o n : Nat) : (c.bump f o n).ctxErr = c.ctxErr := rfl
@[simp] theorem Chip.bump_ctxScrub (c : Chip) (f : Fld) (o n : Nat) : (c.bump f o n).ctxScrub = c.ctxScrub := rfl
@[simp] theorem Chip.bump_kvMap (c : Chip) (f : Fld) (o n : Nat) : (c.bump f o n).kvMap = c.kvMap := rfl
@[simp] theorem Chip.bump_regionNext (c : Chip) (f : Fld) (o n : Nat) : (c.bump f o n).regionNext = c.regionNext := rfl
@[simp] theorem Chip.bump_keys (c : Chip) (f : Fld) (o n : Nat) : (c.bump f o n).keys = c.keys := rfl
@[simp] theorem Chip.bump_pagings (c : Chip) (f : Fld) (o n : Nat) : (c.bump f o n).pagings = c.pagings := rfl
@[simp] theorem Chip.bump_prefixes (c : Chip) (f : Fld) (o n : Nat) : (c.bump f o n).prefixes = c.prefixes := rfl
@[simp] theorem Chip.bump_bodyAt (c : Chip) (f : Fld) (o n : Nat) : (c.bump f o n).bodyAt = c.bodyAt := rfl
@[simp] theorem Chip.bump_embedAt (c : Chip) (f : Fld) (o n : Nat) : (c.bump f o n).embedAt = c.embedAt := rfl
@[simp] theorem Chip.bump_promptBlocks (c : Chip) (f : Fld) (o n : Nat) : (c.bump f o n).promptBlocks = c.promptBlocks := rfl
@[simp] theorem Chip.bump_poison (c : Chip) (f : Fld) (o n : Nat) : (c.bump f o n).poison = c.poison := rfl
@[simp] theorem Chip.bump_serving (c : Chip) (f : Fld) (o n : Nat) : (c.bump f o n).serving = c.serving := rfl
@[simp] theorem Chip.bump_wear (c : Chip) (f : Fld) (o n : Nat) : (c.bump f o n).wear = c.wear := rfl
@[simp] theorem Chip.bump_inForce (c : Chip) (f : Fld) (o n : Nat) : (c.bump f o n).inForce = c.inForce := rfl
@[simp] theorem Chip.bump_loads (c : Chip) (f : Fld) (o n : Nat) : (c.bump f o n).loads = c.loads := rfl
@[simp] theorem Chip.bump_insoleJobs (c : Chip) (f : Fld) (o n : Nat) : (c.bump f o n).insoleJobs = c.insoleJobs := rfl
@[simp] theorem Chip.bump_stuckMap (c : Chip) (f : Fld) (o n : Nat) : (c.bump f o n).stuckMap = c.stuckMap := rfl
@[simp] theorem Chip.bump_stuckFound (c : Chip) (f : Fld) (o n : Nat) : (c.bump f o n).stuckFound = c.stuckFound := rfl
@[simp] theorem Chip.bump_readySets (c : Chip) (f : Fld) (o n : Nat) : (c.bump f o n).readySets = c.readySets := rfl
@[simp] theorem Chip.bump_shardIn (c : Chip) (f : Fld) (o n : Nat) : (c.bump f o n).shardIn = c.shardIn := rfl
@[simp] theorem Chip.bump_taps (c : Chip) (f : Fld) (o n : Nat) : (c.bump f o n).taps = c.taps := rfl
@[simp] theorem Chip.bump_calTemp (c : Chip) (f : Fld) (o n : Nat) : (c.bump f o n).calTemp = c.calTemp := rfl
@[simp] theorem Chip.bump_imageLatch (c : Chip) (f : Fld) (o n : Nat) : (c.bump f o n).imageLatch = c.imageLatch := rfl
@[simp] theorem Chip.bump_truings (c : Chip) (f : Fld) (o n : Nat) : (c.bump f o n).truings = c.truings := rfl
@[simp] theorem Chip.bump_mon (c : Chip) (f : Fld) (o n : Nat) : (c.bump f o n).mon = c.mon := rfl
@[simp] theorem Chip.bump_suspect (c : Chip) (f : Fld) (o n : Nat) : (c.bump f o n).suspect = c.suspect := rfl
@[simp] theorem Chip.bump_convs (c : Chip) (f : Fld) (o n : Nat) : (c.bump f o n).convs = c.convs := rfl
@[simp] theorem Chip.bump_rose (c : Chip) (f : Fld) (o n : Nat) : (c.bump f o n).rose = c.rose := rfl
@[simp] theorem Chip.bump_rawTemp (c : Chip) (f : Fld) (o n : Nat) : (c.bump f o n).rawTemp = c.rawTemp := rfl
@[simp] theorem Chip.bump_power (c : Chip) (f : Fld) (o n : Nat) : (c.bump f o n).power = c.power := rfl
@[simp] theorem Chip.bump_powerBelow (c : Chip) (f : Fld) (o n : Nat) : (c.bump f o n).powerBelow = c.powerBelow := rfl
@[simp] theorem Chip.bump_fuses (c : Chip) (f : Fld) (o n : Nat) : (c.bump f o n).fuses = c.fuses := rfl
@[simp] theorem Chip.bump_fuseShadow (c : Chip) (f : Fld) (o n : Nat) : (c.bump f o n).fuseShadow = c.fuseShadow := rfl
@[simp] theorem Chip.bump_calCopies (c : Chip) (f : Fld) (o n : Nat) : (c.bump f o n).calCopies = c.calCopies := rfl
@[simp] theorem Chip.bump_opsecRing (c : Chip) (f : Fld) (o n : Nat) : (c.bump f o n).opsecRing = c.opsecRing := rfl
@[simp] theorem Chip.bump_boot (c : Chip) (f : Fld) (o n : Nat) : (c.bump f o n).boot = c.boot := rfl
@[simp] theorem Chip.bump_saving (c : Chip) (f : Fld) (o n : Nat) : (c.bump f o n).saving = c.saving := rfl
@[simp] theorem Chip.bump_inReset (c : Chip) (f : Fld) (o n : Nat) : (c.bump f o n).inReset = c.inReset := rfl
@[simp] theorem Chip.bump_keyCmd (c : Chip) (f : Fld) (o n : Nat) : (c.bump f o n).keyCmd = c.keyCmd := rfl
@[simp] theorem Chip.bump_keyGated (c : Chip) (f : Fld) (o n : Nat) : (c.bump f o n).keyGated = c.keyGated := rfl
@[simp] theorem Chip.bump_mgmt (c : Chip) (f : Fld) (o n : Nat) : (c.bump f o n).mgmt = c.mgmt := rfl
@[simp] theorem Chip.bump_boundary (c : Chip) (f : Fld) (o n : Nat) : (c.bump f o n).boundary = c.boundary := rfl
@[simp] theorem Chip.bump_rawRead (c : Chip) (f : Fld) (o n : Nat) : (c.bump f o n).rawRead = c.rawRead := rfl
@[simp] theorem Chip.bump_ordered (c : Chip) (f : Fld) (o n : Nat) : (c.bump f o n).ordered = c.ordered := rfl
@[simp] theorem Chip.bump_txSa (c : Chip) (f : Fld) (o n : Nat) : (c.bump f o n).txSa = c.txSa := rfl
@[simp] theorem Chip.bump_txPn (c : Chip) (f : Fld) (o n : Nat) : (c.bump f o n).txPn = c.txPn := rfl
@[simp] theorem Chip.bump_rxPn (c : Chip) (f : Fld) (o n : Nat) : (c.bump f o n).rxPn = c.rxPn := rfl
@[simp] theorem Chip.bump_sent (c : Chip) (f : Fld) (o n : Nat) : (c.bump f o n).sent = c.sent := rfl

/-! ## Tile updates touch the tiles only -/

@[simp] theorem Chip.onTile_regs (c : Chip) (t : Nat) (f : Tile → Tile) : (c.onTile t f).regs = c.regs := rfl
@[simp] theorem Chip.onTile_shadows (c : Chip) (t : Nat) (f : Tile → Tile) : (c.onTile t f).shadows = c.shadows := rfl
@[simp] theorem Chip.onTile_fresh (c : Chip) (t : Nat) (f : Tile → Tile) : (c.onTile t f).fresh = c.fresh := rfl
@[simp] theorem Chip.onTile_boards (c : Chip) (t : Nat) (f : Tile → Tile) : (c.onTile t f).boards = c.boards := rfl
@[simp] theorem Chip.onTile_cells (c : Chip) (t : Nat) (f : Tile → Tile) : (c.onTile t f).cells = c.cells := rfl
@[simp] theorem Chip.onTile_flight (c : Chip) (t : Nat) (f : Tile → Tile) : (c.onTile t f).flight = c.flight := rfl
@[simp] theorem Chip.onTile_tack (c : Chip) (t : Nat) (f : Tile → Tile) : (c.onTile t f).tack = c.tack := rfl
@[simp] theorem Chip.onTile_stationOut (c : Chip) (t : Nat) (f : Tile → Tile) : (c.onTile t f).stationOut = c.stationOut := rfl
@[simp] theorem Chip.onTile_ackOut (c : Chip) (t : Nat) (f : Tile → Tile) : (c.onTile t f).ackOut = c.ackOut := rfl
@[simp] theorem Chip.onTile_appends (c : Chip) (t : Nat) (f : Tile → Tile) : (c.onTile t f).appends = c.appends := rfl
@[simp] theorem Chip.onTile_credit (c : Chip) (t : Nat) (f : Tile → Tile) : (c.onTile t f).credit = c.credit := rfl
@[simp] theorem Chip.onTile_arrivals (c : Chip) (t : Nat) (f : Tile → Tile) : (c.onTile t f).arrivals = c.arrivals := rfl
@[simp] theorem Chip.onTile_edges (c : Chip) (t : Nat) (f : Tile → Tile) : (c.onTile t f).edges = c.edges := rfl
@[simp] theorem Chip.onTile_refcyc (c : Chip) (t : Nat) (f : Tile → Tile) : (c.onTile t f).refcyc = c.refcyc := rfl
@[simp] theorem Chip.onTile_seq (c : Chip) (t : Nat) (f : Tile → Tile) : (c.onTile t f).seq = c.seq := rfl
@[simp] theorem Chip.onTile_links (c : Chip) (t : Nat) (f : Tile → Tile) : (c.onTile t f).links = c.links := rfl
@[simp] theorem Chip.onTile_copyParts (c : Chip) (t : Nat) (f : Tile → Tile) : (c.onTile t f).copyParts = c.copyParts := rfl
@[simp] theorem Chip.onTile_runStart (c : Chip) (t : Nat) (f : Tile → Tile) : (c.onTile t f).runStart = c.runStart := rfl
@[simp] theorem Chip.onTile_upTree (c : Chip) (t : Nat) (f : Tile → Tile) : (c.onTile t f).upTree = c.upTree := rfl
@[simp] theorem Chip.onTile_downDone (c : Chip) (t : Nat) (f : Tile → Tile) : (c.onTile t f).downDone = c.downDone := rfl
@[simp] theorem Chip.onTile_jobPegs (c : Chip) (t : Nat) (f : Tile → Tile) : (c.onTile t f).jobPegs = c.jobPegs := rfl
@[simp] theorem Chip.onTile_arrived (c : Chip) (t : Nat) (f : Tile → Tile) : (c.onTile t f).arrived = c.arrived := rfl
@[simp] theorem Chip.onTile_lateStep (c : Chip) (t : Nat) (f : Tile → Tile) : (c.onTile t f).lateStep = c.lateStep := rfl
@[simp] theorem Chip.onTile_experts (c : Chip) (t : Nat) (f : Tile → Tile) : (c.onTile t f).experts = c.experts := rfl
@[simp] theorem Chip.onTile_replicaOut (c : Chip) (t : Nat) (f : Tile → Tile) : (c.onTile t f).replicaOut = c.replicaOut := rfl
@[simp] theorem Chip.onTile_replicaServe (c : Chip) (t : Nat) (f : Tile → Tile) : (c.onTile t f).replicaServe = c.replicaServe := rfl
@[simp] theorem Chip.onTile_shelfTimes (c : Chip) (t : Nat) (f : Tile → Tile) : (c.onTile t f).shelfTimes = c.shelfTimes := rfl
@[simp] theorem Chip.onTile_outUnits (c : Chip) (t : Nat) (f : Tile → Tile) : (c.onTile t f).outUnits = c.outUnits := rfl
@[simp] theorem Chip.onTile_heldUnits (c : Chip) (t : Nat) (f : Tile → Tile) : (c.onTile t f).heldUnits = c.heldUnits := rfl
@[simp] theorem Chip.onTile_testing (c : Chip) (t : Nat) (f : Tile → Tile) : (c.onTile t f).testing = c.testing := rfl
@[simp] theorem Chip.onTile_readmits (c : Chip) (t : Nat) (f : Tile → Tile) : (c.onTile t f).readmits = c.readmits := rfl
@[simp] theorem Chip.onTile_shelvedWith (c : Chip) (t : Nat) (f : Tile → Tile) : (c.onTile t f).shelvedWith = c.shelvedWith := rfl
@[simp] theorem Chip.onTile_faultQueue (c : Chip) (t : Nat) (f : Tile → Tile) : (c.onTile t f).faultQueue = c.faultQueue := rfl
@[simp] theorem Chip.onTile_pkgCauses (c : Chip) (t : Nat) (f : Tile → Tile) : (c.onTile t f).pkgCauses = c.pkgCauses := rfl
@[simp] theorem Chip.onTile_runFault (c : Chip) (t : Nat) (f : Tile → Tile) : (c.onTile t f).runFault = c.runFault := rfl
@[simp] theorem Chip.onTile_uncovered (c : Chip) (t : Nat) (f : Tile → Tile) : (c.onTile t f).uncovered = c.uncovered := rfl
@[simp] theorem Chip.onTile_nextFault (c : Chip) (t : Nat) (f : Tile → Tile) : (c.onTile t f).nextFault = c.nextFault := rfl
@[simp] theorem Chip.onTile_holdCause (c : Chip) (t : Nat) (f : Tile → Tile) : (c.onTile t f).holdCause = c.holdCause := rfl
@[simp] theorem Chip.onTile_reports (c : Chip) (t : Nat) (f : Tile → Tile) : (c.onTile t f).reports = c.reports := rfl
@[simp] theorem Chip.onTile_replicaNext (c : Chip) (t : Nat) (f : Tile → Tile) : (c.onTile t f).replicaNext = c.replicaNext := rfl
@[simp] theorem Chip.onTile_notices (c : Chip) (t : Nat) (f : Tile → Tile) : (c.onTile t f).notices = c.notices := rfl
@[simp] theorem Chip.onTile_probing (c : Chip) (t : Nat) (f : Tile → Tile) : (c.onTile t f).probing = c.probing := rfl
@[simp] theorem Chip.onTile_replayAt (c : Chip) (t : Nat) (f : Tile → Tile) : (c.onTile t f).replayAt = c.replayAt := rfl
@[simp] theorem Chip.onTile_recorders (c : Chip) (t : Nat) (f : Tile → Tile) : (c.onTile t f).recorders = c.recorders := rfl
@[simp] theorem Chip.onTile_logbook (c : Chip) (t : Nat) (f : Tile → Tile) : (c.onTile t f).logbook = c.logbook := rfl
@[simp] theorem Chip.onTile_descs (c : Chip) (t : Nat) (f : Tile → Tile) : (c.onTile t f).descs = c.descs := rfl
@[simp] theorem Chip.onTile_frames (c : Chip) (t : Nat) (f : Tile → Tile) : (c.onTile t f).frames = c.frames := rfl
@[simp] theorem Chip.onTile_kv (c : Chip) (t : Nat) (f : Tile → Tile) : (c.onTile t f).kv = c.kv := rfl
@[simp] theorem Chip.onTile_ctxErr (c : Chip) (t : Nat) (f : Tile → Tile) : (c.onTile t f).ctxErr = c.ctxErr := rfl
@[simp] theorem Chip.onTile_ctxScrub (c : Chip) (t : Nat) (f : Tile → Tile) : (c.onTile t f).ctxScrub = c.ctxScrub := rfl
@[simp] theorem Chip.onTile_kvMap (c : Chip) (t : Nat) (f : Tile → Tile) : (c.onTile t f).kvMap = c.kvMap := rfl
@[simp] theorem Chip.onTile_regionNext (c : Chip) (t : Nat) (f : Tile → Tile) : (c.onTile t f).regionNext = c.regionNext := rfl
@[simp] theorem Chip.onTile_keys (c : Chip) (t : Nat) (f : Tile → Tile) : (c.onTile t f).keys = c.keys := rfl
@[simp] theorem Chip.onTile_pagings (c : Chip) (t : Nat) (f : Tile → Tile) : (c.onTile t f).pagings = c.pagings := rfl
@[simp] theorem Chip.onTile_prefixes (c : Chip) (t : Nat) (f : Tile → Tile) : (c.onTile t f).prefixes = c.prefixes := rfl
@[simp] theorem Chip.onTile_bodyAt (c : Chip) (t : Nat) (f : Tile → Tile) : (c.onTile t f).bodyAt = c.bodyAt := rfl
@[simp] theorem Chip.onTile_embedAt (c : Chip) (t : Nat) (f : Tile → Tile) : (c.onTile t f).embedAt = c.embedAt := rfl
@[simp] theorem Chip.onTile_promptBlocks (c : Chip) (t : Nat) (f : Tile → Tile) : (c.onTile t f).promptBlocks = c.promptBlocks := rfl
@[simp] theorem Chip.onTile_poison (c : Chip) (t : Nat) (f : Tile → Tile) : (c.onTile t f).poison = c.poison := rfl
@[simp] theorem Chip.onTile_serving (c : Chip) (t : Nat) (f : Tile → Tile) : (c.onTile t f).serving = c.serving := rfl
@[simp] theorem Chip.onTile_wear (c : Chip) (t : Nat) (f : Tile → Tile) : (c.onTile t f).wear = c.wear := rfl
@[simp] theorem Chip.onTile_inForce (c : Chip) (t : Nat) (f : Tile → Tile) : (c.onTile t f).inForce = c.inForce := rfl
@[simp] theorem Chip.onTile_loads (c : Chip) (t : Nat) (f : Tile → Tile) : (c.onTile t f).loads = c.loads := rfl
@[simp] theorem Chip.onTile_insoleJobs (c : Chip) (t : Nat) (f : Tile → Tile) : (c.onTile t f).insoleJobs = c.insoleJobs := rfl
@[simp] theorem Chip.onTile_stuckMap (c : Chip) (t : Nat) (f : Tile → Tile) : (c.onTile t f).stuckMap = c.stuckMap := rfl
@[simp] theorem Chip.onTile_stuckFound (c : Chip) (t : Nat) (f : Tile → Tile) : (c.onTile t f).stuckFound = c.stuckFound := rfl
@[simp] theorem Chip.onTile_readySets (c : Chip) (t : Nat) (f : Tile → Tile) : (c.onTile t f).readySets = c.readySets := rfl
@[simp] theorem Chip.onTile_shardIn (c : Chip) (t : Nat) (f : Tile → Tile) : (c.onTile t f).shardIn = c.shardIn := rfl
@[simp] theorem Chip.onTile_taps (c : Chip) (t : Nat) (f : Tile → Tile) : (c.onTile t f).taps = c.taps := rfl
@[simp] theorem Chip.onTile_calTemp (c : Chip) (t : Nat) (f : Tile → Tile) : (c.onTile t f).calTemp = c.calTemp := rfl
@[simp] theorem Chip.onTile_imageLatch (c : Chip) (t : Nat) (f : Tile → Tile) : (c.onTile t f).imageLatch = c.imageLatch := rfl
@[simp] theorem Chip.onTile_truings (c : Chip) (t : Nat) (f : Tile → Tile) : (c.onTile t f).truings = c.truings := rfl
@[simp] theorem Chip.onTile_mon (c : Chip) (t : Nat) (f : Tile → Tile) : (c.onTile t f).mon = c.mon := rfl
@[simp] theorem Chip.onTile_suspect (c : Chip) (t : Nat) (f : Tile → Tile) : (c.onTile t f).suspect = c.suspect := rfl
@[simp] theorem Chip.onTile_convs (c : Chip) (t : Nat) (f : Tile → Tile) : (c.onTile t f).convs = c.convs := rfl
@[simp] theorem Chip.onTile_rose (c : Chip) (t : Nat) (f : Tile → Tile) : (c.onTile t f).rose = c.rose := rfl
@[simp] theorem Chip.onTile_rawTemp (c : Chip) (t : Nat) (f : Tile → Tile) : (c.onTile t f).rawTemp = c.rawTemp := rfl
@[simp] theorem Chip.onTile_power (c : Chip) (t : Nat) (f : Tile → Tile) : (c.onTile t f).power = c.power := rfl
@[simp] theorem Chip.onTile_powerBelow (c : Chip) (t : Nat) (f : Tile → Tile) : (c.onTile t f).powerBelow = c.powerBelow := rfl
@[simp] theorem Chip.onTile_fuses (c : Chip) (t : Nat) (f : Tile → Tile) : (c.onTile t f).fuses = c.fuses := rfl
@[simp] theorem Chip.onTile_fuseShadow (c : Chip) (t : Nat) (f : Tile → Tile) : (c.onTile t f).fuseShadow = c.fuseShadow := rfl
@[simp] theorem Chip.onTile_calCopies (c : Chip) (t : Nat) (f : Tile → Tile) : (c.onTile t f).calCopies = c.calCopies := rfl
@[simp] theorem Chip.onTile_opsecRing (c : Chip) (t : Nat) (f : Tile → Tile) : (c.onTile t f).opsecRing = c.opsecRing := rfl
@[simp] theorem Chip.onTile_boot (c : Chip) (t : Nat) (f : Tile → Tile) : (c.onTile t f).boot = c.boot := rfl
@[simp] theorem Chip.onTile_saving (c : Chip) (t : Nat) (f : Tile → Tile) : (c.onTile t f).saving = c.saving := rfl
@[simp] theorem Chip.onTile_inReset (c : Chip) (t : Nat) (f : Tile → Tile) : (c.onTile t f).inReset = c.inReset := rfl
@[simp] theorem Chip.onTile_keyCmd (c : Chip) (t : Nat) (f : Tile → Tile) : (c.onTile t f).keyCmd = c.keyCmd := rfl
@[simp] theorem Chip.onTile_keyGated (c : Chip) (t : Nat) (f : Tile → Tile) : (c.onTile t f).keyGated = c.keyGated := rfl
@[simp] theorem Chip.onTile_mgmt (c : Chip) (t : Nat) (f : Tile → Tile) : (c.onTile t f).mgmt = c.mgmt := rfl
@[simp] theorem Chip.onTile_boundary (c : Chip) (t : Nat) (f : Tile → Tile) : (c.onTile t f).boundary = c.boundary := rfl
@[simp] theorem Chip.onTile_rawRead (c : Chip) (t : Nat) (f : Tile → Tile) : (c.onTile t f).rawRead = c.rawRead := rfl
@[simp] theorem Chip.onTile_ordered (c : Chip) (t : Nat) (f : Tile → Tile) : (c.onTile t f).ordered = c.ordered := rfl
@[simp] theorem Chip.onTile_txSa (c : Chip) (t : Nat) (f : Tile → Tile) : (c.onTile t f).txSa = c.txSa := rfl
@[simp] theorem Chip.onTile_txPn (c : Chip) (t : Nat) (f : Tile → Tile) : (c.onTile t f).txPn = c.txPn := rfl
@[simp] theorem Chip.onTile_rxPn (c : Chip) (t : Nat) (f : Tile → Tile) : (c.onTile t f).rxPn = c.rxPn := rfl
@[simp] theorem Chip.onTile_sent (c : Chip) (t : Nat) (f : Tile → Tile) : (c.onTile t f).sent = c.sent := rfl

end Sys2Proof.Machine
end

