-- ==== Sys2Proof/Laws/Tables.lean ====
section
/-! SUPPORT. What the operations on sparse tables do: reading after writing, and the canonical form that writing keeps. -/
namespace Sys2Proof.Machine.Tbl

@[simp] theorem find?_nil {α : Type} (x : Nat) : find? ([] : Map α) x = none := rfl

@[simp] theorem find?_insert_same {α : Type} (x : Nat) (v : α) (m : Map α) : find? (insert x v m) x = some v := by
  induction m with
  | nil => simp [insert, find?]
  | cons e t ih =>
    obtain ⟨k, w⟩ := e
    simp only [insert]
    split
    · simp [find?]
    · split
      · simp [find?]
      · rename_i h
        simp [find?, Ne.symm h, ih]

theorem find?_insert_other {α : Type} {x y : Nat} (h : y ≠ x) (v : α) (m : Map α) :
    find? (insert x v m) y = find? m y := by
  induction m with
  | nil => simp [insert, find?, Ne.symm h]
  | cons e t ih =>
    obtain ⟨k, w⟩ := e
    simp only [insert]
    split
    · simp [find?, Ne.symm h]
    · split
      · rename_i hk; subst hk; simp [find?, Ne.symm h]
      · simp only [find?, ih]

@[simp] theorem find?_erase_same {α : Type} (x : Nat) (m : Map α) : find? (erase x m) x = none := by
  induction m with
  | nil => rfl
  | cons e t ih =>
    obtain ⟨k, w⟩ := e
    simp only [erase]
    split
    · exact ih
    · rename_i h; simp [find?, h, ih]

theorem find?_erase_other {α : Type} {x y : Nat} (h : y ≠ x) (m : Map α) : find? (erase x m) y = find? m y := by
  induction m with
  | nil => rfl
  | cons e t ih =>
    obtain ⟨k, w⟩ := e
    simp only [erase]
    split
    · rename_i hk; subst hk; simp [find?, Ne.symm h, ih]
    · simp only [find?, ih]

theorem find?_put_other {α : Type} [DecidableEq α] {x y : Nat} (h : y ≠ x) (d v : α) (m : Map α) :
    find? (put d m x v) y = find? m y := by
  unfold put; split
  · exact find?_erase_other h m
  · exact find?_insert_other h v m

@[simp] theorem get_nil {α : Type} (d : α) (x : Nat) : get d [] x = d := rfl

@[simp] theorem get_insert_same {α : Type} (d : α) (x : Nat) (v : α) (m : Map α) : get d (insert x v m) x = v := by
  simp [get]

theorem get_insert_other {α : Type} {x y : Nat} (h : y ≠ x) (d v : α) (m : Map α) :
    get d (insert x v m) y = get d m y := by
  simp [get, find?_insert_other h]

@[simp] theorem get_put_same {α : Type} [DecidableEq α] (d v : α) (m : Map α) (x : Nat) : get d (put d m x v) x = v := by
  unfold put; split
  · rename_i h; simp [get, h]
  · simp

theorem get_put_other {α : Type} [DecidableEq α] {x y : Nat} (h : y ≠ x) (d e v : α) (m : Map α) :
    get e (put d m x v) y = get e m y := by
  simp [get, find?_put_other h]

/-! ## The canonical form -/

theorem sortedFrom_erase {α : Type} (x : Nat) : ∀ (m : Map α) (lo : Option Nat), sortedFrom lo m = true →
    sortedFrom lo (erase x m) = true
  | [], _, _ => rfl
  | (k, w) :: t, lo, h => by
    simp only [sortedFrom, Bool.and_eq_true] at h
    simp only [erase]
    split
    · apply sortedFrom_erase x t lo
      cases t with
      | nil => rfl
      | cons e r =>
        obtain ⟨k', w'⟩ := e
        have h2 := h.2
        simp only [sortedFrom, Bool.and_eq_true, decide_eq_true_eq] at h2 ⊢
        refine ⟨?_, h2.2⟩
        cases lo with
        | none => rfl
        | some l =>
          have h1 := h.1
          simp only [decide_eq_true_eq] at h1 ⊢
          omega
    · simp only [sortedFrom, Bool.and_eq_true]
      exact ⟨h.1, sortedFrom_erase x t (some k) h.2⟩

theorem sortedFrom_insert {α : Type} (x : Nat) (v : α) : ∀ (m : Map α) (lo : Option Nat), sortedFrom lo m = true →
    (∀ l, lo = some l → l < x) → sortedFrom lo (insert x v m) = true
  | [], lo, _, hx => by
    simp only [insert, sortedFrom, Bool.and_true]
    cases lo with
    | none => rfl
    | some l => simpa using hx l rfl
  | (k, w) :: t, lo, h, hx => by
    simp only [sortedFrom, Bool.and_eq_true] at h
    simp only [insert]
    split
    · rename_i hk
      simp only [sortedFrom, Bool.and_eq_true]
      refine ⟨?_, by simpa using hk, h.2⟩
      cases lo with
      | none => rfl
      | some l => simpa using hx l rfl
    · split
      · rename_i hk
        subst hk
        simp only [sortedFrom, Bool.and_eq_true]
        refine ⟨?_, h.2⟩
        cases lo with
        | none => rfl
        | some l => simpa using hx l rfl
      · simp only [sortedFrom, Bool.and_eq_true]
        exact ⟨h.1, sortedFrom_insert x v t (some k) h.2 (by intro l hl; cases hl; omega)⟩

theorem all_erase {α : Type} (p : Nat × α → Bool) (x : Nat) (m : Map α) (h : m.all p = true) :
    (erase x m).all p = true := by
  induction m with
  | nil => rfl
  | cons e t ih =>
    obtain ⟨k, w⟩ := e
    simp only [List.all_cons, Bool.and_eq_true] at h
    simp only [erase]
    split
    · exact ih h.2
    · simp [h.1, ih h.2]

theorem all_insert {α : Type} (p : Nat × α → Bool) (x : Nat) (v : α) (m : Map α) (h : m.all p = true)
    (hv : p (x, v) = true) : (insert x v m).all p = true := by
  induction m with
  | nil => simp [insert, hv]
  | cons e t ih =>
    obtain ⟨k, w⟩ := e
    have h' := h
    simp only [List.all_cons, Bool.and_eq_true] at h
    simp only [insert]
    split
    · simp [hv, h.1, h.2]
    · split
      · simp [hv, h.2]
      · simp [h.1, ih h.2]

/-- Writing keeps a table in canonical form. -/
theorem wf_put {α : Type} [DecidableEq α] (d : α) (m : Map α) (x : Nat) (v : α) (h : wf d m = true) :
    wf d (put d m x v) = true := by
  simp only [wf, sorted, Bool.and_eq_true] at h ⊢
  unfold put; split
  · exact ⟨sortedFrom_erase x m none h.1, all_erase _ x m h.2⟩
  · rename_i hv
    exact ⟨sortedFrom_insert x v m none h.1 (by simp), all_insert _ x v m h.2 (by simpa using hv)⟩

@[simp] theorem wf_nil {α : Type} [DecidableEq α] (d : α) : wf d ([] : Map α) = true := rfl

end Sys2Proof.Machine.Tbl
end

