-- ==== Sys2Proof/Laws/Ops.lean ====
section
/-! SUPPORT. What the shared operations do: register fields after a write, the operations as functions of the part, and the
rules by which an invariant passes through a command's effect. -/
namespace Sys2Proof.Machine

/-! ## Register fields -/

@[simp] theorem Chip.rd_wr_same (c : Chip) (f : Fld) (o v : Nat) : (c.wr f o v).rd f o = v % 2 ^ f.width := by
  simp [Chip.rd, Chip.wr]

theorem Chip.rd_wr_other {f g : Fld} {o p : Nat} (h : regKey g p ≠ regKey f o) (c : Chip) (v : Nat) :
    (c.wr f o v).rd g p = c.rd g p := by
  simp only [Chip.rd, Chip.wr]
  exact Tbl.get_put_other h _ _ _ _

theorem Chip.find_wr_other {k : Nat} {f : Fld} {o : Nat} (h : k ≠ regKey f o) (c : Chip) (v : Nat) :
    Tbl.find? (c.wr f o v).regs k = Tbl.find? c.regs k := Tbl.find?_put_other h _ _ _

/-- A field reads alike in two parts whose register files list it alike. -/
theorem Chip.rd_of_find {c d : Chip} {f : Fld} {o : Nat} (h : Tbl.find? d.regs (regKey f o) = Tbl.find? c.regs (regKey f o)) :
    d.rd f o = c.rd f o := by
  simp [Chip.rd, Tbl.get, h]

/-! ## The operations as functions -/

theorem CM.run_bind {α β : Type} (m : CM α) (f : α → CM β) (c : Chip) :
    (m >>= f).run c = (f (m.run c).1).run (m.run c).2 := rfl
/-- An effect before others: they act on what it leaves. -/
theorem CM.run_seq {β : Type} (m : CM Unit) (f : Unit → CM β) (c : Chip) : (m >>= f).run c = (f ()).run (m.run c).2 := rfl
theorem CM.get_bind {β : Type} (f : Chip → CM β) (c : Chip) : ((get : CM Chip) >>= f).run c = (f c).run c := rfl
theorem CM.rdM_bind {β : Type} (g : Fld) (o : Nat) (f : Nat → CM β) (c : Chip) :
    (rdM g o >>= f).run c = (f (c.rd g o)).run c := rfl
theorem CM.tileM_bind {β : Type} (t : Nat) (f : Tile → CM β) (c : Chip) :
    (tileM t >>= f).run c = (f (c.tile t)).run c := rfl
theorem CM.run_pure {α : Type} (a : α) (c : Chip) : (pure a : CM α).run c = (a, c) := rfl
theorem CM.run_get (c : Chip) : (get : CM Chip).run c = (c, c) := rfl
theorem CM.run_modify (f : Chip → Chip) (c : Chip) : (modify f : CM Unit).run c = ((), f c) := rfl
theorem CM.run_set (d c : Chip) : (set d : CM Unit).run c = ((), d) := rfl
theorem CM.run_ite {α : Type} (p : Prop) [Decidable p] (m n : CM α) (c : Chip) :
    (if p then m else n).run c = if p then m.run c else n.run c := by split <;> rfl
theorem whenM_run (b : Bool) (m : CM Unit) (c : Chip) : (whenM b m).run c = if b then m.run c else ((), c) := by
  cases b <;> rfl
theorem wrM_run (f : Fld) (o v : Nat) (c : Chip) : (wrM f o v).run c = ((), c.wr f o v) := rfl
theorem bumpM_run (f : Fld) (o n : Nat) (c : Chip) : (bumpM f o n).run c = ((), c.bump f o n) := rfl
theorem rdM_run (f : Fld) (o : Nat) (c : Chip) : (rdM f o).run c = (c.rd f o, c) := rfl
@[simp] theorem whenM_true (m : CM Unit) : whenM true m = m := rfl
@[simp] theorem whenM_false (m : CM Unit) : whenM false m = pure () := rfl
@[simp] theorem forM_nil {α : Type} (f : α → CM Unit) : forM_ [] f = pure () := rfl
@[simp] theorem forM_cons {α : Type} (a : α) (t : List α) (f : α → CM Unit) : forM_ (a :: t) f = (do f a; forM_ t f) := rfl
theorem onTileM_run (t : Nat) (f : Tile → Tile) (c : Chip) : (onTileM t f).run c = ((), c.onTile t f) := rfl

/-! ## Invariants through effects -/

/-- An effect keeps an invariant: of every part that has it, it makes one that has it. -/
def Keeps {α : Type} (I : Chip → Prop) (m : CM α) : Prop := ∀ c, I c → I (m.run c).2

theorem Keeps.pure {α : Type} {I : Chip → Prop} (a : α) : Keeps I (Pure.pure a : CM α) := fun _ h => h

theorem Keeps.get {I : Chip → Prop} : Keeps I (MonadState.get : CM Chip) := fun _ h => h

theorem Keeps.bind {α β : Type} {I : Chip → Prop} {m : CM α} {f : α → CM β} (hm : Keeps I m) (hf : ∀ a, Keeps I (f a)) :
    Keeps I (m >>= f) := fun c h => hf _ _ (hm c h)

theorem Keeps.modify {I : Chip → Prop} {f : Chip → Chip} (h : ∀ c, I c → I (f c)) :
    Keeps I (modify f : CM Unit) := fun c hc => h c hc

theorem Keeps.set {I : Chip → Prop} {d : Chip} (h : I d) : Keeps I (set d : CM Unit) := fun _ _ => h

theorem Keeps.ite {α : Type} {I : Chip → Prop} {p : Prop} [Decidable p] {m n : CM α} (hm : Keeps I m) (hn : Keeps I n) :
    Keeps I (if p then m else n) := by split <;> assumption

theorem Keeps.whenM {I : Chip → Prop} {b : Bool} {m : CM Unit} (hm : Keeps I m) : Keeps I (whenM b m) := by
  cases b
  · exact Keeps.pure ()
  · exact hm

theorem Keeps.forM {α : Type} {I : Chip → Prop} {f : α → CM Unit} (h : ∀ a, Keeps I (f a)) :
    ∀ l : List α, Keeps I (forM_ l f)
  | [] => Keeps.pure ()
  | a :: t => Keeps.bind (h a) fun _ => Keeps.forM h t

theorem Keeps.mapM {α β : Type} {I : Chip → Prop} {f : α → CM β} (h : ∀ a, Keeps I (f a)) :
    ∀ l : List α, Keeps I (mapM_ l f)
  | [] => Keeps.pure []
  | a :: t => Keeps.bind (h a) fun b => Keeps.bind (Keeps.mapM h t) fun r => Keeps.pure (b :: r)

theorem Keeps.foldM {α β : Type} {I : Chip → Prop} {f : β → α → CM β} (h : ∀ b a, Keeps I (f b a)) :
    ∀ (l : List α) (b : β), Keeps I (foldM_ b l f)
  | [], b => Keeps.pure b
  | a :: t, b => Keeps.bind (h b a) fun b' => Keeps.foldM h t b'

theorem Keeps.wrM {I : Chip → Prop} {f : Fld} {o v : Nat} (h : ∀ c, I c → I (c.wr f o v)) : Keeps I (wrM f o v) :=
  fun c hc => h c hc

theorem Keeps.bumpM {I : Chip → Prop} {f : Fld} {o n : Nat} (h : ∀ c v, I c → I (c.wr f o v)) : Keeps I (bumpM f o n) :=
  fun c hc => h c _ hc

/-! ## Which register fields an effect may change -/

/-- An effect changes no register field whose key `P` excludes. -/
def Mods {α : Type} (P : Nat → Prop) (m : CM α) : Prop := ∀ c k, ¬P k → Tbl.find? (m.run c).2.regs k = Tbl.find? c.regs k

theorem Mods.rd {α : Type} {P : Nat → Prop} {m : CM α} (h : Mods P m) {f : Fld} {o : Nat} (hk : ¬P (regKey f o)) (c : Chip) :
    (m.run c).2.rd f o = c.rd f o := Chip.rd_of_find (h c _ hk)

theorem Mods.mono {α : Type} {P Q : Nat → Prop} {m : CM α} (h : Mods P m) (hq : ∀ k, P k → Q k) : Mods Q m :=
  fun c k hk => h c k fun hp => hk (hq k hp)

theorem Mods.pure {α : Type} {P : Nat → Prop} (a : α) : Mods P (Pure.pure a : CM α) := fun _ _ _ => rfl

theorem Mods.get {P : Nat → Prop} : Mods P (MonadState.get : CM Chip) := fun _ _ _ => rfl

theorem Mods.bind {α β : Type} {P : Nat → Prop} {m : CM α} {f : α → CM β} (hm : Mods P m) (hf : ∀ a, Mods P (f a)) :
    Mods P (m >>= f) := fun c k hk => (hf _ _ k hk).trans (hm c k hk)

theorem Mods.modify {P : Nat → Prop} {f : Chip → Chip} (h : ∀ c, (f c).regs = c.regs) : Mods P (modify f : CM Unit) :=
  fun c k _ => congrArg (Tbl.find? · k) (h c)

theorem Mods.ite {α : Type} {P : Nat → Prop} {p : Prop} [Decidable p] {m n : CM α} (hm : Mods P m) (hn : Mods P n) :
    Mods P (if p then m else n) := by split <;> assumption

theorem Mods.whenM {P : Nat → Prop} {b : Bool} {m : CM Unit} (hm : Mods P m) : Mods P (whenM b m) := by
  cases b
  · exact Mods.pure ()
  · exact hm

theorem Mods.forM {α : Type} {P : Nat → Prop} {f : α → CM Unit} : ∀ {l : List α}, (∀ a ∈ l, Mods P (f a)) → Mods P (forM_ l f)
  | [], _ => Mods.pure ()
  | a :: _, h => Mods.bind (h a (List.mem_cons_self ..)) fun _ => Mods.forM fun b hb => h b (List.mem_cons_of_mem a hb)

theorem Mods.wrM {P : Nat → Prop} {f : Fld} {o v : Nat} (h : P (regKey f o)) : Mods P (wrM f o v) :=
  fun c _ hk => Chip.find_wr_other (fun e => hk (by rw [e]; exact h)) c v

theorem Mods.bumpM {P : Nat → Prop} {f : Fld} {o n : Nat} (h : P (regKey f o)) : Mods P (bumpM f o n) :=
  fun c _ hk => Chip.find_wr_other (fun e => hk (by rw [e]; exact h)) c _

end Sys2Proof.Machine
end

