-- ==== Sys2Proof/Laws/Command.lean ====
section
/-! SUPPORT. What taking a command does, said once: it always ends in a next state, it never touches the queue, and what a
part that does not take it keeps. -/
namespace Sys2Proof.Machine

/-- Whatever a command does, it is a next state with the same queue. -/
theorem exec_next (i : Instr) (s : State) : ∃ c, exec i s = .next { s with chip := c } := by
  cases i <;> exact ⟨_, rfl⟩

theorem take_next (k : Need) (m : CM Unit) (s : State) : ∃ c, take k m s = .next { s with chip := c } := ⟨_, rfl⟩

/-- A part that does not take a command keeps everything; it has sent nothing. -/
theorem take_not {k : Need} (m : CM Unit) {s : State} (h : s.chip.takes k = false) :
    take k m s = .next { s with chip := { s.chip with sent := [] } } := by
  have h' : ({ s.chip with sent := [] } : Chip).takes k = false := h
  simp [take, h']

/-- A part that takes a command is its effect, and then ALERT_N. -/
theorem take_takes {k : Need} (m : CM Unit) {s : State} (h : s.chip.takes k = true) :
    take k m s = .next { s with chip :=
      ((settleAlert ({ s.chip with sent := [] } : Chip).alerts).run (m.run { s.chip with sent := [] }).2).2 } := by
  have h' : ({ s.chip with sent := [] } : Chip).takes k = true := h
  simp only [take, h']
  rfl

/-- A step with a command in front is the command on the rest of the queue. -/
theorem step_cons (i : Instr) (rest : List Instr) (s : State) (h : s.pending = i :: rest) :
    step s = exec i { s with pending := rest } := by
  simp [step, h]

end Sys2Proof.Machine
end

