-- ==== Sys2Proof/Laws/Completes.lean ====
section
/-! SUPPORT. How a command's completion follows from its effect: what ALERT_N and the reactions after a command leave
alone. -/
namespace Sys2Proof.Machine

/-! ## ALERT_N -/

/-- ALERT_N follows the causes; nothing but it and the messages sent changes. -/
theorem settleAlert_run (was : Nat) (c : Chip) : ∃ out, ((settleAlert was).run c).2 =
    { c with mgmt := { c.mgmt with alertLow := decide (c.alerting ≠ 0) }, sent := out } := by
  simp only [settleAlert, onMgmt, sendIbi, whenM_run, CM.run_seq, CM.get_bind, CM.run_modify]
  split
  · split <;> exact ⟨_, rfl⟩
  · exact ⟨_, rfl⟩

@[simp] theorem settleAlert_regs (was : Nat) (c : Chip) : ((settleAlert was).run c).2.regs = c.regs := by
  obtain ⟨o, h⟩ := settleAlert_run was c
  rw [h]

@[simp] theorem settleAlert_quiet (was : Nat) (c : Chip) : ((settleAlert was).run c).2.quiet = c.quiet := by
  obtain ⟨o, h⟩ := settleAlert_run was c
  rw [h]
  rfl

/-! ## The reactions that follow a command -/

/-- Where nothing waits, the reactions do nothing. -/
theorem reactions_calm {c : Chip} (h : c.calm = true) :
    (do headReacts; drainStations; loadReports : CM Unit).run c = ((), c) := by
  simp only [Chip.calm, Bool.and_eq_true, List.isEmpty_iff, List.all_eq_true, decide_eq_true_eq] at h
  obtain ⟨⟨⟨hn, hr⟩, hs⟩, ha⟩ := h
  have h1 : headReacts.run c = ((), c) := by
    have : c.runNotices = [] := by simp [Chip.runNotices, hn]
    simp only [headReacts, CM.get_bind, this]
    simp [CM.run_pure, -StateT.run_pure]
  have h2 : drainStations.run c = ((), c) := by
    show (_, _) = _
    simp [hs, ha]
    cases c; simp_all
    rfl
  have h3 : loadReports.run c = ((), c) := by
    have : (c.reports.any fun r => decide (r.event ≤ 8)) = false := by
      simp only [List.any_eq_false, decide_eq_true_eq]
      exact fun r hr' => Nat.not_le.2 (hr r hr')
    simp only [loadReports, CM.get_bind, whenM_run, this]
    rfl
  simp only [CM.run_seq, h1, h2, h3]

/-! ## Completion -/

/-- A command completes by its effect. -/
theorem take_completes {k : Need} {m : CM Unit} {s : State} {post : Chip → Prop} (h : s.chip.takes k = true)
    (hp : ∀ was, post ((settleAlert was).run (m.run { s.chip with sent := [] }).2).2) :
    ∃ d, take k m s = .next { s with chip := d } ∧ post d := ⟨_, take_takes m h, hp _⟩

/-- A command whose effect is the part `e` becomes it. -/
theorem take_becomes {k : Need} {m : CM Unit} {s : State} {e : Chip} (h : s.chip.takes k = true)
    (hp : (m.run { s.chip with sent := [] }).2.quiet = e.quiet) :
    ∃ d, take k m s = .next { s with chip := d } ∧ d.quiet = e.quiet :=
  take_completes h fun _ => by rw [settleAlert_quiet, hp]

/-- The same for a command whose effect leaves nothing for the reactions. -/
theorem act_completes {k : Need} {m : CM Unit} {s : State} {post : Chip → Prop} (h : s.chip.takes k = true)
    (hc : (m.run { s.chip with sent := [] }).2.calm = true)
    (hp : ∀ was, post ((settleAlert was).run (m.run { s.chip with sent := [] }).2).2) :
    ∃ d, act k m s = .next { s with chip := d } ∧ post d := by
  refine take_completes h fun was => ?_
  have : ((do m; headReacts; drainStations; loadReports : CM Unit).run { s.chip with sent := [] }).2
      = (m.run { s.chip with sent := [] }).2 := by
    show ((do headReacts; drainStations; loadReports : CM Unit).run (m.run { s.chip with sent := [] }).2).2 = _
    rw [reactions_calm hc]
  rw [this]
  exact hp was

theorem act_becomes {k : Need} {m : CM Unit} {s : State} {e : Chip} (h : s.chip.takes k = true)
    (hc : (m.run { s.chip with sent := [] }).2.calm = true)
    (hp : (m.run { s.chip with sent := [] }).2.quiet = e.quiet) :
    ∃ d, act k m s = .next { s with chip := d } ∧ d.quiet = e.quiet :=
  act_completes h hc fun _ => by rw [settleAlert_quiet, hp]

end Sys2Proof.Machine
end

