-- ==== Sys2Proof/Laws/Links.lean ====
section
/-! SUPPORT. What the link layer does with a flit that is for the package, said once. -/
namespace Sys2Proof.Machine

@[simp] theorem Chip.link_put (c : Chip) (g : Nat) (l : Link) :
    ({ c with links := Tbl.put noLink c.links g l } : Chip).link g = l := by
  simp [Chip.link]

theorem Chip.bump_rd_other {f g : Fld} {o p n : Nat} (h : regKey g p ≠ regKey f o) (c : Chip) :
    (c.bump f o n).rd g p = c.rd g p := Chip.rd_wr_other h c _

theorem onLink_run (g : Nat) (f : Link → Link) (c : Chip) :
    (onLink g f).run c = ((), { c with links := Tbl.put noLink c.links g (f (c.link g)) }) := rfl

/-- The header's part of a reception, without a NAK. -/
theorem takeHeader_run {g : Nat} {h : Hdr} (hn : h.nak = false) (c : Chip) : (takeHeader g h).run c = ((), { c with
    links := Tbl.put noLink c.links g { c.link g with
      unacked := (c.link g).unacked.filter fun u => !seqUpTo u.1 h.ack
      resend := (c.link g).resend.filter fun u => !seqUpTo u.1 h.ack
      credit := setNth (nth 0 (c.link g).credit h.cvl + h.cred) (c.link g).credit h.cvl } }) := by
  simp only [takeHeader, CM.run_seq, onLink_run, hn, Bool.false_eq_true, if_false, CM.run_pure]

/-- What a reception reads of the registers is the same after a count of the group. -/
theorem Chip.reads_bump {f : Fld} (hf : f = R.TORUS_GRP_CORRECTED_COUNT ∨ f = R.TORUS_GRP_FLITS_RX_COUNT) (c : Chip) (g n : Nat) :
    (c.bump f (lgOff g) n).grpState g = c.grpState g ∧ (c.bump f (lgOff g) n).grpOwner g = c.grpOwner g ∧
    (c.bump f (lgOff g) n).rd R.TORUS_GRP_STATE_JOB (lgOff g) = c.rd R.TORUS_GRP_STATE_JOB (lgOff g) ∧
    (c.bump f (lgOff g) n).node = c.node := by
  refine ⟨?_, ?_, ?_, ?_⟩ <;> refine Chip.bump_rd_other ?_ c <;> rcases hf with rfl | rfl <;>
    simp only [regKey, R.TORUS_GRP_STATE_STATE, R.TORUS_GRP_STATE_OWNER, R.TORUS_GRP_STATE_JOB, R.PKG_NODE_NODE,
      R.TORUS_GRP_CORRECTED_COUNT, R.TORUS_GRP_FLITS_RX_COUNT] <;> omega

/-- A flit is for the package: its group is not in transit, and it names the package. -/
theorem Chip.onward_none {c : Chip} {g dest : Nat} : c.onward g dest = none ↔ c.grpOwner g ≠ ownerTransit ∧ dest = c.node := by
  unfold Chip.onward
  split
  · simp_all
  · split <;> simp_all

/-- A good flit for the package is taken, and the link layer's part of it done. -/
theorem receiveFlit_takes {c : Chip} {h : Hdr} {b : FlitBody} (ht : c.takesFlit h b = true) :
    (receiveFlit h b).run c = (true, c.received h) := by
  simp only [Chip.takesFlit, Bool.and_eq_true, decide_eq_true_eq, Bool.not_eq_true', beq_iff_eq, Option.isNone_iff_eq_none,
    Chip.onward_none] at ht
  obtain ⟨⟨⟨⟨⟨hu, hn⟩, hs⟩, hv⟩, hj⟩, ho, hd⟩ := ht
  generalize hg : h.port * 4 + h.group = g at *
  have hcor : ∃ d : Chip, d = (if h.corrected then c.bump R.TORUS_GRP_CORRECTED_COUNT (lgOff g) 1 else c) ∧ d.grpState g = grpUp ∧
      d.grpOwner g ≠ ownerTransit ∧ h.job = d.rd R.TORUS_GRP_STATE_JOB (lgOff g) ∧ h.dest = d.node ∧ h.seq = (d.link g).rxSeq := by
    refine ⟨_, rfl, ?_⟩
    obtain ⟨r1, r2, r3, r4⟩ := Chip.reads_bump (.inl rfl) c g 1
    cases h.corrected
    · exact ⟨hu, ho, hj, hd, hs⟩
    · exact ⟨r1.trans hu, fun e => ho (r2.symm.trans e), hj.trans r3.symm, hd.trans r4.symm, hs⟩
  obtain ⟨d, hdef, du, dow, dj, dd, ds⟩ := hcor
  have hrec : c.received h = (let l := d.link g
      let x : Chip := { d with links := Tbl.put noLink d.links g { l with
        unacked := l.unacked.filter fun u => !seqUpTo u.1 h.ack
        resend := l.resend.filter fun u => !seqUpTo u.1 h.ack
        credit := setNth (nth 0 l.credit h.cvl + h.cred) l.credit h.cvl } }
      let x := x.bump R.TORUS_GRP_FLITS_RX_COUNT (lgOff g) 1
      let l := x.link g
      ({ x with links := Tbl.put noLink x.links g { l with
        rxSeq := (l.rxSeq + 1) % 4096, ackDue := true, owed := setNth (nth 0 l.owed h.vl + 1) l.owed h.vl } } : Chip)) := by
    simp only [Chip.received, hg, hdef]
  have hstep : (whenM h.corrected (bumpM R.TORUS_GRP_CORRECTED_COUNT (lgOff g))).run c = ((), d) := by
    rw [whenM_run, hdef]
    split <;> rfl
  generalize hx : ({ d with links := Tbl.put noLink d.links g { d.link g with
        unacked := (d.link g).unacked.filter fun u => !seqUpTo u.1 h.ack
        resend := (d.link g).resend.filter fun u => !seqUpTo u.1 h.ack
        credit := setNth (nth 0 (d.link g).credit h.cvl + h.cred) (d.link g).credit h.cvl } } : Chip) = x at *
  have xu : x.grpState g = grpUp := by rw [← hx]; exact du
  have xs : h.seq = (x.link g).rxSeq := by rw [← hx, Chip.link_put]; exact ds
  have xj : h.job = x.rd R.TORUS_GRP_STATE_JOB (lgOff g) := by rw [← hx]; exact dj
  have xo : x.onward g h.dest = none := Chip.onward_none.2 (by rw [← hx]; exact ⟨dow, dd⟩)
  obtain ⟨r1, r2, r3, r4⟩ := Chip.reads_bump (.inr rfl) x g 1
  rw [hrec]
  simp only [receiveFlit, CM.get_bind, hg, hu, ne_eq, not_true_eq_false, if_false, CM.run_seq, hstep, takeHeader_run hn, hx, xu,
    xs.symm, or_self, bumpM_run, onLink_run, hv, Bool.not_true, Bool.false_or, bne_iff_ne]
  simp only [← xj, not_true_eq_false, if_false]
  simp only [xo]
  rfl

end Sys2Proof.Machine
end

