-- ==== Sys2Proof/Laws/Memory.lean ====
section
/-! SUPPORT. The addressed memories: writing keeps the canonical form, and what a byte reads as after a write. -/
namespace Sys2Proof.Machine

/-- Writing bytes keeps the canonical form. -/
theorem wf_putBytes : ∀ (b : List Nat) (m : Memory) (a : Nat), Memory.wf m = true → Memory.wf (putBytes m a b) = true
  | [], _, _, h => h
  | _ :: t, m, a, h => wf_putBytes t _ (a + 1) (Tbl.wf_put _ _ _ _ h)

theorem reset_memories : Chip.memoriesWf State.reset.chip = true := by decide

/-- A byte outside those written reads as before. -/
theorem get_putBytes_outside : ∀ (b : List Nat) (m : Memory) (a x : Nat), (x < a ∨ a + b.length ≤ x) →
    Tbl.get (0 : Byte) (putBytes m a b) x = Tbl.get (0 : Byte) m x
  | [], _, _, _, _ => rfl
  | v :: t, m, a, x, h => by
    rw [putBytes, get_putBytes_outside t _ (a + 1) x (by simp only [List.length_cons] at h; omega)]
    exact Tbl.get_put_other (by simp only [List.length_cons] at h; omega) _ _ _ _

/-- A byte that was written reads as written. -/
theorem get_putBytes_inside : ∀ (b : List Nat) (m : Memory) (a i : Nat) (h : i < b.length),
    Tbl.get (0 : Byte) (putBytes m a b) (a + i) = BitVec.ofNat 8 b[i]
  | v :: t, m, a, 0, _ => by
    rw [putBytes, get_putBytes_outside t _ (a + 1) (a + 0) (by omega)]
    simp
  | v :: t, m, a, i + 1, h => by
    have := get_putBytes_inside t (Tbl.put (0 : Byte) m a (BitVec.ofNat 8 v)) (a + 1) i (by simpa using h)
    rw [putBytes, show a + (i + 1) = a + 1 + i by omega, this]
    simp

end Sys2Proof.Machine
end

