-- ==== Sys2Proof/Laws/Startup.lean ====
section
/-! SUPPORT. What a start-up stage does when it runs, said once. -/
namespace Sys2Proof.Machine

/-- A stage in progress does its work and ends. -/
theorem stage_run {k : Nat} {m : CM Unit} {c : Chip} (h : c.stageRuns k = true) :
    (stage k m).run c = (endStage k).run (m.run c).2 := by
  simp only [stage, CM.get_bind, h, if_true]
  rfl

/-- The end of a stage sets its bit of PKG_STAGE.DONE, and shows the next stage; no other field changes. -/
theorem endStage_mods (k : Nat) : Mods (fun x => x = regKey R.PKG_STAGE_DONE 0 ∨ x = regKey R.PKG_STAGE_CURRENT 0) (endStage k) :=
  Mods.bind (fun _ _ _ => rfl) fun _ => Mods.bind (Mods.wrM (.inl rfl)) fun _ =>
    Mods.bind Mods.get fun _ => Mods.wrM (.inr rfl)

theorem endStage_rd {k : Nat} {f : Fld} {o : Nat} (h : regKey f o ≠ regKey R.PKG_STAGE_DONE 0)
    (h' : regKey f o ≠ regKey R.PKG_STAGE_CURRENT 0) (c : Chip) : ((endStage k).run c).2.rd f o = c.rd f o :=
  (endStage_mods k).rd (by rintro (e | e) <;> contradiction) c

/-- Nothing but registers changes at the end of a stage. -/
theorem endStage_else (k : Nat) (c : Chip) : ((endStage k).run c).2 = { c with regs := ((endStage k).run c).2.regs } := rfl

theorem bit_bitOr_same (m k : Nat) : bit (bitOr m k) k = true := by
  simp only [bitOr]
  split
  · assumption
  · rename_i h
    simp only [bit, decide_eq_true_eq] at h ⊢
    rw [Nat.add_div_right _ (Nat.two_pow_pos k)]
    omega

theorem bit_mod {n w k : Nat} (h : k < w) : bit (n % 2 ^ w) k = bit n k := by
  simp only [bit, decide_eq_decide]
  obtain ⟨j, rfl⟩ := Nat.exists_eq_add_of_lt h
  rw [show k + j + 1 = k + (j + 1) from rfl, Nat.pow_add, Nat.mod_mul_right_div_self]
  rw [Nat.pow_succ, Nat.mod_mul_left_mod]

/-- The stage has ended. -/
theorem endStage_done {k : Nat} (h : k ≤ 11) (c : Chip) : ((endStage k).run c).2.stageDone k = true := by
  have e : ((endStage k).run c).2.rd R.PKG_STAGE_DONE = bitOr (c.rd R.PKG_STAGE_DONE) (k - 1) % 2 ^ R.PKG_STAGE_DONE.width := by
    show (((c.wr R.PKG_STAGE_DONE 0 (bitOr (c.rd R.PKG_STAGE_DONE) (k - 1))).wr R.PKG_STAGE_CURRENT 0 _).rd R.PKG_STAGE_DONE) = _
    rw [Chip.rd_wr_other (by decide), Chip.rd_wr_same]
  rw [Chip.stageDone, e, bit_mod (show k - 1 < R.PKG_STAGE_DONE.width by show _ < 11; omega), bit_bitOr_same]

end Sys2Proof.Machine
end

