-- ==== Sys2Proof/WellFormed.lean ====
section
/-! DEFINITION. Which commands can reach the part: every operand within the width or the number of places that the spec
gives it.  What the part itself does with an out-of-range field of a message or a register is the command's meaning. -/
namespace Sys2Proof

open Machine

def below (n v : Nat) : Bool := decide (v < n)
def fits (w v : Nat) : Bool := decide (v < 2 ^ w)
def isTile (t : Nat) : Bool := below 384 t
def isDie (d : Nat) : Bool := below 8 d
def isHalf (h : Nat) : Bool := below 16 h
def isBoard (b : Nat) : Bool := below 49152 b
def isPort (p : Nat) : Bool := below 6 p
def isGroup (g : Nat) : Bool := below 4 g
def isEdge (e : Nat) : Bool := below 10 e
def isFront (f : Nat) : Bool := below 2 f
def isBytes (b : List Nat) : Bool := b.all (below 256)
def optAll {α : Type} (p : α → Bool) (x : Option α) : Bool := (x.map p).getD true

namespace Machine

def Place.wf (p : Place) : Bool := below 4096 p.node && isDie p.die && below 64 p.tile
def EUnit.wf : EUnit → Bool
  | .board l => below 128 l
  | _ => true
def Analogue.wf (a : Analogue) : Bool := a.dev.all fun e => below 512 e.1
def Straps.wf (x : Straps) : Bool := below 4 x.flash
def EdgeTrained.wf (x : EdgeTrained) : Bool := below 16 x.modules && below 16 x.slow
def Finding.wf (f : Finding) : Bool := below 1024 f.row && below 512 f.col && below 64 f.reads
def Peer.wf (p : Peer) : Bool := isFront p.front && fits 128 p.addr && fits 16 p.port
def TnpIn.wf (i : TnpIn) : Bool :=
  i.src.wf && fits 16 i.session && below 1024 i.tenant && fits 32 i.seq && fits 32 i.ack && fits 32 i.request
def SampParams.wf (p : SampParams) : Bool :=
  [p.temp, p.topP, p.rep, p.presence, p.frequency].all (fits 32) && fits 16 p.topK && below 8 p.draftMax
    && below 4 p.ngramM1 && decide (p.stops.length ≤ 8) && p.stops.all fun s => fits 18 s.1
def Submit.wf (b : Submit) : Bool :=
  fits 2 b.priority && fits 32 b.maxTokens && fits 64 b.clientTag && fits 64 b.seed && fits 64 b.handle && b.params.wf
    && b.tokens.all (fits 32)
def TenantOrder.wf (o : TenantOrder) : Bool :=
  optAll (fits 8) o.group && fits 8 o.cls && fits 8 o.policy && [o.maxActive, o.maxContext, o.ttft, o.tbt, o.pinMax].all (fits 32)
def ShardHdr.wf (h : ShardHdr) : Bool :=
  fits 8 h.kind && fits 12 h.dest && fits 32 h.object && fits 32 h.index && fits 32 h.count && fits 64 h.offset
def ReplicaRow.wf (r : ReplicaRow) : Bool := fits 16 r.index && fits 16 r.replica && fits 32 r.crc
def ImageId.wf (i : ImageId) : Bool := fits 64 i.handle && fits 12 i.node && isDie i.die && fits 32 i.page
def Segment.wf (g : Segment) : Bool :=
  g.src.wf && fits 8 g.typ && fits 16 g.session && below 1024 g.tenant && fits 32 g.seq && fits 32 g.request && fits 15 g.index
def SecTag.wf (t : SecTag) : Bool := optAll (below 8) t.channel && below 2 t.an && fits 64 t.pn
def FramePayload.wf : FramePayload → Bool
  | .udp _ g => g.wf
  | _ => true
def EthFrame.wf (x : EthFrame) : Bool :=
  isFront x.front && optAll (fits 12) x.vlan && optAll SecTag.wf x.sec && x.payload.wf
def Hdr.wf (h : Hdr) : Bool :=
  isPort h.port && isGroup h.group && fits 12 h.dest && fits 12 h.job && below 4 h.vl && fits 16 h.seq && fits 16 h.ack
    && below 4 h.cvl
def Delivery.wf (d : Delivery) : Bool := isDie d.die && below 48 d.tile && below 8 d.slot && fits 12 d.tag && below 16 d.replay
def Origin.wf (o : Origin) : Bool := o.src.wf
def CopyRec.wf (r : CopyRec) : Bool := r.origin.wf && fits 16 r.batch && below 16 r.choice
def AckdRec.wf (r : AckdRec) : Bool := isDie r.die && below 48 r.tile && fits 12 r.tag && below 16 r.replay && fits 32 r.step
def PegMsg.wf (m : PegMsg) : Bool := below 16 m.replay && fits 32 m.step && fits 16 m.pegId
def CommitMsg.wf (m : CommitMsg) : Bool := fits 32 m.step && below 16 m.replay && below 4 m.gear && fits 48 m.next
def TrainMsg.wf (m : TrainMsg) : Bool := fits 12 m.node && isPort m.port && isGroup m.group && fits 12 m.job
def ShardFrag.wf (f : ShardFrag) : Bool := fits 32 f.index && isBytes f.bytes
def Notice.wf (n : Notice) : Bool := fits 12 n.node && fits 8 n.cls && fits 8 n.cause && below 16 n.replay && fits 32 n.step && fits 32 n.unit
def ReplicaReq.wf (r : ReplicaReq) : Bool :=
  fits 12 r.node && isDie r.die && below 48 r.tile && below 16 r.replay && fits 32 r.step && fits 32 r.crc
def BatchSlot.wf (s : BatchSlot) : Bool :=
  fits 32 s.request && fits 16 s.context && below 1024 s.tenant && fits 20 s.position && fits 18 s.token
def Order.wf (o : Order) : Bool :=
  fits 8 o.op && fits 8 o.status && fits 16 o.context && fits 32 o.request && below 1024 o.tenant && fits 64 o.handle
def Broadcast.wf (b : Broadcast) : Bool := fits 32 b.step && fits 16 b.gen && b.slots.all BatchSlot.wf && b.orders.all Order.wf
def SamplerRec.wf (r : SamplerRec) : Bool :=
  fits 16 r.context && fits 16 r.turnGen && fits 32 r.maxTokens && fits 64 r.seed && r.params.wf
def ResultRec.wf (r : ResultRec) : Bool := fits 16 r.context && fits 8 r.status && r.tokens.all (fits 32)
def Token.wf (t : Token) : Bool :=
  fits 32 t.magic && fits 16 t.version && fits 8 t.owner && fits 64 t.uid && fits 64 t.challenge && fits 64 t.reserved && isBytes t.pub && isBytes t.sig
def McIn.wf (x : McIn) : Bool := fits 8 x.eid && fits 8 x.from_ && below 8 x.tag && below 32 x.inst
def BadFrame.wf : BadFrame → Bool
  | .crc t | .format t => fits 8 t
  | .pec => true

end Machine

/-- Every operand of the command is one that its place can carry. -/
def wellFormed (i : Instr) : Bool :=
  match i with
  | .powerOnReset => true
  | .straps x => x.wf
  | .scan => true
  | .record _ a c => optAll isBytes a && optAll isBytes c
  | .apply => true
  | .lock => true
  | .cal bad => bad.all isBoard
  | .d2d es => es.all EdgeTrained.wf
  | .hbm failed => failed.all isDie
  | .clear => true
  | .optics => true
  | .announce => true
  | .warmReset => true
  | .warmStart x => x.wf
  | .pfailAssert => true
  | .pfailDeassert => true
  | .vauxLow cut => cut.all isDie
  | .railComparatorFire _ d e => isDie d && below 2 e
  | .supplyQuiet h => isHalf h
  | .thermalTrip d x => isDie d && below 6 x
  | .tripRelease h => isHalf h
  | .stackFailure d => isDie d
  | .stackTempReadout d temp => isDie d && fits 8 temp
  | .rrefLost => true
  | .rrefReturn => true
  | .holdoverEnd => true
  | .syncEdge => true
  | .syncMiss => true
  | .epochWrite hi => fits 32 hi
  | .epoch i hi => i.wf && fits 32 hi
  | .timeSampleSend port => isPort port
  | .time h beat refcyc _ _ => h.wf && fits 48 beat && below 64 refcyc
  | .start i job gear b0 framesMin => i.wf && fits 16 job && fits 8 gear && fits 48 b0 && fits 32 framesMin
  | .tagwrapDone t => isTile t
  | .stop i job last => i.wf && fits 16 job && fits 32 last
  | .gear i job gear => i.wf && fits 16 job && fits 8 gear
  | .stepStartPost => true
  | .stepStart => true
  | .truingOverdue b => isBoard b
  | .vsetSettled h => isHalf h
  | .gearClockSwitch h => isHalf h
  | .admissionClose => true
  | .batchBroadcast hs b => hs.all Hdr.wf && b.wf
  | .parameterDelivery hs step recs => hs.all Hdr.wf && fits 32 step && recs.all SamplerRec.wf
  | .resultDelivery hs step recs => hs.all Hdr.wf && fits 32 step && recs.all ResultRec.wf
  | .batchLate => true
  | .commit w => optAll (fun x => x.1.all Hdr.wf && x.2.wf) w
  | .tackTimeout => true
  | .arrMvp an t => an.wf && isTile t
  | .arrMvpAdd an t => an.wf && isTile t
  | .movCopy t => isTile t
  | .movZero t => isTile t
  | .movSetx t => isTile t
  | .movAddx t => isTile t
  | .vecAdd t => isTile t
  | .vecMul t => isTile t
  | .vecScale t => isTile t
  | .vecSumsq t => isTile t
  | .vecMax t => isTile t
  | .vecSum t => isTile t
  | .vecExpsub t => isTile t
  | .vecDiv t => isTile t
  | .vecRsq t => isTile t
  | .vecRope t => isTile t
  | .vecSiluGate t => isTile t
  | .vecGeluGate t => isTile t
  | .vecQuant t => isTile t
  | .vecDeq t => isTile t
  | .vecTopk t => isTile t
  | .milAttn t => isTile t
  | .welScrub found t => found.all Finding.wf && isTile t
  | .redAdd8 t => isTile t
  | .redAdd32 t => isTile t
  | .redMax32 t => isTile t
  | .sndSend t => isTile t
  | .sndRoute t => isTile t
  | .sndReturn t => isTile t
  | .rcvPost t => isTile t
  | .rcvWait t => isTile t
  | .rcvGather t => isTile t
  | .receiveComplete t tag => isTile t && fits 12 tag
  | .pegTile t => isTile t
  | .pegHalf t => isTile t
  | .pegDie t => isTile t
  | .pegPackage t => isTile t
  | .pegJob t => isTile t
  | .pegArrival _ => true
  | .pegDone => true
  | .waitBeat t => isTile t
  | .waitBeatRelease t => isTile t
  | .waitCycles t => isTile t
  | .chkSample an t => an.wf && isTile t
  | .chkRetain t => isTile t
  | .chkDone t => isTile t
  | .tileDone t => isTile t
  | .samplerDraw slot logits => fits 16 slot && logits.all (fits 32)
  | .spadScrubRead t _ _ => isTile t
  | .meshPacket _ _ half => isHalf half
  | .delivery t _ => isTile t
  | .append _ => true
  | .ack die => isDie die
  | .credit die => isDie die
  | .late die => isDie die
  | .fault die => isDie die
  | .order die => isDie die
  | .d2dEdgeDown e _ => isEdge e
  | .d2dTrainingDone e x => isEdge e && x.wf
  | .d2dRetrain d side => isDie d && below 3 side
  | .torusGroupDown port group => isPort port && isGroup group
  | .torusTrainingDone port group _ => isPort port && isGroup group
  | .train port group m _ _ _ => isPort port && isGroup group && m.wf
  | .groupRetrain port group => isPort port && isGroup group
  | .flitTime port group _ => isPort port && isGroup group
  | .ackReport port group => isPort port && isGroup group
  | .idle h => h.wf
  | .data h d o _ lines => h.wf && d.wf && o.wf && lines.all isBytes
  | .copy h d o _ _ r lines => h.wf && d.wf && o.wf && r.wf && lines.all isBytes
  | .endMark h d origin _ => h.wf && d.wf && origin.wf
  | .ackd h recs => h.wf && recs.all AckdRec.wf
  | .peg h m => h.wf && m.wf
  | .shardFlit h f => h.wf && f.wf
  | .transit i job dim group lanes _ => i.wf && fits 16 job && fits 8 dim && fits 8 group && fits 8 lanes
  | .release i dim group => i.wf && fits 8 dim && fits 8 group
  | .ethernetFrame x => x.wf
  | .neighborSolicitation f target => isFront f && fits 128 target
  | .echoRequest f source target ident seq data => isFront f && fits 128 source && fits 128 target && fits 16 ident && fits 16 seq && isBytes data
  | .reassemblyTimeout _ => true
  | .streamRetransmit session seq => fits 16 session && fits 32 seq
  | .streamAck session => fits 16 session
  | .openSession i gateway => i.wf && fits 64 gateway
  | .closeSession i => i.wf
  | .sessionIdleTimeout session => fits 16 session
  | .submit i b => i.wf && b.wf
  | .resume i b => i.wf && b.wf
  | .cancel i => i.wf
  | .query i => i.wf
  | .unpin i handle => i.wf && fits 64 handle
  | .stepAck i step => i.wf && fits 32 step
  | .resend i first count => i.wf && fits 32 first && fits 16 count
  | .tenant i o => i.wf && o.wf
  | .pageOut i request handle => i.wf && fits 32 request && fits 64 handle
  | .pageIn i request => i.wf && fits 32 request
  | .putAck i image status => i.wf && image.wf && fits 8 status
  | .pagingData i image bytes tag => i.wf && image.wf && isBytes bytes && isBytes tag
  | .pagingTimeout d x page => isDie d && fits 16 x && fits 32 page
  | .frameZeroed d => isDie d
  | .ctxScrubRead d _ => isDie d
  | .replica i job rows => i.wf && fits 16 job && rows.all ReplicaRow.wf
  | .shard i h _ data => i.wf && h.wf && isBytes data
  | .loadTimeout kind object => below 4 kind && fits 32 object
  | .programWindowStart b _ => isBoard b
  | .programWindowEnd b => isBoard b
  | .programRow b => isBoard b
  | .rowComplete b _ => isBoard b
  | .insoleSlotsWritten t d => isTile t && below 64 d
  | .ready h kind node object code => h.wf && fits 8 kind && fits 12 node && fits 32 object && fits 8 code
  | .fail h kind node object code => h.wf && fits 8 kind && fits 12 node && fits 32 object && fits 8 code
  | .truingWindowStart b _ => isBoard b
  | .truingComplete b _ _ taps found => isBoard b && isBytes taps && found.all Finding.wf
  | .truingWindowEnd b _ found => isBoard b && found.all Finding.wf
  | .freeTruingStart t => isTile t
  | .monConversion d _ => isDie d
  | .thermalLevelFall h => isHalf h
  | .alertClear h => isHalf h
  | .refSettle d => isDie d
  | .powerEvaluation => true
  | .powerLevelRelease => true
  | .faultNotice h n => h.wf && n.wf
  | .replay h count step start => h.wf && below 16 count && fits 32 step && fits 48 start
  | .replayStart => true
  | .settle h count step => h.wf && below 16 count && fits 32 step
  | .hold h cause step node => h.wf && fits 8 cause && fits 32 step && fits 12 node
  | .holdEntry => true
  | .probe h step => h.wf && fits 32 step
  | .probeReply h node step tiles => h.wf && fits 12 node && fits 32 step && tiles.all isTile
  | .noReply => true
  | .replicaReq h r => h.wf && r.wf
  | .replicaReturn _ => true
  | .replicaDone h r status => h.wf && r.wf && fits 8 status
  | .replicaTimeout _ => true
  | .unitTestDone cls n _ => below 4 cls && fits 16 n
  | .shelve cls die idx => below 16 cls && isDie die && fits 16 idx
  | .readmit cls die idx => below 16 cls && isDie die && fits 16 idx
  | .resumeExpiry x => fits 16 x
  | .provision => true
  | .decommission => true
  | .operate t => t.wf
  | .debug t => t.wf
  | .revoke t => t.wf
  | .tokenDecommission t => t.wf
  | .zeroisationComplete us => fits 32 us
  | .install kind slot wrapped => below 16 kind && fits 11 slot && isBytes wrapped
  | .erase kind slot => below 16 kind && fits 11 slot
  | .keyCommandDone => true
  | .recordEntry d => isDie d
  | .flushStore d _ _ => isDie d
  | .flush d => isDie d
  | .trigger d severity => isDie d && below 4 severity
  | .seek d n => isDie d && fits 32 n
  | .seekDone d => isDie d
  | .evrWindowRead d _ => isDie d
  | .trueImageLatch b => isBoard b
  | .trueImageWrite b word v => isBoard b && below 128 word && fits 32 v
  | .refSelWrite d sel => isDie d && below 4 sel
  | .filterWrite d n v => isDie d && below 32 n && fits 32 v
  | .monScanWrite d v => isDie d && fits 32 v
  | .save => true
  | .saveDone _ => true
  | .pkgNodeWrite v => fits 32 v
  | .staticAddrWrite v => fits 32 v
  | .wideValueRead a => fits 32 a
  | .registerWrite a v => fits 32 a && fits 32 v
  | .read tag addr count _ => fits 8 tag && fits 32 addr && below 33 count
  | .write tag addr words _ => fits 8 tag && fits 32 addr && words.all (fits 32)
  | .responseRead _ => true
  | .smbusTimeout => true
  | .entdaa a => below 128 a
  | .setdasa target a => below 128 target && below 128 a
  | .setnewda a => below 128 a
  | .rstdaa => true
  | .getpid => true
  | .getbcr => true
  | .getdcr => true
  | .getstatus => true
  | .getmwl => true
  | .getmrl => true
  | .setmwl n => fits 16 n
  | .setmrl n => fits 16 n
  | .enec => true
  | .disec => true
  | .setEndpointId x eid => x.wf && fits 8 eid
  | .getEndpointId x => x.wf
  | .getMctpVersionSupport x => x.wf
  | .getMessageTypeSupport x => x.wf
  | .getTid x => x.wf
  | .setTid x tid => x.wf && fits 8 tid
  | .getPldmVersion x => x.wf
  | .getPldmTypes x => x.wf
  | .getPldmCommands x typ => x.wf && fits 8 typ
  | .getSensorReading x sensor => x.wf && fits 16 sensor
  | .getPdrRepositoryInfo x => x.wf
  | .getPdr x handle => x.wf && fits 32 handle
  | .opsecTick => true
  | .testLogicReset => true
  | .extest _ _ => true
  | .idcode => true
  | .samplePreload _ _ => true
  | .clamp => true
  | .highz => true
  | .intscan => true
  | .intscanCapture => true
  | .bypass => true
  | .tmuxSelect v => fits 32 v
  | .tanaSelect v => fits 32 v
  | .stageRun v => fits 32 v
  | .rawRead => true
  | .rawReadDone => true
  | .vauxReturn => true
  | .frontLinkUp f => isFront f
  | .frontLinkDown f => isFront f
  | .instructionCompletion t u => isTile t && optAll EUnit.wf u
  | .badFrame b _ => b.wf
  | .corruptFlit port group _ => isPort port && isGroup group
  | .tackParityError die _ => isDie die

end Sys2Proof
end

