-- ==== Sys2Proof/Tests/Slice0.lean ====
section
/-! SUPPORT. Tests of the model on small states: a smoke test of each well-formedness check, decode tests of engine words
written out from the encoding tables, single steps, and for each statement states that meet its hypotheses. -/
namespace Sys2Proof.Tests

set_option maxRecDepth 100000
set_option Elab.async false

open Machine

/-! ## Well-formedness: each check refuses a term that it is there to refuse -/

theorem test_wf_numbers : below 4 4 = false ∧ fits 4 16 = false ∧ isTile 384 = false ∧ isDie 8 = false ∧ isHalf 16 = false ∧
    isBoard 49152 = false ∧ isPort 6 = false ∧ isGroup 4 = false ∧ isEdge 10 = false ∧ isFront 2 = false ∧
    isBytes [0, 256] = false ∧ optAll isDie (some 8) = false ∧
    below 4 3 = true ∧ fits 4 15 = true ∧ isTile 383 = true ∧ isDie 7 = true ∧ isHalf 15 = true ∧ isBoard 49151 = true ∧
    isPort 5 = true ∧ isGroup 3 = true ∧ isEdge 9 = true ∧ isFront 1 = true ∧ isBytes [0, 255] = true ∧ optAll isDie none = true := by
  decide

def place0 : Place := ⟨0, 0, 0⟩
def params0 : SampParams := ⟨0, 0, 0, 0, 0, 0, false, false, 0, 0, []⟩
def submit0 : Submit := ⟨false, false, false, false, false, false, 0, 16, 9, 0, 0, params0, [5]⟩
def order0 : TenantOrder := ⟨true, false, none, 0, 0, 1, 1, 0, 0, 0⟩
def seg0 : Segment := ⟨⟨0, 1, 4000⟩, true, true, 1, 0, 0, 0, 0, 0, true, 100⟩
def frame0 : EthFrame := ⟨0, 100, true, none, none, .udp true seg0⟩
def hdr0 : Hdr := ⟨0, 0, 0, 0, 0, 0, 0, false, 0, 0, false⟩
def src0 : TnpIn := ⟨⟨0, 1, 4000⟩, true, 0xFFFF, 0, 0, 0, 7⟩
def token0 : Token := ⟨0, 1, 0, 0, 0, 0, [], []⟩
def req0 : ReplicaReq := ⟨1, 0, 0, 0, 0, 0, 1, 0, 0⟩
def mctp0 : McIn := ⟨0, 8, 0, 0, true⟩

theorem test_wf_places : Place.wf ⟨4096, 0, 0⟩ = false ∧ EUnit.wf (.board 128) = false ∧ Analogue.wf ⟨false, [(512, 1)]⟩ = false ∧
    Straps.wf ⟨true, 4, false, false⟩ = false ∧ EdgeTrained.wf ⟨16, 0, 0, 0⟩ = false ∧ Finding.wf ⟨1024, 0, 3⟩ = false ∧
    Peer.wf ⟨2, 0, 0⟩ = false ∧ place0.wf = true ∧ EUnit.wf .mover = true ∧ Analogue.wf ⟨true, []⟩ = true := by decide

theorem test_wf_serving : { src0 with tenant := 1024 }.wf = false ∧ { params0 with draftMax := 8 }.wf = false ∧
    { submit0 with priority := 4 }.wf = false ∧ { order0 with cls := 256 }.wf = false ∧ ShardHdr.wf ⟨256, false, false, 0, 0, 0, 1, 0⟩ = false ∧
    ReplicaRow.wf ⟨0, 65536, 0⟩ = false ∧ ImageId.wf ⟨0, 0, 8, 0⟩ = false ∧ { seg0 with index := 32768 }.wf = false ∧
    SecTag.wf ⟨some 8, 0, 0, true⟩ = false ∧ FramePayload.wf (.udp true { seg0 with typ := 256 }) = false ∧
    { frame0 with front := 2 }.wf = false ∧ src0.wf = true ∧ submit0.wf = true ∧ order0.wf = true ∧ frame0.wf = true := by decide

theorem test_wf_flits : { hdr0 with vl := 4 }.wf = false ∧ Delivery.wf ⟨0, 48, 0, 0, 0⟩ = false ∧ Origin.wf ⟨⟨0, 8, 0⟩, 0, 0⟩ = false ∧
    CopyRec.wf ⟨place0, 65536, 0⟩ = false ∧ AckdRec.wf ⟨0, 0, 4096, 0, 0⟩ = false ∧ PegMsg.wf ⟨true, false, false, false, 16, 0, 0, 0⟩ = false ∧
    CommitMsg.wf ⟨0, 0, false, false, 4, 0, []⟩ = false ∧ TrainMsg.wf ⟨0, 6, 0, 8, false, false, 0, 0, true⟩ = false ∧
    ShardFrag.wf ⟨0, 0, 0, [256]⟩ = false ∧ Notice.wf ⟨0, 256, 0, 0, 0, 0⟩ = false ∧ { req0 with tile := 48 }.wf = false ∧
    BatchSlot.wf ⟨0, 65536, 0, false, false, false, true, 0, 0⟩ = false ∧ { noOrder with op := 256 }.wf = false ∧
    Broadcast.wf ⟨2 ^ 32, 0, [], []⟩ = false ∧ SamplerRec.wf ⟨65536, false, false, 0, 0, 0, params0⟩ = false ∧
    ResultRec.wf ⟨0, 0, 256, []⟩ = false ∧ { token0 with owner := 256 }.wf = false ∧ { mctp0 with tag := 8 }.wf = false ∧
    BadFrame.wf (.crc 256) = false ∧ hdr0.wf = true ∧ req0.wf = true ∧ noOrder.wf = true ∧ token0.wf = true ∧ mctp0.wf = true := by decide

/-- Of each shape of command, one with an operand that its place cannot carry. -/
theorem test_wf_commands : ([.straps ⟨true, 4, false, false⟩, .record true (some [256]) none, .cal [49152], .d2d [⟨16, 0, 0, 0⟩], .hbm [8],
      .railComparatorFire .vcore 0 2, .supplyQuiet 16, .thermalTrip 0 6, .stackTempReadout 0 256, .epochWrite (2 ^ 32), .timeSampleSend 6,
      .time hdr0 0 64 true 0, .start src0 65536 0 0 0, .movCopy 384, .welScrub [⟨0, 512, 3⟩] 0, .receiveComplete 0 4096, .meshPacket 0 true 16,
      .ack 8, .d2dRetrain 0 3, .flitTime 0 4 0, .data hdr0 ⟨0, 0, 0, 0, 0⟩ ⟨place0, 0, 1⟩ 0 [[256]], .ethernetFrame { frame0 with front := 2 },
      .submit src0 { submit0 with priority := 4 }, .pagingTimeout 8 0 0, .programRow 49152, .insoleSlotsWritten 0 64, .monConversion 8 0,
      .replay hdr0 16 0 0, .unitTestDone 4 0 true, .install 16 0 [], .trigger 0 4, .trueImageWrite 0 128 0, .registerWrite (2 ^ 32) 0,
      .read 0 0 33 false, .write 0 0 [2 ^ 32] false, .entdaa 128, .setTid mctp0 256] : List Instr).all (fun i => !wellFormed i) = true ∧
    ([.powerOnReset, .straps ⟨true, 3, false, true⟩, .movCopy 383, .railComparatorFire .vopt 7 1, .submit src0 submit0, .time hdr0 0 63 true 0,
      .ethernetFrame frame0, .programRow 49151, .read 255 4 32 true, .entdaa 127, .registerWrite (2 ^ 32 - 4) 7] : List Instr).all wellFormed = true := by
  decide

/-! ## Engine words, bit by bit from the encoding tables of R115 and R116 -/

/-- One word of each class, its fields written in the order of the tables. -/
theorem test_engine_words :
    decodeWord 0b0000_0001_1100_1001_0001_1111_0101_1001_0001_0010_1101_1011_0000_0000_0000_0000 = some (.arr true 100 17 30 true false 200 9 6 13 true) ∧
    decodeWord 0b0001_0011_1100_0000_0000_0000_0000_0000_1111_1111_1111_1111_1111_1111_1111_1100 = some (.addx 12 0xFFFFFFFC) ∧
    decodeWord 0b0001_0001_0000_1011_1000_0000_0000_1111_1111_0000_0000_0000_0000_0000_0000_0000 = some (.zero 11 2048 255) ∧
    decodeWord 0b0010_1001_0001_0010_0011_0000_0001_1111_1111_0000_0111_1100_0000_0000_0001_0101 = some (.vec 9 1 2 3 511 0 31 0x15) ∧
    decodeWord 0b0011_0000_0101_0110_0111_0100_0001_1110_0001_1000_0001_0011_1111_0000_0000_0000 = some (.attn 5 6 7 1 7 33 129 63) ∧
    decodeWord 0b0100_0000_1001_1011_0101_0100_0000_0000_0000_0000_0000_0000_0000_0000_0000_0000 = some (.scrub 77 42 true) ∧
    decodeWord 0b0101_0010_0011_0100_1010_1011_1100_0000_0011_1111_1111_0001_0001_0000_0000_0000 = some (.red 2 3 4 0xABC 1023 17) ∧
    decodeWord 0b0110_0000_1000_0000_0000_0110_0011_0000_1111_0001_0010_0011_1011_0111_1101_0010 = some (.send 8 99 15 0x123 5 47 2 9) ∧
    decodeWord 0b0110_0001_1000_0001_0000_0110_0011_0000_1111_0001_0010_0011_0000_0000_0111_0010 = some (.route 8 1 99 15 0x123 3 9) ∧
    decodeWord 0b0110_0010_0010_0000_0000_0000_0111_1111_1110_1101_0000_0000_0000_0000_0000_0000 = some (.ret 2 7 0xFED) ∧
    decodeWord 0b0111_0010_1110_0000_0001_1111_0111_1111_1111_1001_1111_1101_0111_1000_0000_0000 = some (.gather 14 31 0x7FF true 63 700) ∧
    decodeWord 0b1000_0100_1011_1110_1110_1111_0000_0000_0000_0000_0000_0000_0000_0000_0000_0000 = some (.peg 4 0xBEEF) ∧
    decodeWord 0b1001_0000_0000_0000_0000_0000_0000_0000_0000_0000_0000_1111_1111_1111_1111_1111 = some (.waitBeat 0xFFFFF) ∧
    decodeWord 0b1010_0001_0110_1111_1111_1111_0000_0000_0000_0000_0000_0000_0000_0000_0000_0000 = some (.retain 6 4095) := by decide

/-- Unassigned CLASS and OP codes are no instruction. -/
theorem test_unassigned_words : decodeWord 0xB000000000000000 = none ∧ decodeWord 0xF000000000000000 = none ∧
    decodeWord 0x0200000000000000 = none ∧ decodeWord 0x1400000000000000 = none ∧ decodeWord 0x2F00000000000000 = none ∧
    decodeWord 0x8500000000000000 = none ∧ decodeWord 0xA300000000000000 = none := by decide
/-! ## For each statement, states that meet its hypotheses -/

/-- The part at reset with some register fields written. -/
def part (ws : List (Fld × Nat × Nat)) : Chip := ws.foldl (fun c w => c.wr w.1 w.2.1 w.2.2) Chip.reset

/-- The part runs, and nothing waits for the reactions that follow a command. -/
def ok (c : Chip) : Bool := c.runs && c.calm

theorem witness_StepRunsTheFrontCommand : ∃ s : State, s.pending = .syncEdge :: [.save] := ⟨⟨Chip.reset, [.syncEdge, .save]⟩, rfl⟩

theorem witness_EmptyQueuePassesOneReferenceCycle : State.reset.pending = [] ∧
    (let c := part [(R.TIMEBASE_STATUS_LOCKED, 0, 1)]; (c.runs && c.counts && decide ({ c with refcyc := 63 }.refcyc = 63)) = true) := by
  decide

theorem witness_AlertPinFollowsEnabledCauses :
    State.reset.chip.mgmt.alertLow = decide (State.reset.chip.alerting ≠ 0) ∧ ∃ t, step State.reset = .next t :=
  ⟨by decide, _, rfl⟩

theorem witness_StoppedPartKeepsEverything :
    (part [(R.TEST_STATUS_INTSCAN_USED, 0, 1)]).scanned = true ∧ takenByScanned .syncEdge = false ∧
    { Chip.reset with inReset := 1 }.unpowered = true ∧ takenWithoutVaux .idcode = false := by decide

/-- Start-up with the stages of a mask done. -/
def booting (done : Nat) : Chip := part [(R.PKG_STAGE_DONE, 0, done)]

theorem witness_StartupStagesEndWithTheirEffect :
    ([(1, 0), (2, 1), (4, 4), (5, 8), (6, 8), (7, 0x10), (8, 0x10), (9, 0xC0), (10, 0x10), (11, 0x3FF)] : List (Nat × Nat)).map
      (fun e => (booting e.2).stageRuns e.1) = List.replicate 10 true ∧ (booting 0x3FF).boot.announce = none ∧
    (booting 0xC0).stackFailed 7 = false := by decide
/-- A public key (the base point: the private key is 1) and its signature of a message with the nonce 1: s = e + r. -/
def testKey : List Nat := beBytes 48 p384gx ++ beBytes 48 p384gy
def testSign (m : List Nat) : List Nat := beBytes 48 p384gx ++ beBytes 48 ((beNat (sha384 m) + p384gx) % p384n)

/-- The shortest setup record: no item, for any part, signed by the test key. -/
def record0 : List Nat :=
  let head := [0x53, 0x45, 0x54, 0x52, 0x01, 0x00, 64, 0] ++ leBytes 4 256 ++ List.replicate 52 0
  head ++ testKey ++ testSign head

/-- Stage 3 in PROVISIONED, the first owner slot that of the test key. -/
def recording : Chip :=
  { part [(R.PKG_STAGE_DONE, 0, 1), (R.SEC_LC_STATE, 0, lcProvisioned), (R.SEC_LC_OWNERS, 0, 1)] with
    fuseShadow := { Fuses.blank with owner0 := sha384 testKey } }

theorem witness_RecordStageReportsItsChecks :
    (recording.runs && recording.stageRuns 3 && !recording.boot.warm) = true ∧
    recording.lifecycle ≠ lcManufacture ∧ recording.rd R.PKG_STRAPS_FLASH_MODE ≠ 3 ∧ (booting 1).lifecycle = lcManufacture ∧
    (recording.checkCopy (some record0)).code = 0 ∧ (recording.checkCopy none).code = 4 := by
  decide +kernel

theorem witness_PowerResetsKeepOnlyWhatNeedsNoPower : State.reset.chip.inReset ≠ 1 ∧ { Chip.reset with inReset := 1 }.inReset = 1 := by
  decide

theorem witness_WarmResetStopsAndFlushes : Chip.reset.takes .warm = true ∧ { Chip.reset with inReset := 2 }.inReset = 2 := by decide

theorem witness_PowerFailWarningSetsAndClears : Chip.reset.takes .kept = true ∧
    Chip.reset.flag R.EVR_STATUS_FLUSHING (dieOff 7) = false := by decide

theorem witness_RailComparatorsMarkAndRaise : ok Chip.reset = true ∧ Chip.reset.jobRuns = false ∧
    Chip.reset.flag R.PWR_H_STATE_VSET_PENDING (halfWin 15) = false ∧
    (let c := part [(R.PWR_H_STATE_VSET_PENDING, halfWin 15, 1), (R.MON_CTRL_REF_SEL, dieOff 7, 2)]
     (ok c && c.flag R.PWR_H_STATE_VSET_PENDING (halfWin 15) && decide (c.rd R.MON_CTRL_REF_SEL (dieOff 7) = 2)) = true) := by decide

theorem witness_SupplyAndClockEventsShow : ok Chip.reset = true ∧ Chip.reset.jobRuns = false ∧
    (let c := part [(R.PWR_H_STATE_VSET_PENDING, halfWin 15, 1)]; (c.runs && c.flag R.PWR_H_STATE_VSET_PENDING (halfWin 15)) = true) := by
  decide

theorem witness_ThermalTripStopsTheHalves : ok Chip.reset = true ∧ (diodeHalves 7 5).filter (fun h => !Chip.reset.tripped h) ≠ [] := by
  decide

theorem witness_CoolHalvesRecover :
    (let c := part [(R.PWR_H_STATE_T_LEVEL, halfWin 15, 8), (R.PWR_H_STATE_TRIPPED, halfWin 15, 1)]
     let alert := c.rd R.PWR_THERM_ALERT_C - c.rd R.PWR_THERM_HYST_C
     let throttle := c.rd R.PWR_THERM_THROTTLE_C - c.rd R.PWR_THERM_HYST_C
     let hotter := { c with rawTemp := (upFrom 56 8).map fun k => (k, 8191) }
     (ok c && ok hotter && c.tripped 15 && decide (0 < c.rd R.PWR_H_STATE_T_LEVEL (halfWin 15)) && c.coolBelow 15 throttle (levelDiodes 15)
       && c.coolBelow 15 alert (alertDiodes 15) && !hotter.coolBelow 15 throttle (levelDiodes 15)
       && !hotter.coolBelow 15 alert (alertDiodes 15)) = true) := by decide

theorem witness_StackTemperatureShows : ok Chip.reset = true ∧ Chip.reset.jobRuns = false ∧ Tbl.find? Chip.reset.rose 15 = none ∧
    94 < 95 ∧ 95 ≤ 104 ∧ 104 < 105 := by decide

theorem witness_PowerLevelFollowsTheCap : (Chip.reset.runs && { Chip.reset with powerBelow := 10 }.runs) = true ∧
    10 ≤ { Chip.reset with powerBelow := 10 }.powerBelow ∧ { Chip.reset with powerBelow := 9 }.powerBelow < 10 := by decide

/-- A part whose timebase is locked, with register fields written. -/
def locked (ws : List (Fld × Nat × Nat)) : Chip := part ((R.TIMEBASE_STATUS_LOCKED, 0, 1) :: ws)

theorem witness_TimebaseEvents : (locked []).runs = true ∧ (locked []).flag R.TIMEBASE_STATUS_SYNC_SEEN = false ∧
    ok (part [(R.TIMEBASE_STATUS_HOLDOVER, 0, 1)]) = true ∧
    (let c := locked [(R.TIMEBASE_STATUS_SYNC_SEEN, 0, 1), (R.TIMEBASE_STATUS_EPOCH_PENDING, 0, 1)]
     (c.runs && c.flag R.TIMEBASE_STATUS_SYNC_SEEN && c.flag R.TIMEBASE_STATUS_EPOCH_PENDING
       && decide (min (c.beat % 65536 * 64 + c.refcyc) (syncPeriod - (c.beat % 65536 * 64 + c.refcyc)) ≤ c.rd R.TIMEBASE_CFG_SYNC_TOL)) = true) ∧
    (let c := locked [(R.TIMEBASE_STATUS_SYNC_SEEN, 0, 1), (R.TIMEBASE_BEAT_BEAT, 0, 32768)]
     decide (min (c.beat % 65536 * 64 + c.refcyc) (syncPeriod - (c.beat % 65536 * 64 + c.refcyc)) ≤ c.rd R.TIMEBASE_CFG_SYNC_TOL) = false) := by
  decide
/-! ### The job, the timebase, the steps -/

/-- A package of node 0, the only one of job 0 but for node 1, in a job that steps; its lane group 0 of port 0 is UP and leads to
node 1. -/
def inJob (ws : List (Fld × Nat × Nat)) : Chip :=
  { part ([(R.SEQ_STATE_STATE, 0, seqRunning), (R.TORUS_GRP_STATE_STATE, lgOff 0, grpUp), (R.TORUS_GRP_STATE_OWNER, lgOff 0, ownerOwn),
      (R.TORUS_PATH_VALID, 4, 1)] ++ ws) with
    seq := { Sequencer.reset with
      jobs := [⟨0, 0, false⟩, ⟨1, 1, false⟩]
      tailIx := 1
      paths := [⟨0, 0, 8, false, 1, 100, 0, 0, 0⟩] } }

/-- The same with the next step's start named. -/
def atBoundary (ws : List (Fld × Nat × Nat)) : Chip := let c := inJob ws; { c with seq := { c.seq with next := some 70 } }

/-- A flit header of lane group 0 of port 0, in sequence, on a virtual lane. -/
def flit (vl : Nat) : Hdr := ⟨0, 0, 0, 0, vl, 0, 0, false, 0, 0, false⟩

theorem witness_TimingSamplesGiveOffsets : ok (inJob []) = true ∧ (inJob []).portPath 0 = some ⟨0, 0, 8, false, 1, 100, 0, 0, 0⟩ ∧
    (inJob []).grpState 0 = grpUp ∧ (inJob []).grpOwner 0 = ownerOwn ∧ (inJob []).takesFlit (flit 0) (.time 5 63 true (-3)) = true ∧
    (inJob []).parentHop.map Prod.fst = some (flit 0).port := by decide

theorem witness_StepPreparationEvents : ok (atBoundary []) = true ∧ (atBoundary []).stepping = true ∧
    (atBoundary []).seq.next.isSome = true ∧ (atBoundary []).holdCause = 0 ∧
    (let c := inJob [(R.SEQ_STATE_HEAD, 0, 1)]; ok c = true ∧ c.admits = true ∧ c.serving.closed ≠ some 1 ∧ c.serving.requests = [] ∧
      c.serving.tenantNext = []) ∧
    (inJob []).takesFlit (flit 1) (.pkg (.batch ⟨1, 0, [], []⟩)) = true ∧ (inJob []).takesFlit (flit 1) (.pkg (.params 1 [])) = true ∧
    (inJob []).takesFlit (flit 3) (.pkg (.results 0 [])) = true ∧
    (part [(R.SPAD_STATUS_TAGWRAP, tileOff 383, 1)]).flag R.SPAD_STATUS_TAGWRAP (tileOff 383) = true ∧
    ((part [(R.SPAD_STATUS_TAGWRAP, tileOff 383, 1)]).tile 383).wrapWait = [] := by decide

theorem witness_StepStartBeginsEveryEngine :
    (let c := { atBoundary [] with seq := { (atBoundary []).seq with posted := true } }
     ok c = true ∧ c.stepping = true ∧ c.seq.posted = true ∧ c.holdCause = 0 ∧ c.seq.next = some 70 ∧ c.seq.skip = false ∧ c.truings = [] ∧
      c.serving.requests = [] ∧ c.serving.batchIn = none ∧ c.serving.resultsIn = none ∧ c.serving.paramsIn = none ∧
      ∀ t, t < 384 → c.tileState t ≠ tileShelved) := by decide +kernel

theorem witness_LateStepEvents : ok (atBoundary []) = true ∧ (atBoundary []).stepping = true ∧ (atBoundary []).seq.next.isSome = true ∧
    (atBoundary []).lacksBatch 1 = true ∧ (atBoundary []).lacksResults 1 = true ∧
    (let c := inJob [(R.ARRAY_STATE_STATE, boardOff 49151, arrReady), (R.TIMEBASE_BEAT_BEAT, 0, truingInterval)]
     ok c = true ∧ c.arrState 49151 = arrReady ∧
      c.rd R.ARRAY_CAL_BEAT_BEAT (boardOff 49151) + truingInterval ≤ c.rd R.TIMEBASE_BEAT_BEAT) ∧
    (let c := { inJob [(R.SEQ_STATE_HEAD, 0, 1)] with arrived := true }
     ok c = true ∧ c.isHead = true ∧ c.seq.next = none ∧ c.seq.commitOwn = none ∧ c.probing = none ∧ c.arrived = true ∧
      c.flag R.FAULT_STATUS_SETTLING = false ∧ c.others ≠ []) := by decide +kernel

theorem witness_HeadCommitSetsTheNextStart :
    (let m : CommitMsg := ⟨0, 0, false, false, 0, 70, []⟩
     let c := { inJob [] with seq := { (inJob []).seq with commitOwn := some m } }
     c.runs = true ∧ c.seq.commitOwn = some m ∧ c.takesCommit m = true ∧ m.flips = []) := by decide

theorem witness_SamplerDrawsOneToken :
    (let q : BatchSlot := ⟨1, 0, 0, true, false, false, true, 0, 5⟩
     let c := { inJob [(R.SEQ_STATE_TAIL, 0, 1)] with serving := { Serving.reset with batch := ⟨0, 0, [q], []⟩ } }
     ok c = true ∧ c.stepping = true ∧ c.isTail = true ∧ c.serving.batch.slots[0]? = some q ∧ q.valid = true ∧ q.sample = true) := by
  decide

/-! ### The engines -/

/-- A tile of the last die in RUN, with one program word in bank 0, and anything else of it. -/
def engine (w : EInstr) (x : Tile → Tile) (ws : List (Fld × Nat × Nat)) : Chip :=
  (part ([(R.TILE_STATE_STATE, tileOff 383, tileRun), (R.TILE_PROG_LEN_LEN, tileOff 383, 1)] ++ ws)).onTile 383
    fun t => x { t with prog := [(0, encodeWord w)] }

/-- The word may issue in a tile as made. -/
def issuable (w : EInstr) : Bool := let c := engine w id []; ok c && c.mayIssue 383 w

theorem witness_EngineWordsDecodeToWhatTheyEncode : (EInstr.attn 15 15 15 3 255 63 255 255).wf = true ∧
    (EInstr.arr true 127 31 31 true true 255 15 15 15 true).wf = true ∧ (EInstr.vec 14 15 15 15 65535 3 255 65535).wf = true := by decide

def engineWords : List (Instr × EInstr) :=
  [(.arrMvp {} 383, .arr false 127 0 31 false false 0 1 2 3 false), (.arrMvpAdd {} 383, .arr true 127 0 31 true true 255 1 2 3 false),
   (.movCopy 383, .copy 1 2 0 0), (.movZero 383, .zero 2 4095 255), (.movSetx 383, .setx 15 (2 ^ 32 - 1)), (.movAddx 383, .addx 15 1),
   (.vecAdd 383, .vec 0 1 2 3 0 0 0 0), (.vecMul 383, .vec 1 1 2 3 0 0 0 0), (.vecScale 383, .vec 2 1 2 3 0 0 0 0),
   (.vecSumsq 383, .vec 3 1 2 3 0 0 0 0), (.vecMax 383, .vec 4 1 2 3 0 0 0 0), (.vecSum 383, .vec 5 1 2 3 0 0 0 0),
   (.vecExpsub 383, .vec 6 1 2 3 0 0 0 0), (.vecDiv 383, .vec 7 1 2 3 0 0 0 0), (.vecRsq 383, .vec 8 1 2 3 0 0 0 0),
   (.vecRope 383, .vec 9 1 2 3 63 0 0 0), (.vecSiluGate 383, .vec 10 1 2 3 0 0 0 0), (.vecGeluGate 383, .vec 11 1 2 3 0 0 0 0),
   (.vecQuant 383, .vec 12 1 2 3 0 2 0 0), (.vecDeq 383, .vec 13 1 2 3 0 0 0 0), (.vecTopk 383, .vec 14 1 2 3 0 0 0 0),
   (.milAttn 383, .attn 1 2 3 0 0 0 0 0), (.welScrub [] 383, .scrub 127 0 false), (.redAdd8 383, .red 0 1 2 0 0 0),
   (.redAdd32 383, .red 1 1 2 0 0 0), (.redMax32 383, .red 2 1 2 0 0 0), (.sndSend 383, .send 1 0 0 0 7 47 1 0),
   (.sndRoute 383, .route 1 2 0 0 0 1 3), (.sndReturn 383, .ret 1 0 0), (.rcvPost 383, .post 1 0 0 true), (.rcvWait 383, .wait 4095),
   (.rcvGather 383, .gather 1 0 4095 false 255 1023), (.pegTile 383, .peg 0 1), (.pegHalf 383, .peg 1 1), (.pegDie 383, .peg 2 1),
   (.pegPackage 383, .peg 3 1), (.pegJob 383, .peg 4 65535), (.waitBeat 383, .waitBeat 0xFFFFF), (.waitCycles 383, .waitCycles 0),
   (.chkSample {} 383, .sample), (.chkRetain 383, .retain 1 4095), (.chkDone 383, .done)]

/-- Each engine command has a word of its class that a tile as made may issue. -/
theorem witness_EngineWordsIssueInOrder :
    engineWords.all (fun e => issuable e.2 && match issues e.1 with
      | some (t, takes) => decide (t = 383) && takes e.2
      | none => false) = true ∧
    isVec 0 (.vec 1 1 2 3 0 0 0 0) = false ∧ (engine (.vec 1 1 2 3 0 0 0 0) id []).fetch 383 = some (.vec 1 1 2 3 0 0 0 0) ∧
    (part []).fetch 383 = none ∧
    (let c := engine (.wait 4095) (fun x => { x with recvs := [⟨4095, 0, 1, 0, 0, false, false, 1, 0, [], [], [], [], [], false⟩] }) []
     c.fetch 383 = some (.wait 4095) ∧ (c.tile 383).blocked (c.claim 383 (c.tile 383) (.red 0 1 2 4095 0 0)) = true) ∧
    Chip.reset.ctxErr = [] ∧ (Chip.reset.ctxDesc 7 0).entries = [] := by decide +kernel

theorem witness_MovSetxAndAddxWriteAddressRegisters : ok (engine (.setx 15 7) id []) = true ∧
    (engine (.setx 15 7) id []).fetch 383 = some (.setx 15 7) ∧ (engine (.addx 15 7) id []).fetch 383 = some (.addx 15 7) := by decide +kernel

theorem witness_MovStoresOnlyToItsDestination : issuable (.copy 1 2 4095 255) = true ∧
    (let c := engine (.zero 2 1 1) id [(R.SPAD_SLOT_BOUND_LINES, slotOff 383 0, 8)]
     c.mayIssue 383 (.zero 2 1 1) = true ∧ (c.tile 383).vline 2 1 + 1 < c.rd R.SPAD_SLOT_BOUND_LINES (slotOff 383 0)) := by decide +kernel

theorem witness_VecStoresItsResult :
    (let c := engine (.vec 0 1 2 3 7 0 0 0) id [(R.SPAD_SLOT_BOUND_LINES, slotOff 383 0, 8)]
     ok c = true ∧ c.mayIssue 383 (.vec 0 1 2 3 7 0 0 0) = true ∧ (c.tile 383).line 3 + 0 < c.rd R.SPAD_SLOT_BOUND_LINES (slotOff 383 0)) ∧
    (Instr.vecTopk 383, 0xE) ∈ [(Instr.vecAdd 383, 0x0), (.vecTopk 383, 0xE)] ∧ 0 < fpLines 8 := by decide +kernel

theorem witness_WaitsAndPegsHoldIssue : issuable (.waitCycles 0) = true ∧ issuable (.waitBeat 5) = true ∧
    (engine (.waitBeat 5) id []).beat < (engine (.waitBeat 5) id []).runStart + 5 ∧
    (engine (.waitBeat 5) id [(R.TIMEBASE_BEAT_BEAT, 0, 5)]).beat = 0 + 5 ∧ (engine (.waitBeat 5) id []).refcyc = 0 ∧
    (let c := engine (.waitBeat 5) id [(R.TIMEBASE_BEAT_BEAT, 0, 6), (R.TIMEBASE_HALF_CLK_SLOWED, 60, 1)]
     (c.mayIssue 383 (.waitBeat 5) && c.passed 5 && c.flag R.TIMEBASE_HALF_CLK_SLOWED (4 * halfOfTile 383)) = true) ∧
    (let c := engine (.waitBeat 5) id [(R.TIMEBASE_BEAT_BEAT, 0, 6)]
     (c.passed 5 && !(c.flag R.TIMEBASE_HALF_CLK_SLOWED (4 * halfOfTile 383) || c.awaitsReplica 383)) = true) ∧
    issuable (.wait 0) = true ∧ issuable .done = true ∧ issuable (.peg 0 1) = true ∧ (engine (.peg 0 1) id []).drained 383 0 = true ∧
    issuable (.peg 4 1) = true ∧ (engine (.peg 4 1) id []).drained 383 4 = true ∧
    (engine (.peg 4 1) (fun x => { x with sends := [⟨0, ⟨0, 0, 0⟩, 1⟩] }) []).drained 383 4 = false := by decide +kernel

theorem witness_SendsInjectPackets : issuable (.send 1 4095 255 0 7 47 1 0) = true ∧ 47 ≠ 0x3F ∧
    (let c := engine (.send 1 0 0 0 7 0x3F 1 0) (fun x => { x with batch := [(0, ⟨1, 0, 0, true, false, false, true, 0, 5⟩)] }) []
     c.mayIssue 383 (.send 1 0 0 0 7 0x3F 1 0) = true ∧ ((c.tile 383).slot ((c.tile 383).slotNo 0)).valid = true) ∧
    issuable (.route 1 2 0 0 0 1 3) = true ∧
    (let r : Recv := ⟨9, 0, 1, 0, 0, false, true, 1, 1, [], [], [], [⟨0, 0, 0, ⟨0, 0, 0⟩, 0, []⟩], [], true⟩
     let c := engine (.ret 1 0 9) (fun x => { x with recvs := [r] }) []
     c.mayIssue 383 (.ret 1 0 9) = true ∧ (c.tile 383).recvs.find? (fun q => decide (q.tag = 9)) = some r) := by decide +kernel

theorem witness_ReceivesArePostedAndComplete : issuable (.post 1 0 0 true) = true ∧ (engine .done id []).tileState 383 ≠ tileReplay ∧
    issuable (.gather 1 0 4095 false 255 1023) = true ∧ issuable (.retain 1 4095) = true ∧
    (let r : Recv := ⟨9, 0, 1, 0, 0, false, false, 1, 0, [0], [], [], [], [], false⟩
     let c := engine .done (fun x => { x with recvs := [r], hold := .recv 9 }) []
     (c.tile 383).recvs.find? (fun r => decide (r.tag = 9) && !r.done) = some r ∧ r.gather = false ∧ r.full = true) := by decide +kernel

theorem witness_EngineCompletionsAndScrub :
    (let c := engine .done (fun x => { x with issued := [⟨.mover, 0, [], [], false⟩] }) []
     ok c = true ∧ ((c.tile 383).issued.find? fun i => decide (i.unit = .mover)).isSome = true ∧ (c.tile 383).hold = .none) ∧
    (let c := engine .done (fun x => { x with hold := .cycles 1 }) []; (c.tile 383).hold = .cycles 1) ∧
    (let c := engine .done (fun x => { x with hold := .beat 1 }) [(R.TIMEBASE_STATUS_LOCKED, 0, 1)]
     ok c = true ∧ (c.tile 383).hold = .beat 1 ∧ c.counts = true) ∧
    (let c := engine .done (fun x => { x with ending := true }) []; c.running 383 = true ∧ (c.tile 383).ending = true ∧
      (c.tile 383).issued = [] ∧ (c.tile 383).symErr = []) := by decide +kernel
/-! ### The package fabric and the torus -/

theorem witness_TackMessagesAct : ok Chip.reset = true ∧
    (let a : AckRec := ⟨⟨0, 7, 47⟩, place0, 0, 0, 0, 0⟩
     let c := { Chip.reset with tack := [.order 7 47 0 0, .late 7 383 0, .credit 383 7 16, .ack a] }
     ok c = true ∧ (c.tack.find? fun m => match m with | .ack a => decide (a.dst.die = 7) | _ => false) = some (.ack a) ∧
      (c.tack.find? fun m => match m with | .credit t _ _ => decide (t / 48 = 7) | _ => false) = some (.credit 383 7 16) ∧
      (c.tack.find? fun m => match m with | .late d _ _ => decide (d = 7) | _ => false) = some (.late 7 383 0) ∧
      (c.tack.find? fun m => match m with | .order d _ _ _ => decide (d = 7) | _ => false) = some (.order 7 47 0 0)) := by decide

theorem witness_FaultOfATileIsShelvedAndReported :
    (let c := { Chip.reset with tack := [.fault 7 1 47 0 255] }
     ok c = true ∧ c.stepping = false ∧ Tbl.get [] c.faultQueue 7 = [] ∧ c.outOrInside 1 7 47 = false ∧
      (c.tack.find? fun m => match m with | TackMsg.fault d _ _ _ _ => decide (d = 7) | _ => false) = some (.fault 7 1 47 0 255)) ∧
    (part [(R.TILE_STATE_STATE, tileOff 383, tileShelved)]).outOrInside 1 7 47 = true := by decide

/-- All tiles of half 15 but the last have arrived. -/
def arrivals23 : List PegArrival := (upFrom 360 23).map fun t => ⟨1, 15, t, 3⟩

theorem witness_PegsMeetAtTheirRoot :
    (let same := fun (b : PegArrival) => decide (b.scope = 1 ∧ b.root = 15)
     let c := { Chip.reset with upTree := [⟨1, 15, 383, 3⟩], arrivals := arrivals23 }
     let in_ := fun (c : Chip) => { c with upTree := c.upTree.eraseIdx 0, arrivals := c.arrivals ++ [PegArrival.mk 1 15 383 3] }
     ok c = true ∧ c.jobPegs = [] ∧ c.upTree[0]? = some ⟨1, 15, 383, 3⟩ ∧ 383 ∈ participants 1 15 ∧
      c.arrivals.any (fun b => same b && decide (b.check ≠ 3)) = false ∧ (in_ c).scopeComplete 1 15 = true ∧
      (in_ { c with arrivals := [] }).scopeComplete 1 15 = false ∧
      [PegArrival.mk 1 15 360 4].any (fun b => same b && decide (b.check ≠ 3)) = true) ∧
    (let c := engine .done (fun x => { x with hold := .peg 1 5 true }) []
     let c := { c with downDone := [(1, 15)] }
     c.downDone = [(1, 15)] ∧ 383 ∈ participants 1 15 ∧ (c.tile 383).hold = .peg 1 5 true) := by decide +kernel

/-- A packet of one line from tile 0 to the last tile of its die. -/
def packet0 (b : PktBody) (d : Place) : Packet := ⟨place0, d, 0, 0, 0, 1, 0, false, b⟩

theorem witness_PacketsAreDelivered : ok Chip.reset = true ∧
    (let p := packet0 (.lines 0 0 0 true 0 [List.replicate 32 7]) ⟨0, 0, 47⟩
     let c := { Chip.reset with flight := [p] }
     ok c = true ∧ c.flight[0]? = some p ∧ p.dest.node = c.node ∧ p.dest.die = p.src.die ∧ c.tileState 47 ≠ tileShelved ∧
      c.replayNow ≤ p.replay) ∧
    (let b : Buffered := ⟨0, 0, 7, 0, true, place0, 0, 8, 0, 7, List.replicate 32 7⟩
     let c := (part [(R.SPAD_SLOT_BOUND_LINES, slotOff 383 0, 8)]).onTile 383 fun x => { x with buffer := [b] }
     ok c = true ∧ (c.tile 383).buffer[0]? = some b ∧ b.direct = true ∧ b.gen = c.rd R.SPAD_SLOT_GEN_GEN (slotOff 383 b.slot) ∧
      b.index < c.rd R.SPAD_SLOT_BOUND_LINES (slotOff 383 b.slot)) ∧
    (let slot : BatchSlot := ⟨1, 0, 0, true, false, false, true, 64, 5⟩
     let p := packet0 (.append 0 false slot []) ⟨0, 7, 0x3F⟩
     let c := { Chip.reset with appends := [p] }
     ok c = true ∧ c.appends[0]? = some p ∧ p.src.node = c.node ∧ Tbl.find? (c.ctxDesc 7 0).entries (slot.position / 64) = none) := by
  decide +kernel

/-- Edge 9 in a state at both its ends. -/
def edge9 (st : Nat) (ws : List (Fld × Nat × Nat)) : Chip :=
  part ([(R.D2D_STATUS_STATE, edgeOff (edgeEnds 9).1.1 (edgeEnds 9).1.2, st), (R.D2D_STATUS_STATE, edgeOff (edgeEnds 9).2.1 (edgeEnds 9).2.2, st)] ++ ws)

theorem witness_EdgesTrainAndFail : ok (edge9 edgeUp []) = true ∧ (edge9 edgeUp []).edgeState 9 = edgeUp ∧
    (edge9 edgeDegraded []).edgeState 9 = edgeDegraded ∧ (edge9 edgeTraining []).edgeState 9 = edgeTraining ∧
    (edge9 edgeUp []).jobRuns = false ∧ (edge9 edgeUp [(R.SEQ_STATE_STATE, 0, seqRunning)]).jobRuns = true ∧
    edgeAt (edgeEnds 9).1.1 (edgeEnds 9).1.2 = some 9 ∧
    (⟨15, 0, 0, 0⟩ : EdgeTrained).modules % 16 = 15 ∧ (⟨15, 1, 0, 0⟩ : EdgeTrained).slow % 16 ≠ 0 ∧ (⟨0, 0, 0, 0⟩ : EdgeTrained).modules % 16 = 0 := by
  decide

/-- The last lane group of the last port in a state. -/
def group23 (st : Nat) (ws : List (Fld × Nat × Nat)) : Chip := part ((R.TORUS_GRP_STATE_STATE, lgOff 23, st) :: ws)
def train0 : TrainMsg := ⟨1, 5, 3, 4, false, true, 0, 1, true⟩

theorem witness_LaneGroupsTrain : ok (group23 grpUp []) = true ∧ (group23 grpUp []).grpState 23 = grpUp ∧ (group23 grpUp []).jobRuns = false ∧
    (let c := (group23 grpTraining []).withLink 23 { noLink with peer := some train0 }
     ok c = true ∧ c.grpState 23 = grpTraining ∧ (c.link 23).peer = some train0 ∧ c.trainAgrees 23 = true ∧ c.keySpent 23 = false) ∧
    (group23 grpUp []).grpState 23 ≠ grpUnused ∧ (group23 grpUp []).carriesJob 23 = false ∧
    (group23 grpUnused []).grpState 23 = grpUnused ∧ (group23 grpUp [(R.TORUS_GRP_STATE_OWNER, lgOff 23, ownerTransit)]).carriesJob 23 = true := by
  decide

theorem witness_LaneGroupsSendAndAcknowledge :
    (let f : Flit := ⟨1, 0, 2, .data ⟨0, 0, 1, 0, 0⟩ ⟨place0, 0, 1⟩ 0 []⟩
     let up := group23 grpUp [(R.TORUS_GRP_WEIGHTS_W2, lgOff 23, 1)]
     let again := up.withLink 23 { noLink with resend := [(4095, f)], ackDue := true }
     let new := up.withLink 23 { noLink with queue := [f], owed := [0, 16, 0, 0] }
     ok up = true ∧ ok again = true ∧ ok new = true ∧ up.grpState 23 = grpUp ∧ (again.link 23).payCredit.resend = (4095, f) :: [] ∧ f.vl ≠ 0 ∧
      (again.link 23).ackDue = true ∧ (new.link 23).payCredit.resend = [] ∧ (new.link 23).payCredit.unacked.length < 2048 ∧
      (new.link 23).payCredit.rejoin = false ∧ ((new.chooseFlit 23 (new.link 23).payCredit).map (·.1)) = some f ∧
      new.flag R.TORUS_GRP_STATE_ENC (lgOff 23) = false ∧ up.chooseFlit 23 (up.link 23).payCredit = none) := by decide +kernel

theorem witness_TorusFlitsAreTaken :
    (let c := inJob []
     let dl : Delivery := ⟨3, 47, 7, 4095, 15⟩
     let o : Origin := ⟨⟨1, 0, 0⟩, 0, 2⟩
     let r := c.received (flit 1)
     let q : AckdRec := ⟨3, 47, 0, 0, 0⟩
     let x := c.onTile (3 * 48 + 47) fun x => { x with sends := [⟨0, ⟨1, 0, 0⟩, 1⟩] }
     let m : PegMsg := ⟨true, false, false, false, 0, 0, 0, 0⟩
     ok c = true ∧ 2 ≤ r.rd R.SEQ_STATE_STATE ∧ (flit 1).job = r.rd R.SEQ_JOB_JOB ∧ shareDie 0 = 3 ∧
      c.takesFlit (flit 1) (.data dl o 0 [[]]) = true ∧ dl.slot ≠ 0 ∧ r.tileState (3 * 48 + 47) ≠ tileShelved ∧ r.replayNow ≤ dl.replay ∧
      c.takesFlit (flit 3) (.copy dl o 0 0 ⟨place0, 0, 0⟩ [[]]) = true ∧ [([] : List Nat)].length < o.total ∧ c.copyParts = [] ∧
      c.takesFlit (flit 2) (.endMark dl place0 0) = true ∧
      ok x = true ∧ x.takesFlit (flit 0) (.ackd [q]) = true ∧
      (x.tile (q.die * 48 + q.tile)).sends.find? (fun e => decide (e.dest.node ≠ (x.received (flit 0)).node) &&
        decide (Tbl.get 0 (x.tile (q.die * 48 + q.tile)).sendTag
          ((x.received (flit 0)).rd R.TILE_STATE_BANK (tileOff (q.die * 48 + q.tile)) * 16384 + e.index) = q.tag)) = some ⟨0, ⟨1, 0, 0⟩, 1⟩ ∧
      c.takesFlit (flit 0) (.peg m) = true ∧ (c.received (flit 0)).stepping = true ∧ c.seq.next = none ∧
      m.step = (c.received (flit 0)).rd R.SEQ_STEP_STEP ∧ m.replay = (c.received (flit 0)).rd R.FAULT_STATUS_REPLAY ∧ m.done = true ∧
      c.takesFlit (flit 3) (.shard ⟨0, 0, 64, List.replicate 31 1⟩) = true ∧ Tbl.get [] c.shardIn 0 = [] ∧
      ([] : List Nat).length ≠ 1 ∧ ([] ++ List.replicate 31 1).length < 32) := by decide +kernel

/-! ### Front ports, sessions and requests -/

/-- A part whose first front port is up, with register fields written. -/
def facing (ws : List (Fld × Nat × Nat)) : Chip := part ((R.FRONT_STATUS_LINK_UP, frontOff 0, 1) :: ws)
/-- The same with the gateway and orchestrator keys installed, and tenant 0's two. -/
def keyed (ws : List (Fld × Nat × Nat)) : Chip :=
  { facing ws with keys := ([keyGateway * 4096, keyOrch * 4096, keyTenantData * 4096, keyTenantMac * 4096].foldl (fun m k => Tbl.insert k (List.replicate 64 5) m) []) }

theorem witness_FrontPortsTakeFrames :
    (let c := keyed []
     let long := { frame0 with bytes := 9217 }
     ok c = true ∧ c.flag R.FRONT_STATUS_LINK_UP (frontOff 0) = true ∧ { frame0 with intact := false }.intact = false ∧
      frame0.intact = true ∧ frame0.payload ≠ .pause ∧ 9216 < long.bytes ∧ 64 ≤ frame0.bytes ∧ frame0.bytes ≤ 9216 ∧ frame0.vlan = none ∧
      frame0.sec = none ∧ c.flag R.FRONT_CFG_MACSEC_REQ (frontOff 0) = true ∧
      (keyed [(R.FRONT_CFG_MACSEC_REQ, frontOff 0, 0)]).flag R.FRONT_CFG_MACSEC_REQ (frontOff 0) = false ∧
      (⟨some 0, 1, 5, false⟩ : SecTag).valid = false ∧ seg0.formOk = true ∧ seg0.bytes ≤ 8192 ∧ (tagKey seg0.typ seg0.tenant).isSome = true ∧
      c.tagPasses seg0.typ seg0.tenant seg0.tagOk = true ∧ seg0.last = true ∧ seg0.index = 0 ∧ 8192 < { seg0 with bytes := 8193 }.bytes ∧
      c.frontAddr 0 ≠ c.frontAddr 0 + 1 ∧ c.plainPort 0 = true ∧ (booting 0x200).stageDone 10 = true ∧
      { Serving.reset with parts := [⟨⟨0, 1, 2⟩, 3, 0, 0, 0, [], none⟩] }.parts[0]?.isSome = true) := by decide +kernel

/-- A head in a job that steps, with one session, the last one, of peer 1, and tenant 0 enabled. -/
def headWith (x : Stream) : Chip :=
  let c := inJob [(R.SEQ_STATE_HEAD, 0, 1)]
  { c with
    regs := (facing []).regs.foldl (fun m e => Tbl.insert e.1 e.2 m) c.regs
    keys := (keyed []).keys
    serving := { Serving.reset with sessions := [(4095, ⟨⟨0, 1, 4000⟩, 9, x⟩)], tenants := [(0, { order0 with privileged := true, maxActive := 9, maxContext := 1048576 })] } }
def gw0 : TnpIn := ⟨⟨0, 1, 4000⟩, true, 4095, 0, 1, 0, 7⟩
def stream0 : Stream := ⟨1, [], 1, [], false⟩

theorem witness_SessionsOpenCarryAndClose :
    (let m : Tnp := ⟨4095, 0, 0, 0, 0, .close⟩
     let c := headWith { stream0 with unacked := [(m, 2)], ackDue := true }
     ok c = true ∧ c.stream 4095 = some (⟨0, 1, 4000⟩, { stream0 with unacked := [(m, 2)], ackDue := true }) ∧ c.plainPort 0 = true ∧
      2 < c.rd R.SERVE_CFG_RETRIES ∧ c.rd R.SERVE_CFG_RETRIES ≤ 16 ∧ stream0.ackDue = false ∧
      gw0.session = 4095 ∧ c.inTurn gw0 2 = true ∧
      (let i := { gw0 with seq := 0, session := 0xFFFF }
       c.hears i 1 = true ∧ i.seq = 0 ∧ c.openRepeats i 8 = none ∧ c.admits = true ∧
        (upFrom 0 4096).find? (fun k => (Tbl.find? c.serving.sessions k).isNone) = some 0 ∧ (keyed []).admits = false ∧
        (keyed []).hears i 1 = true ∧ (keyed []).plainPort 0 = true)) := by decide +kernel
/-- A request of tenant 0 in session 4095, in a state. -/
def request0 (state : Nat) (marked : Option Nat) : Request :=
  { request := 7, tenant := 0, group := none, session := 4095, state := state, priority := 0, serial := 0, keep := true,
    stopOnSwitch := false, maxTokens := 4, seed := 0, params := params0, feed := [], base := 0, next := 9, commit := 9, emitted := 1,
    fresh := false, unbound := false, last := some 5, admitBeat := 0, firstBeat := none, lastBeat := none, worst := 0, overN := 0,
    deadline := none, inForce := none, due := false, applied := none, ends := [], marked := marked, tookLast := true, hashes := [],
    reused := 0, publish := 0, clean := 0, pin := none, pinned := [], maps := [], pages := 0 }

/-- A head with one request at context 3. -/
def headHolding (r : Request) : Chip :=
  let c := headWith stream0
  { c with serving := { c.serving with requests := [(3, r)] } }

theorem witness_RequestsAreAnsweredInTheirStream :
    (let c := headWith stream0
     let off := { keyed [] with serving := c.serving }
     let b := submit0
     let clamped := fun (c : Chip) (b : Submit) => ((clampSubmit 4095 (c.tenant 0) { b with resume := false }).run c).1
     let idle := headHolding (request0 2 none)
     let held := headHolding (request0 2 (some 9))
     let pin : PrefixEntry := ⟨0, false, 0, true, 0, 0, 0, 0x55, []⟩
     let pins := { c with prefixes := [(1, pin)] }
     ok c = true ∧ gw0.src.front < 2 ∧ c.gatewayTurn gw0 3 = true ∧ off.gatewayTurn gw0 3 = true ∧ off.admits = false ∧
      c.admits = true ∧ c.tenantKnown 0 = true ∧ c.submitFail 0 7 (clamped c { b with tokens := [] }) = some 0x19 ∧
      c.submitFail 0 7 (clamped c b) = none ∧ (clamped c b).cont = false ∧ c.freeContext = some 0 ∧
      idle.gatewayTurn gw0 3 = true ∧ idle.submitFail 0 7 (clamped idle { b with cont := true }) = none ∧
      (clamped idle { b with cont := true }).cont = true ∧ idle.findRequest 7 0 = some (3, request0 2 none) ∧ (request0 2 none).marked = none ∧
      held.findRequest 7 0 = some (3, request0 2 (some 9)) ∧ (request0 2 (some 9)).marked = some ((7 * 2 ^ 32 + 9) % 2 ^ 32) ∧
      (7 * 2 ^ 32 + 9) / 2 ^ 32 = (request0 2 (some 9)).request ∧ held.tenantKnown 0 = true ∧
      idle.gatewayTurn gw0 4 = true ∧ c.findRequest 7 0 = none ∧ idle.request 3 = some (request0 2 none) ∧ idle.gatewayTurn gw0 5 = true ∧
      c.gatewayTurn gw0 6 = true ∧ c.pinnedUnder 0 0x55 = [] ∧ pins.gatewayTurn gw0 6 = true ∧ pins.pinnedUnder 0 0x55 ≠ []) := by
  decide +kernel

theorem witness_StepPacketsAreKeptForTheGateway :
    (let t : TailSession := ⟨⟨0, 1, 4000⟩, [(2 ^ 32 - 1, [], 5)], none, some 3⟩
     let c := { keyed [] with serving := { Serving.reset with tail := [(4095, t)] } }
     ok c = true ∧ Tbl.find? c.serving.tail gw0.session = some t ∧ t.peer = gw0.src ∧ c.hears gw0 7 = true ∧ c.hears gw0 8 = true ∧
      c.plainPort 0 = true ∧ (t.packets.map Prod.fst).map (fun p => (p + 2 ^ 32 - (2 ^ 32 - 1)) % 2 ^ 32) = [0] ∧
      (3 + 2 ^ 32 - (2 ^ 32 - 1)) % 2 ^ 32 < 2 ^ 31 ∧ (1025 : Nat) ≠ max 1 (min 1024 1025)) := by decide +kernel

/-! ### Control orders, the context store, loading -/

/-- A part that hears the orchestrator at the first front port, in a job state. -/
def ordered (c : Chip) (ws : List (Fld × Nat × Nat)) : Chip :=
  let w := ws.foldl (fun c w => c.wr w.1 w.2.1 w.2.2) c
  { w with
    regs := (facing []).regs.foldl (fun m e => Tbl.insert e.1 e.2 m) w.regs
    keys := (keyed []).keys
    serving := { w.serving with orch := some ⟨0, 1, 4000⟩ } }
def orch0 : TnpIn := ⟨⟨0, 1, 4000⟩, true, 0xFFFF, 0, 0, 0, 7⟩

/-- A table of which no entry is a value gives that value nowhere, unless an unlisted key does. -/
theorem get_ne_of_all {d v : Nat} (hd : d ≠ v) : ∀ (m : Map Nat) (k : Nat), m.all (fun e => decide (e.2 ≠ v)) = true → Tbl.get d m k ≠ v
  | [], _, _ => hd
  | e :: m, k, h => by
    simp only [List.all_cons, Bool.and_eq_true, decide_eq_true_eq] at h
    have ih := get_ne_of_all hd m k h.2
    simp only [Tbl.get, Tbl.find?] at ih ⊢
    by_cases hk : e.1 = k
    · simpa [hk] using h.1
    · simpa [hk] using ih

/-- With no register field of that value, no board is in PROGRAM (the last condition of JobOrdersAct). -/
theorem no_board_in_program (c : Chip) (h : c.regs.all (fun e => decide (e.2 ≠ arrProgram)) = true) :
    ∀ b, b < 49152 → c.arrState b ≠ arrProgram := fun _ _ => get_ne_of_all (by decide) _ _ h

theorem witness_JobOrdersAct :
    (let idle := ordered Chip.reset [(R.SEQ_STATE_STATE, 0, seqAccepted), (R.SEQ_STATE_HEAD, 0, 1), (R.TIMEBASE_STATUS_SYNC_SEEN, 0, 1),
       (R.TIMEBASE_STATUS_EPOCH_VALID, 0, 1)]
     let runs := ordered (atBoundary [(R.SEQ_STATE_HEAD, 0, 1)]) []
     let hold := ordered Chip.reset [(R.SEQ_STATE_STATE, 0, seqHold)]
     ok idle = true ∧ ok runs = true ∧ ok hold = true ∧ [0x40, 0x41, 0x42, 0x43].all (idle.controlTurn orch0) = true ∧
      [0x40, 0x41, 0x42, 0x43].all (runs.controlTurn orch0) = true ∧ hold.controlTurn orch0 0x41 = true ∧
      runs.jobRuns = true ∧ idle.jobRuns = false ∧ runs.startFail 0 1 = some 0x30 ∧ idle.startFail 0 1 = none ∧ idle.loads = [] ∧
      idle.truings = [] ∧ idle.regs.all (fun e => decide (e.2 ≠ arrProgram)) = true ∧ runs.rd R.SEQ_JOB_JOB = 4096 % 4096 ∧
      hold.jobRuns = true ∧ hold.rd R.SEQ_STATE_STATE = seqHold ∧ runs.rd R.SEQ_STATE_STATE ≠ seqHold ∧
      runs.flag R.SEQ_LAST_VALID = false ∧ stepBefore (2 ^ 32 - 1) 0 = true ∧ idle.stepping = false ∧ runs.stepping = true ∧
      runs.isHead = true ∧ (2 : Nat) < 3 ∧ (2 : Nat) ≠ runs.seq.gearLater) := by decide +kernel

def load0 : LoadObj :=
  { kind := 2, object := 4, count := 3, got := [0], corrupt := [], pieces := [], state := 5, mode := 0, notBefore := 0, placed := [],
    wrote := false, pattern := ⟨0, 0, false, [], [], [], [], []⟩, boards := [], welt := [], crcs := [], tenant := 0, version := 0, withGen := 0 }

theorem witness_OrchestratorOrdersAct :
    (let free := ordered Chip.reset [(R.TORUS_GRP_STATE_OWNER, lgOff 0, ownerTransit)]
     let head := ordered (headHolding (request0 2 none)) []
     let away := ordered (headHolding (request0 3 none)) []
     let loading := { ordered Chip.reset [] with loads := [load0] }
     let h : ShardHdr := ⟨2, false, false, 0, 4, 2, 3, 64⟩
     let row : ReplicaRow := ⟨0, 1, 5⟩
     ok free = true ∧ ok head = true ∧ ok away = true ∧ ok loading = true ∧
      [0x44, 0x45, 0x46, 0x47, 0x48, 0x49, 0x4B].all (free.controlTurn orch0) = true ∧
      [0x47, 0x48, 0x49].all (head.controlTurn orch0) = true ∧ away.controlTurn orch0 0x48 = true ∧ loading.controlTurn orch0 0x4B = true ∧
      free.transitFail 0 0 4 false = some 0x39 ∧ free.transitFail 2 3 4 false = none ∧ free.grpOwner 0 = ownerTransit ∧
      free.admits = false ∧ head.admits = true ∧ head.requestById 8 = none ∧ head.requestById 7 = some (3, request0 2 none) ∧
      head.request 3 = some (request0 2 none) ∧ (request0 2 none).state ≠ 3 ∧ away.requestById 7 = some (3, request0 3 none) ∧
      away.admits = true ∧ away.request 3 = some (request0 3 none) ∧ (request0 3 none).state ≠ 2 ∧
      free.rd R.SEQ_STATE_STATE = seqEmpty ∧ head.rd R.SEQ_STATE_STATE ≠ seqEmpty ∧ head.rd R.SEQ_JOB_JOB = 0 % 4096 ∧
      (head.seq.jobs.any fun e => decide (e.node = row.replica % 4096)) = true ∧ head.flag R.TORUS_PATH_VALID (4 * 1) = true ∧
      h.dest = loading.node ∧ h.abort = false ∧ h.repair = false ∧ h.kind = 2 ∧ loading.loadOf 2 h.object = some load0 ∧
      load0.got.contains h.index = false ∧ load0.got.length + 1 < load0.count ∧ h.index < h.count ∧
      (loading.loads.map (·.stagedLines)).foldl (· + ·) 0 + cdiv 1 32 ≤ ((upFrom 0 8).map fun d => loading.regionLines d 6).foldl (· + ·) 0 ∧
      free.loadOf 2 4 = none ∧ free.reports = []) := by decide +kernel

/-- Context 3 of die 7, whose image of page 0 is on its way: out, or in. -/
def paging3 (out : Bool) (left : List Nat) : Chip :=
  { keyed [(R.CTX_FRAME_CFG_FRAME_LINES, dieOff 7, 1)] with
    pagings := [(7 * 65536 + 3, ⟨out, 0 :: left, [], 2⟩)]
    descs := [(7 * 65536 + 3, ⟨2, 0, 7, 9, none, 0x55, [(0, ⟨2, false, false⟩)], []⟩)] }
def image0 : ImageId := ⟨0x55, 0, 7, 0⟩
def paging0 : TnpIn := ⟨⟨0, 1, 4000⟩, true, 0xFFFE, 0, 0, 0, 7⟩

theorem witness_ContextStoreKeepsItsPages :
    (let c := paging3 true [1]
     let d := paging3 false []
     ok c = true ∧ ok d = true ∧ paging0.session = pagingSession ∧ c.pagedContext image0 7 = some 3 ∧
      c.paging 7 3 = some ⟨true, [0, 1], [], 2⟩ ∧ c.hears paging0 0x61 = true ∧ ([0, 1].filter (· != image0.page)) ≠ [] ∧
      ([0].filter (· != image0.page)) = [] ∧ d.pagedContext image0 7 = some 3 ∧ d.paging 7 3 = some ⟨false, [0], [], 2⟩ ∧
      d.hears paging0 0x63 = true ∧ d.key keyTenantData (d.ctxDesc 7 3).tenant = some (List.replicate 64 5) ∧
      d.key keyTenantMac (d.ctxDesc 7 3).tenant = some (List.replicate 64 5) ∧
      Tbl.find? (d.ctxDesc 7 3).entries image0.page = some ⟨2, false, false⟩ ∧ (List.replicate 64 5).length = 64 ∧
      (List.replicate 32 1).length = 32 * d.rd R.CTX_FRAME_CFG_FRAME_LINES (dieOff 7) ∧
      [0].contains 0 = true ∧ [0].contains 1 = false ∧ 0 < d.rd R.CTX_PAGE_CFG_PAGE_RETRIES (dieOff 7) ∧
      (part [(R.CTX_PAGE_CFG_PAGE_RETRIES, dieOff 7, 0)]).rd R.CTX_PAGE_CFG_PAGE_RETRIES (dieOff 7) ≤ 0) ∧
    (let c := { part [(R.CTX_STATUS_SCRUB_ON, dieOff 7, 1)] with frames := [(7 * 2 ^ 24 + 5, ⟨0, true⟩)] }
     ok c = true ∧ (c.busyFrames 7).find? (·.2.dirty) = some (5, ⟨0, true⟩) ∧ c.flag R.CTX_STATUS_SCRUB_ON (dieOff 7) = true ∧
      Chip.reset.flag R.CTX_STATUS_SCRUB_ON (dieOff 7) = false ∧
      ∀ l ∈ upFrom 0 16, Tbl.get 0 [(globalLine 7 3, 2)] (globalLine 7 l) ≤ 2) := by decide +kernel

def copy0 : BoardLoad := ⟨false, 512, 5, [], false, false, 0, false, false⟩
/-- A pattern load with a copy on the last board, in a state. -/
def pattern0 (k : BoardLoad) (ws : List (Fld × Nat × Nat)) : Chip :=
  { part ws with loads := [{ load0 with kind := 1, boards := [(49151, k)] }] }

theorem witness_programming : (pattern0 copy0 []).programming 7 < 1536 := by
  have h : ∀ b, (pattern0 copy0 []).arrState b = 0 := fun _ => rfl
  have n : ∀ l : List Nat, l.filter (fun _ => false) = [] := fun l => by induction l <;> simp_all
  simp [Chip.programming, Chip.boardsIn, h, arrProgram, n]

theorem witness_BoardsAreProgrammedRowByRow :
    (let l : LoadObj := { load0 with kind := 1, boards := [(49151, copy0)] }
     let c := pattern0 copy0 []
     let p := pattern0 copy0 [(R.ARRAY_STATE_STATE, boardOff 49151, arrProgram), (R.PWR_CAP_CAP_W, 0, 60000)]
     let low := { pattern0 copy0 [(R.PWR_CAP_CAP_W, 0, 59)] with power := 59 * watt }
     let off := pattern0 copy0 [(R.ARRAY_STATE_STATE, boardOff 49151, arrProgram), (R.PWR_STATUS_PFAIL, 0, 1)]
     let counted := pattern0 { copy0 with counted := true } []
     let busy := pattern0 { copy0 with busy := true } []
     ok c = true ∧ Chip.reset.boardLoad 49151 = none ∧ c.boardLoad 49151 = some (l, copy0) ∧ l.mode ≠ 2 ∧ copy0.next < copy0.rows ∧
      c.arrState 49151 ∈ [arrEmpty, arrReady, arrHeld] ∧ c.jobRuns = false ∧ p.arrState 49151 = arrProgram ∧
      c.arrState 49151 ≠ arrProgram ∧ p.boardLoad 49151 = some (l, copy0) ∧ copy0.busy = false ∧ 38 ≤ p.windowLeft 49151 ∧
      off.flag R.PWR_STATUS_PFAIL = true ∧ p.flag R.PWR_STATUS_PFAIL = false ∧ p.progBoards 7 < 1536 ∧
      p.power + 60 * 2 ^ 40 ≤ p.rd R.PWR_CAP_CAP_W * watt ∧ low.rd R.PWR_CAP_CAP_W * watt < low.power + 60 * 2 ^ 40 ∧
      (counted.boardLoad 49151).map (fun e => e.2.counted) = some true ∧ copy0.counted = false ∧ (p.wearOf 49151).count < 15999 ∧
      (busy.boardLoad 49151).map (fun e => (e.2.busy, e.2.trued, e.2.done)) = some (true, false, false)) ∧
    (let j : InsoleJob := ⟨383, 63, 4, ⟨383, 0, 0, false, []⟩⟩
     let c := { Chip.reset with insoleJobs := [j] }
     c.insoleJobs.find? (fun j => decide (j.tile = 383 ∧ j.desc = 63)) = some j ∧ c.loadOf 3 j.object = none) ∧
    (inJob []).takesFlit (flit 0) (.ctrl (.ready 1 1 4 0)) = true ∧ (inJob []).takesFlit (flit 0) (.ctrl (.fail 1 1 4 1)) = true ∧
    (let c := { ordered Chip.reset [] with loads := [load0] }
     c.loadOf 2 4 = some load0 ∧ load0.missing = some 1 ∧ c.reports = [] ∧ c.serving.orch.isSome = true ∧ Chip.reset.loadOf 2 4 = none ∧
      Chip.reset.serving.orch = none) := by decide +kernel
/-! ### Truing and recovery -/

theorem witness_TruingsPassFailOrAreCut :
    (let w : Win := ⟨127, 2, true, 0, 0, 16, 0⟩
     let c := (inJob [(R.ARRAY_STATE_STATE, boardOff 49151, arrReady)]).onTile 383 fun x => { x with windows := [w] }
     let tr : Truing := ⟨truingTrack, true, arrReady, [], [], none, []⟩
     let free := fun (tr : Truing) => { part [(R.ARRAY_STATE_STATE, boardOff 49151, arrTruing)] with truings := [(49151, tr)] }
     ok c = true ∧ ok (free tr) = true ∧ c.loads = [] ∧ c.stepping = true ∧ c.inGap = false ∧ (c.windowNow 49151 2).isSome = true ∧
      c.tileIn 49151 = true ∧ c.arrState 49151 = arrReady ∧
      (c.truings.filter fun e => decide (tileOfBoard e.1 = 383)).length < 4 ∧ Chip.reset.nextTruing 383 = none ∧ Chip.reset.jobRuns = false ∧
      (part [(R.ARRAY_STATE_STATE, boardOff 49151, arrShelved)]).nextTruing 383 = some (49151, truingFull) ∧
      Tbl.find? (free tr).truings 49151 = some tr ∧ (free tr).arrState 49151 = arrTruing ∧ tr.result = none ∧ tr.free = true ∧
      { tr with free := false }.free = false ∧ (free tr).jobRuns = false ∧ (truingResult truingTrack true true []).1 = 0 ∧
      (truingResult truingTrack false true []).1 ≠ 0 ∧ tr.kind ≠ truingVerify ∧ tr.found = [] ∧
      { tr with result := some (0, []) }.result = some (0, [])) ∧
    (let c := part [(R.MON_STATUS_SCAN_POS, dieOff 7, 23), (R.MON_SCAN_MASK, dieOff 7, 0xFFFFFFFF), (R.MON_STATUS_REF_SETTLED, dieOff 7, 1)]
     ok c = true ∧ Tbl.get 0 c.suspect 7 = 0 ∧ c.nextChannel 7 = 23 ∧ 23 ∉ upFrom 9 7 ∧ (monCode (2 ^ 30)).2.1 = true ∧ 1 % (c.rd R.MON_FILT_DECIM_M1 (dieOff 7 + 92) + 1) ≠ 0 ∧
      1 % ((part [(R.MON_FILT_DECIM_M1, dieOff 7 + 92, 0)]).rd R.MON_FILT_DECIM_M1 (dieOff 7 + 92) + 1) = 0) := by decide +kernel

theorem witness_RunsAreReplayedSettledOrHeld :
    (let h := flit 0
     let c := inJob [(R.SEQ_STATE_HEAD, 0, 1)]
     let b := atBoundary []
     let n : Notice := ⟨1, 1, 0x10, 0, 0, 0⟩
     let r := c.received h
     let spent := (inJob [(R.SEQ_STATE_HEAD, 0, 1), (R.FAULT_CFG_MAX_REPLAYS, 0, 0)]).received h
     let out := part [(R.TORUS_GRP_STATE_STATE, lgOff 0, grpUp)]
     ok c = true ∧ ok b = true ∧ c.takesFlit h (.ctrl (.notice n)) = true ∧ (inJob []).takesFlit h (.ctrl (.notice n)) = true ∧
      ((inJob []).received h).isHead = false ∧ r.isHead = true ∧ r.stepping = true ∧ (1 : Nat) ≠ r.rd R.SEQ_STEP_STEP ∧
      stepBefore 1 (r.rd R.SEQ_STEP_STEP) = false ∧ r.stepRuns = true ∧ r.seq.commitOwn = none ∧ r.flag R.FAULT_STATUS_SETTLING = false ∧
      r.probing = none ∧ n.step = r.rd R.SEQ_STEP_STEP ∧ n.replay = r.rd R.FAULT_STATUS_REPLAY ∧ ¬(n.cls = 4 ∧ n.cause = 0x4A) ∧
      r.rd R.FAULT_STATUS_REPLAY < r.rd R.FAULT_CFG_MAX_REPLAYS ∧ spent.rd R.FAULT_CFG_MAX_REPLAYS ≤ spent.rd R.FAULT_STATUS_REPLAY ∧
      c.takesFlit h (.ctrl (.replay 1 0 5)) = true ∧ r.takesReplay 0 0 = false ∧ r.takesReplay 1 0 = true ∧ r.beat ≤ r.localBeat 5 ∧
      c.takesFlit h (.ctrl (.settle 1 0)) = true ∧ c.takesFlit h (.ctrl (.hold 2 0 1)) = true ∧
      out.takesFlit h (.ctrl (.hold 2 0 1)) = true ∧ (out.received h).stepping = false ∧
      { b with holdCause := 2 }.holdCause ≠ 0 ∧ b.stepping = true ∧ b.seq.next.isSome = true ∧ b.isTail = false ∧
      c.takesFlit h (.ctrl (.probe 0)) = true ∧ r.notArrived = [] ∧ c.takesFlit h (.ctrl (.probeReply 1 0 [])) = true ∧
      [1, 2].filter (· != 1) ≠ [] ∧ { c with probing := some (9, [1, 2]) }.probing = some (9, [1, 2]) ∧ c.probing = none ∧
      { c with replayAt := some 5 }.replayAt = some 5 ∧ c.pkgCauses = [] ∧ c.seq.skip = false ∧ c.truings = [] ∧
      ∀ t, t < 384 → c.tileState t ≠ tileShelved) := by decide +kernel

theorem witness_ReplicasServeArrays :
    (let q : ReplicaReq := ⟨1, 0, 0, 0, 0, 0, 1, 0, 0⟩
     let c := inJob []
     let serves := ((inJob [(R.TILE_STATE_STATE, tileOff 0, tileRun), (R.ARRAY_CFG_VALID_L, boardOff 0, 1),
         (R.SPAD_SLOT_BOUND_LINES, slotOff 0 2, 40000), (R.TILE_STANDIN_CFG_RESERVE, tileOff 0, 60000)]).onTile 0
       fun x => { x with prog := [(0, encodeWord (.arr false 0 0 0 false false 0 1 2 3 false))] })
     let o : ReplicaOut := ⟨0, 0, 0, []⟩
     let asks := { c with replicaOut := [o] }
     let v : ReplicaServe := ⟨q, 0, 1, .int4⟩
     ok c = true ∧ ok serves = true ∧ ok asks = true ∧ c.takesFlit (flit 0) (.ctrl (.replicaReq q)) = true ∧
      (c.received (flit 0)).replicaCheck q ≠ 0 ∧ serves.takesFlit (flit 0) (.ctrl (.replicaReq q)) = true ∧
      (serves.received (flit 0)).replicaCheck q = 0 ∧ (serves.received (flit 0)).servedArr q = some v ∧
      { c with replicaServe := [v] }.replicaServe[0]? = some v ∧
      asks.takesFlit (flit 0) (.ctrl (.replicaDone q 0)) = true ∧
      (asks.replicaOut.find? fun o => decide (o.tile = q.die * 48 + q.tile ∧ o.index = q.index)) = some o ∧
      (c.replicaOut.find? fun o => decide (o.tile = q.die * 48 + q.tile ∧ o.index = q.index)) = none ∧
      q.step = (asks.received (flit 0)).stepNow ∧ q.replay = (asks.received (flit 0)).replayNow ∧ asks.replicaOut[0]? = some o) := by
  decide +kernel

theorem witness_UnitsLeaveAndReturn :
    (let c := { part [(R.TILE_STATE_STATE, tileOff 383, tileShelved), (R.ARRAY_STATE_STATE, boardOff 49151, arrReady),
         (R.ARRAY_STATE_STATE, boardOff 0, arrShelved)] with testing := [unitKey 3 7, unitKey 1 383] }
     ok c = true ∧ c.testing.contains (unitKey 2 15) = false ∧ c.testing.contains (unitKey 3 7) = true ∧
      c.testing.contains (unitKey 1 383) = true ∧ c.held 3 7 = false ∧ c.shelvings (unitKey 1 383) < 2 ∧ c.stepping = false ∧
      Tbl.get [] c.faultQueue 7 = [] ∧ c.outOrInside 1 7 47 = true ∧ c.outOrInside 1 0 (min 47 0xFFFF) = false ∧
      Chip.reset.outOrInside 0 7 6143 = false ∧ c.arrState (7 * 6144 + 6143) = arrReady ∧ c.out 1 383 = true ∧ c.held 1 383 = false ∧
      c.out 1 0 = false ∧ { c with heldUnits := [unitKey 1 383] }.held 1 383 = true ∧ c.jobRuns = false ∧ c.arrState 0 = arrShelved) ∧
    (headHolding (request0 2 none)).request 3 = some (request0 2 none) ∧ (request0 2 (some 9)).marked.isSome = true := by decide +kernel

/-! ### Lifecycle and keys -/

/-- A signed token for a command, for a part of UID 0 in its first challenge. -/
def tokenFor (k : Nat) : Token :=
  let t : Token := ⟨0x4B54434C, 1, 0, 0, 0, 0, testKey, []⟩
  { t with sig := testSign ((t.bytes k).take 128) }

/-- PROVISIONED, with both owner slots, the first that of the test key. -/
def owned : Chip :=
  { part [(R.SEC_LC_STATE, 0, lcProvisioned), (R.SEC_LC_OWNERS, 0, 3)] with
    fuseShadow := { Fuses.blank with owner0 := sha384 testKey } }

/-- The first check a command's token fails, once its bytes are in SEC_TOKEN. -/
def failOf (c : Chip) (k : Nat) : Nat :=
  let e := ((putWords R.SEC_TOKEN_BYTES ((tokenFor k).bytes k)).run { c with sent := [] }).2
  e.tokenFail (e.wordsAt R.SEC_TOKEN_BYTES 56)

theorem witness_token_operate : failOf owned 1 = 0 := by decide +kernel
theorem witness_token_debug : failOf owned 2 = 0 := by decide +kernel
theorem witness_token_decommission : failOf owned 3 = 0 := by decide +kernel
theorem witness_token_revoke : failOf owned 4 = 0 := by decide +kernel

theorem witness_LifecycleOrdersAreCheckedAndAct :
    (let filled := ((putWords R.SEC_PROV_BYTES (List.replicate 128 0xA5)).run Chip.reset).2
     let b := filled.wordsAt R.SEC_PROV_BYTES 32
     owned.runs = true ∧ owned.flag R.SEC_LC_STATUS_BUSY = false ∧ (part [(R.SEC_LC_STATUS_BUSY, 0, 1)]).flag R.SEC_LC_STATUS_BUSY = true ∧
      filled.lifecycle = lcManufacture ∧ programmed (b.take 32) = true ∧ programmed ((b.drop 32).take 48) = true ∧
      owned.lifecycle ≠ lcManufacture ∧ failOf Chip.reset 1 ≠ 0 ∧ owned.zeroising = false ∧
      (part [(R.SEC_ZEROISE_ACTIVE, 0, 1)]).zeroising = true ∧ owned.stackFailed 7 = false) := by decide +kernel

theorem witness_KeysAreInstalledAndErased :
    (let busy := part [(R.SEC_KEY_STATUS_BUSY, 0, 1)]
     let k : KeyCmd := ⟨false, 6, 0, []⟩
     let cmd := fun (k : KeyCmd) (keys : Map (List Nat)) => { owned with keyCmd := some k, keys := keys }
     busy.flag R.SEC_KEY_STATUS_BUSY = true ∧ Chip.reset.flag R.SEC_KEY_STATUS_BUSY = false ∧ Chip.reset.keyCmd = none ∧
      (List.replicate (wrappedLen 6) 255).length = wrappedLen 6 ∧ (List.replicate (wrappedLen 6) 255).all (fun x => decide (x < 256)) = true ∧
      (cmd k []).keyCmd = some k ∧ Chip.reset.lifecycle ≠ lcProvisioned ∧ Chip.reset.lifecycle ≠ lcOperational ∧
      owned.lifecycle = lcProvisioned ∧ owned.zeroising = false ∧ owned.keyGated = false ∧
      ((cmd k []).key 6 0).isSome = false ∧ ((cmd k [(6 * 4096, [1])]).key 6 0).isSome = true ∧
      (cmd k [(6 * 4096, [1])]).installRefused 6 0 = true ∧ (cmd k [(6 * 4096, [1])]).eraseRefused 6 0 = 0 ∧
      { (part [(R.TORUS_GRP_STATE_STATE, lgOff (linkSlotGroup 0), grpUp)]) with keys := [(7 * 4096, [1])] }.eraseRefused 7 0 ≠ 0 ∧
      keyUnwrap owned.fuseShadow.pkgKey ([0xA6, 0xA6, k.kind, 0] ++ leBytes 4 k.slot) [] = none ∧
      keyUnwrap owned.fuseShadow.pkgKey ([0xA6, 0xA6, k.kind, 0] ++ leBytes 4 k.slot) [0xA6, 0xA6, 6, 0, 0, 0, 0, 0] = some []) := by decide +kernel
/-! ### The event recorder, registers, the management port, test access -/

def evr0 : EvrRecord := ⟨0, 15, 2, 0, 0, 7, 0, 0, 0, 0, 0, [], []⟩

theorem witness_RecordsAreTakenStoredAndSought :
    (let with_ := fun (x : Recorder) (ws : List (Fld × Nat × Nat)) => { part ws with recorders := [(7, x)] }
     let one := { noRecorder with staging := [evr0] }
     let full := { noRecorder with staging := List.replicate 8 evr0 }
     let scanned := [(R.EVR_STATUS_SCAN_DONE, dieOff 7, 1)]
     let flushing := (R.EVR_STATUS_FLUSHING, dieOff 7, 1) :: scanned
     let overN := { one with ring := [(0, (evr0, false))] }
     let c := with_ overN flushing
     let worn := { c with logbook := [(7 * 8192, ⟨.whole evr0, false, 15999⟩)] }
     c.runs = true ∧ (part [(R.EVR_STATUS_PFAIL_MODE, dieOff 7, 1)]).flag R.EVR_STATUS_PFAIL_MODE (dieOff 7) = true ∧
      8 ≤ ((with_ full []).recorder 7).staging.length ∧ (with_ one []).flag R.EVR_STATUS_PFAIL_MODE (dieOff 7) = false ∧
      ((with_ one []).recorder 7).staging.length < 8 ∧ (with_ one []).flag R.EVR_STATUS_SCAN_DONE (dieOff 7) = false ∧
      ((with_ one scanned).recorder 7).staging = evr0 :: [] ∧ (with_ one scanned).flag R.EVR_STATUS_SCAN_DONE (dieOff 7) = true ∧
      Tbl.find? ((with_ one scanned).recorder 7).ring 0 = none ∧ Tbl.find? (c.recorder 7).ring (c.recorder 7).next = some (evr0, false) ∧
      c.flag R.EVR_STATUS_FLUSHING (dieOff 7) = true ∧ (with_ overN scanned).flag R.EVR_STATUS_FLUSHING (dieOff 7) = false ∧ 2 ≤ evr0.severity ∧
      ((with_ one flushing).recorder 7).unflushed = none ∧ ((with_ noRecorder flushing).recorder 7).unflushed = none ∧
      (noRecorder.staging = []) ∧ (c.recorder 7).unflushed = some (0, evr0) ∧ (c.chooseSlot 7 2).isSome = true ∧
      noRecorder.seek = none ∧ { noRecorder with seek := some 0 }.seek = some 0 ∧ (worn.logSlots 7).length = 1 ∧
      (part [(R.EVR_CURSOR_AUTO, dieOff 7, 1)]).flag R.EVR_CURSOR_AUTO (dieOff 7) = true) := by decide +kernel

theorem mem_upFrom {x : Nat} : ∀ {a n : Nat}, x ∈ upFrom a n ↔ a ≤ x ∧ x < a + n
  | a, 0 => by simp [upFrom]
  | a, n + 1 => by simp only [upFrom, List.mem_cons, mem_upFrom]; omega

/-- A logbook of die 0 whose first slots are retired. -/
def wornOut (slots : List Nat) : Chip := { Chip.reset with logbook := slots.map fun s => (s, ⟨.empty, true, 20000⟩) }

theorem wornOut_slots (l : List Nat) (h : ∀ s, s ∈ l → s < 8192) :
    (wornOut l).logSlots 0 = l.map fun s => (s, ⟨.empty, true, 20000⟩) := by
  simp only [Chip.logSlots, wornOut, List.filter_map, List.map_map]
  rw [List.filter_eq_self.2 (fun s hs => by simpa using h s hs)]
  exact List.map_congr_left fun s hs => by simp [Nat.mod_eq_of_lt (h s hs)]

theorem wornOut_choose (l : List Nat) (h : ∀ s, s ∈ l ↔ s < 8192) : (wornOut l).chooseSlot 0 2 = none := by
  have hs := wornOut_slots l fun s => (h s).1
  have never : ((upFrom 0 8192).find? fun s => !((wornOut l).logSlots 0).any fun e => decide (e.1 = s)) = none := by
    rw [List.find?_eq_none]
    intro s hm
    have hm := mem_upFrom.1 hm
    simp only [hs, List.any_map, Bool.not_eq_true', Bool.not_eq_false, List.any_eq_true]
    exact ⟨s, (h s).2 (by omega), by simp⟩
  have fresh : (wornOut l).freshSlot 0 = none := by
    unfold Chip.freshSlot
    simp only [never]
    simp only [hs, List.filter_map]
    rw [List.filter_eq_nil_iff.2 (by simp)]
    rfl
  have oldest : (wornOut l).oldestSlot 0 2 = none := by
    unfold Chip.oldestSlot
    rw [hs, List.filterMap_map]
    rw [List.filterMap_eq_nil_iff.2 (by simp)]
    rfl
  simp only [Chip.chooseSlot, fresh, oldest]

/-- With every slot retired, no slot is left for a record. -/
theorem witness_chooseSlot_none : ∃ c : Chip, c.chooseSlot 0 2 = none :=
  ⟨wornOut (upFrom 0 8192), wornOut_choose _ fun s => by rw [mem_upFrom]; omega⟩

theorem witness_RegistersAreWrittenAndReadByTheirTypes : ok Chip.reset = true ∧ regAt 0xFFFFFFFC = none ∧
    ((regAt R.PWR_CAP_CAP_W.addr).map fun x => (x.word, (actingWrite srcMgmt x 7).isNone)) = some (0, true) ∧
    ((regAt (R.TIMEBASE_BEAT_BEAT.addr + 4)).map fun x => (decide (0 < x.word), x.reg.wideRw)) = some (true, false) ∧
    ((regAt R.FRONT_FRAMES_RX.addr).map fun x => decide (x.word = 0 ∧ x.reg.addr ∉ [R.TIMEBASE_BEAT_BEAT.addr, R.TRUE_IMAGE_BYTES.addr,
      R.EVR_WINDOW_BYTES.addr])) = some true := by decide +kernel

theorem witness_ActingRegistersAct :
    (let c := part []
     let held := part [(R.ARRAY_STATE_STATE, boardOff 49151, arrHeld)]
     let ready := part [(R.ARRAY_STATE_STATE, boardOff 49151, arrReady)]
     let flash := { c with boot := { Boot.reset with flash := true } }
     c.runs = true ∧ held.arrState 49151 ∈ [arrEmpty, arrShelved, arrHeld] ∧ ready.arrState 49151 ∉ [arrEmpty, arrShelved, arrHeld] ∧
      voltageChannel 0 = true ∧ (2 : Nat) < 3 ∧ (0 : Nat) % 2 ^ 32 ≠ (0 % 2 ^ 32 ||| fixedScan) ∧
      (part [(R.PKG_CAL_SAVE_BUSY, 0, 1)]).flag R.PKG_CAL_SAVE_BUSY = true ∧ (part [(R.TEST_STATUS_IR, 0, 0)]).intrusive = true ∧
      c.flag R.PKG_CAL_SAVE_BUSY = false ∧ c.intrusive = false ∧ flash.flashReady = true ∧ c.flashReady = false ∧ c.saving = none ∧
      { c with saving := some 1 }.saving = some 1) := by decide +kernel

/-- A part whose management port serves, in I3C mode, with an endpoint ID. -/
def served (eid : Nat) : Chip :=
  part [(R.PKG_STAGE_DONE, 0, 0xD), (R.MGMT_STATUS_MODE, 0, 1), (R.MGMT_STATUS_EID, 0, eid), (R.MGMT_STATUS_DYN_VALID, 0, 1)]

theorem witness_ManagementPortServesFramesAndCodes :
    (let answered := { served 0 with mgmt := { Mgmt.reset with response := [1] } }
     let queued := { served 0 with mgmt := { Mgmt.reset with packets := [[1], [2]] } }
     let cut := part [(R.TEST_STATUS_IR, 0, 3), (R.PKG_STAGE_DONE, 0, 0xD)]
     (served 0).runs = true ∧ Chip.reset.portServes = false ∧ Chip.reset.calm = true ∧ (served 0).portServes = true ∧
      answered.mgmt.response ≠ [] ∧ answered.portServes = true ∧ (served 0).mgmt.response = [] ∧ cut.portReached = false ∧
      (served 0).portReached = true ∧ Chip.reset.portReached = true ∧ Chip.reset.stageDone 4 = false ∧ (served 0).stageDone 4 = true ∧
      queued.mgmt.packets = [1] :: [[2]] ∧ queued.i3c = true ∧ (served 0).mgmt.packets = [] ∧ answered.mgmt.packets = [] ∧
      (served 0).flag R.MGMT_STATUS_DYN_VALID = true ∧ Chip.reset.flag R.MGMT_STATUS_DYN_VALID = false ∧ Chip.reset.i3c = false ∧
      ((mapM_ (upFrom 0 1) fun i => readReg (0xFFFFFFFC + 4 * i)).run (served 0)).1 = [0] ∧
      ((forM_ ((upFrom 0 1).zip [50]) fun e => writeReg srcMgmt (R.PWR_CAP_CAP_W.addr + 4 * e.1) e.2).run (served 0)).2.calm = true) := by
  decide +kernel

theorem witness_MctpAndPldmMessagesAreAnswered :
    (let x : McIn := { mctp0 with eid := 9 }
     (served 9).runs = true ∧ Chip.reset.portServes = false ∧ (served 9).portServes = true ∧ (served 9).i3c = true ∧
      x.pecOk = true ∧ x.eid = (served 9).rd R.MGMT_STATUS_EID ∧ (served 9).rd R.MGMT_STATUS_EID ≠ 0 ∧ mctp0.eid = 0 ∧
      (7 : Nat) ≠ (served 9).rd R.MGMT_STATUS_EID ∧ (served 0).rd R.MGMT_STATUS_EID = 0 ∧ 21 ≤ 21 ∧ 21 < 22) := by decide +kernel

theorem witness_TestAccessFollowsItsGrades :
    (let full := part [(R.TEST_STATUS_GRADE, 0, 3), (R.TEST_STATUS_IR, 0, irIntscan), (R.SEC_LC_STATE, 0, lcDebug), (R.SEC_LC_DEBUG_READY, 0, 1)]
     let some_ := part [(R.TEST_STATUS_GRADE, 0, 1)]
     let two := part [(R.TEST_STATUS_GRADE, 0, 2)]
     let r : RawRead := ⟨0, 7, 47, 0, 0⟩
     let reading := { full with rawRead := some r }
     full.takes .tap = true ∧ full.runs = true ∧ (inJob []).jobRuns = true ∧ (inJob []).takes .tap = true ∧ full.jobRuns = false ∧
      full.rd R.TEST_STATUS_GRADE = 3 ∧ some_.rd R.TEST_STATUS_GRADE ≠ 3 ∧ some_.rd R.TEST_STATUS_GRADE < 2 ∧ 2 ≤ two.rd R.TEST_STATUS_GRADE ∧
      full.rd R.TEST_STATUS_IR = irIntscan ∧ (∀ n, n < 8 → full.flag R.EVR_STATUS_FLUSHING (dieOff n) = false) ∧
      two.rd R.TEST_STATUS_IR ≠ irIntscan ∧ two.flag R.PKG_STAGE_TEST_HALT = false ∧
      (part [(R.PKG_STAGE_TEST_HALT, 0, 1)]).flag R.PKG_STAGE_TEST_HALT = true ∧ full.rawOpen = true ∧
      full.flag R.TEST_RAW_STATUS_BUSY = false ∧ (part [(R.SEC_LC_STATE, 0, lcOperational), (R.TEST_STATUS_GRADE, 0, 1)]).rawOpen = false ∧
      full.rawRead = none ∧ reading.rawRead = some r ∧ (reading.rawUnit r).errs = 0 ∧
      (reading.rawUnit { r with src := 2 }).coded = false) := by decide +kernel
/-! ## Single steps, their results from the spec's own words -/

/-- The part of a next state. -/
def chipOf (r : Host.Outcome State Fault Refusal) : Option Chip :=
  match r with
  | .next t => some t.chip
  | _ => none

/-- The part that one command makes of a part. -/
def after (c : Chip) (i : Instr) : Chip := (chipOf (step ⟨c, [i]⟩)).getD c

/-- R160: a beat is 64 reference cycles; the counter of beats wraps at 2⁴⁸. -/
theorem test_beat_wraps :
    (let c := { locked [(R.TIMEBASE_BEAT_BEAT, 0, 2 ^ 48 - 1)] with refcyc := 63 }
     (chipOf (step ⟨c, []⟩)).map (fun t => (t.beat, t.refcyc)) = some (0, 0)) := by decide +kernel

/-- R116: ADDX adds modulo 2³². -/
theorem test_addx_wraps :
    (let c := engine (.addx 3 2) (fun x => { x with xregs := [(3, 2 ^ 32 - 1)] }) []
     ((after c (.movAddx 383)).tile 383).xreg 3 = 1 ∧ (after c (.movAddx 383)).pc 383 = 1) := by decide +kernel

/-- R118: ADD of 1.5 and 2.25 is 3.75; in slot 0 of 64 lines under generation 1, A at line 0, B at line 1, D at line 2. -/
theorem test_vec_add :
    (let c := engine (.vec 0 1 2 3 0 0 0 0)
       (fun x => { x with xregs := [(2, 1), (3, 2)], tags := [(0, 0x103)], mem := [(2, 0xC0), (3, 0x3F), (34, 0x10), (35, 0x40)] })
       [(R.SPAD_SLOT_BOUND_LINES, slotOff 383 0, 64), (R.SPAD_SLOT_GEN_GEN, slotOff 383 0, 1),
        (R.SPAD_SLOT_OWNER_ACTIVE, slotOff 383 0, 1)]
     (after c (.vecAdd 383)).spadByte 383 66 = 0x70 ∧ (after c (.vecAdd 383)).spadByte 383 67 = 0x40) := by
  decide +kernel

/-- R480: PFAIL_N low and high again. -/
theorem test_pfail : (after Chip.reset .pfailAssert).flag R.PWR_STATUS_PFAIL = true ∧
    (after (after Chip.reset .pfailAssert) .pfailDeassert).flag R.PWR_STATUS_PFAIL = false ∧
    (after (after Chip.reset .pfailAssert) .pfailDeassert).rd R.PWR_PFAIL_COUNT = 1 := by decide +kernel

/-- R20, R17: a field with limits takes the legal value nearest to the one written, and the write counts as clamped. -/
theorem test_clamped_write : (after Chip.reset (.registerWrite R.MGMT_CFG_STATIC_ADDR.addr 127)).rd R.MGMT_CFG_STATIC_ADDR = 119 := by
  decide +kernel

/-- FIPS 180-4: the digest of "abc" begins cb00753f and ends 25a7. -/
theorem test_sha384_abc : (sha384 [0x61, 0x62, 0x63]).take 4 = [0xCB, 0x00, 0x75, 0x3F] ∧ (sha384 [0x61, 0x62, 0x63]).drop 46 = [0x25, 0xA7] := by
  decide +kernel

/-- FIPS 197, appendix C.3: AES-256 of the counting key and block. -/
theorem test_aes256 : aesEnc (upFrom 0 32) [0x00, 0x11, 0x22, 0x33, 0x44, 0x55, 0x66, 0x77, 0x88, 0x99, 0xAA, 0xBB, 0xCC, 0xDD, 0xEE, 0xFF] =
    [0x8E, 0xA2, 0xB7, 0xCA, 0x51, 0x67, 0x45, 0xBF, 0xEA, 0xFC, 0x49, 0x90, 0x4B, 0x49, 0x60, 0x89] := by decide +kernel

end Sys2Proof.Tests
end

section
/-! Refutes the statement on register accesses: a plain write of a wide value also replaces the value's shadow (R21), which is
not a register field. -/
namespace Sys2Proof.Machine

/-- Where only register fields and event records differ, the shadows of the wide values are the same. -/
theorem Chip.onlyRegs.shadows {c d : Chip} (h : c.onlyRegs d) : d.shadows = c.shadows :=
  (congrArg (·.shadows) h :)

/-- ALERT_N does not touch the shadows. -/
@[simp] theorem settleAlert_shadows (was : Nat) (c : Chip) : ((settleAlert was).run c).2.shadows = c.shadows := by
  obtain ⟨_, h⟩ := settleAlert_run was c
  rw [h]

/-- The commit of a wide value (R21): a plain write of its lowest word writes the fields, with the shadow as their upper words,
and then loads the shadow with the upper words committed. -/
theorem writeReg_lowest_run {src a v : Nat} {x : RegAt} (hx : regAt a = some x) (hlow : x.word = 0)
    (hplain : actingWrite src x (v % 2 ^ 32) = none) (hwide : x.reg.wideRw = true) (c : Chip) :
    let sh := Tbl.get 0 c.shadows (x.reg.addr + x.off)
    let d := ((forM_ x.reg.fields (writeField src x.off (v % 2 ^ 32 + sh * 2 ^ 32))).run c).2
    (writeReg src a v).run c =
      ((), { d with shadows := Tbl.put 0 d.shadows (x.reg.addr + x.off) (d.value x.reg x.off / 2 ^ 32) }) := by
  simp only [writeReg, hx, hlow, hplain, hwide, CM.get_bind, CM.run_seq, whenM_true, CM.run_modify, Nat.lt_irrefl, if_true, if_false]

/-- The next-hop MAC address of front port 0: 48 bits, of which the shadow's word can hold 16. -/
def nextHopMac : RegAt := ⟨⟨0xb000020, 2, false, [(2, 0x100)], [R.FRONT_NEXTHOP_MAC]⟩, 0, 0⟩

theorem regAt_nextHopMac : regAt R.FRONT_NEXTHOP_MAC.addr = some nextHopMac := by decide +kernel

theorem actingWrite_nextHopMac (v : Nat) : actingWrite srcMgmt nextHopMac v = none := rfl

theorem nextHopMac_value_lt (c : Chip) : c.value nextHopMac.reg nextHopMac.off < 2 ^ 48 := by
  unfold Chip.value
  split
  · decide
  · simpa [nextHopMac, R.FRONT_NEXTHOP_MAC] using Nat.mod_lt _ (by decide)

/-- Once committed, the shadow of the next-hop MAC address holds the upper 16 bits of the address and no more. -/
theorem nextHopMac_shadow_lt (v : Nat) (c : Chip) :
    Tbl.get 0 ((writeReg srcMgmt R.FRONT_NEXTHOP_MAC.addr v).run c).2.shadows R.FRONT_NEXTHOP_MAC.addr < 2 ^ 16 := by
  rw [writeReg_lowest_run regAt_nextHopMac rfl (actingWrite_nextHopMac _) rfl]
  show Tbl.get 0 (Tbl.put 0 _ R.FRONT_NEXTHOP_MAC.addr _) R.FRONT_NEXTHOP_MAC.addr < 2 ^ 16
  rw [Tbl.get_put_same]
  exact Nat.div_lt_of_lt_mul (nextHopMac_value_lt _)

/-- A part whose next-hop MAC shadow was written with a bit above the 16 that belong to the address. -/
def longShadow : Chip := { Chip.reset with shadows := [(R.FRONT_NEXTHOP_MAC.addr, 2 ^ 16)] }

/-- From reset, a write of the address's upper word makes that part. -/
theorem registerWrite_upper_longShadow :
    exec (.registerWrite (R.FRONT_NEXTHOP_MAC.addr + 4) (2 ^ 16)) State.reset = .next ⟨longShadow, []⟩ := by
  refine congrArg Host.Outcome.next ?_
  decide +kernel

/-- A write of the lowest word shortens the shadow of that part, so the part changes beyond its register fields. -/
theorem registerWrite_longShadow : Completes (.registerWrite R.FRONT_NEXTHOP_MAC.addr 0) ⟨longShadow, []⟩ fun d =>
    Tbl.get 0 d.shadows R.FRONT_NEXTHOP_MAC.addr < 2 ^ 16 :=
  act_completes rfl (by decide +kernel) fun _ => by
    rw [settleAlert_shadows]
    exact nextHopMac_shadow_lt 0 _

/-- Refutes O56: its third clause lets a plain write change register fields alone, but the write of the lowest word of a wide
value also replaces the shadow (R21).  The next-hop MAC address of a front port is plain and wide: after 0x10000 is written to
its upper word, a write of 0 to the lowest word takes the shadow from 0x10000 to 0, as the clause on that register says itself. -/
theorem not_registersAreWrittenAndReadByTheirTypes : ¬ Obligations.RegistersAreWrittenAndReadByTheirTypes := by
  unfold Obligations.RegistersAreWrittenAndReadByTheirTypes
  intro h
  obtain ⟨-, -, plainWrite, -⟩ := h ⟨longShadow, []⟩ R.FRONT_NEXTHOP_MAC.addr 0 rfl rfl
  obtain ⟨d, hd, hregs⟩ := plainWrite nextHopMac regAt_nextHopMac rfl rfl
  obtain ⟨e, he, hshort⟩ := registerWrite_longShadow
  obtain rfl : d = e := by
    rw [hd] at he
    injection he with he
    exact congrArg State.chip he
  rw [← hregs.shadows] at hshort
  exact absurd hshort (by decide)

end Sys2Proof.Machine
end

section
/-! Settles the statement on programming boards: what the operations on the objects being loaded, on the boards' windows and rows, on
insoles, on READY and FAIL flits and on load reports do, and from it each clause. -/
namespace Sys2Proof.Machine

/-! ## Lists and tables -/

theorem upFrom_eq_range' : ∀ a n : Nat, upFrom a n = List.range' a n
  | _, 0 => rfl
  | a, n + 1 => by rw [upFrom, List.range'_succ, upFrom_eq_range' (a + 1) n]

/-- What a search finds once the elements that `q` picks have given way to one that the search takes too. -/
theorem find?_amend {α : Type} {p q : α → Bool} {a b : α} (hq : q a = true) (hp : p b = true) :
    ∀ {l : List α}, l.find? p = some a → (amend q (fun _ => b) l).find? p = some b
  | [], h => by simp at h
  | x :: t, h => by
    cases hx : q x with
    | true => simp [amend, hx, hp]
    | false =>
      have hpx : p x = false := by
        cases hpx : p x with
        | false => rfl
        | true => rw [List.find?_cons_of_pos hpx, Option.some.injEq] at h; rw [h, hq] at hx; exact hx
      have ih := find?_amend hq hp (l := t) (by rwa [List.find?_cons_of_neg (by simp [hpx])] at h)
      simpa only [amend, List.map_cons, hx, Bool.false_eq_true, if_false, List.find?, hpx] using ih

theorem Tbl.find?_append {α : Type} (m n : Map α) (x : Nat) : Tbl.find? (m ++ n) x = (Tbl.find? m x).or (Tbl.find? n x) := by
  induction m with
  | nil => rfl
  | cons e t ih =>
    simp only [List.cons_append, Tbl.find?]
    split
    · rfl
    · exact ih

theorem Tbl.find?_keep_none {α : Type} {p : Nat → Bool} {x : Nat} (h : p x = false) (m : Map α) :
    Tbl.find? (Tbl.keep p m) x = none := by
  induction m with
  | nil => rfl
  | cons e t ih =>
    simp only [Tbl.keep, List.filter_cons] at ih ⊢
    split
    · next hp => rw [Tbl.find?, if_neg (fun he => by simp [he, h] at hp), ih]
    · exact ih

/-- The entries of a run of keys that hold other values than 0 list no key below the run. -/
theorem find?_run_below {x : Nat} : ∀ {vs : List Nat} {lo : Nat}, x < lo →
    Tbl.find? (((upFrom lo vs.length).zip vs).filter fun e => !decide (e.2 = 0)) x = none
  | [], _, _ => rfl
  | v :: t, lo, h => by
    have ih := find?_run_below (vs := t) (show x < lo + 1 by omega)
    simp only [List.length_cons, upFrom, List.zip_cons_cons, List.filter_cons]
    split
    · rw [Tbl.find?, if_neg (by omega), ih]
    · exact ih

/-- An entry of a run reads as its value, an unlisted 0 among them. -/
theorem get_run : ∀ {vs : List Nat} {lo i : Nat} (h : i < vs.length) (m : Map Nat), Tbl.find? m (lo + i) = none →
    Tbl.get 0 ((((upFrom lo vs.length).zip vs).filter fun e => !decide (e.2 = 0)) ++ m) (lo + i) = vs[i]
  | v :: t, lo, 0, _, m, hm => by
    have hlow := find?_run_below (vs := t) (show lo < lo + 1 by omega)
    simp only [List.length_cons, upFrom, List.zip_cons_cons, List.filter_cons, Nat.add_zero] at hm ⊢
    split
    · simp [Tbl.get, Tbl.find?]
    · next hv =>
      have hv : v = 0 := by simpa using hv
      simp [Tbl.get, Tbl.find?_append, hlow, hm, hv]
  | v :: t, lo, i + 1, h, m, hm => by
    have ih := get_run (vs := t) (lo := lo + 1) (i := i) (by simpa using h) m (by rwa [Nat.add_right_comm])
    rw [Nat.add_right_comm] at ih
    simp only [List.length_cons, upFrom, List.zip_cons_cons, List.filter_cons, List.getElem_cons_succ]
    split
    · rw [← ih, List.cons_append, Tbl.get, Tbl.find?, if_neg (by omega)]
      rfl
    · exact ih

/-- A replaced range reads as the values that replace it. -/
theorem get_replaceRange {vs : List Nat} {i : Nat} (old : Map Nat) (lo : Nat) (h : i < vs.length) :
    Tbl.get 0 (replaceRange old lo vs) (lo + i) = vs[i] := by
  have below : Tbl.find? (Tbl.keep (fun k => decide (k < lo)) old) (lo + i) = none := Tbl.find?_keep_none (by simp) _
  have above : Tbl.find? (Tbl.keep (fun k => decide (lo + vs.length ≤ k)) old) (lo + i) = none :=
    Tbl.find?_keep_none (by simpa using h) _
  rw [← get_run h _ above, replaceRange, List.append_assoc, Tbl.get, Tbl.find?_append, below, Option.none_or, Tbl.get]

/-! ## Boards' states -/

/-- The fields that name the members of a tile's stand-in set (R128). -/
def standinFlds : List Fld :=
  [R.TILE_STANDIN_SET_MEMBER0, R.TILE_STANDIN_SET_MEMBER1, R.TILE_STANDIN_SET_MEMBER2, R.TILE_STANDIN_SET_MEMBER3]

/-- A board that leaves its tile's stand-in set changes the set's fields alone. -/
theorem leaveStandin_mods (b : Nat) :
    Mods (fun k => ∃ f ∈ standinFlds, k = regKey f (tileOff (tileOfBoard b))) (leaveStandin b) := by
  refine Mods.bind Mods.get fun c => ?_
  dsimp only
  split
  · exact Mods.pure ()
  · next m hm =>
    obtain ⟨f, hf, rfl⟩ := List.mem_map.1 (List.mem_of_find?_eq_some hm)
    exact Mods.wrM ⟨f, hf, rfl⟩

theorem setBoardState_run (b st : Nat) (c : Chip) : ∃ rs, (setBoardState b st).run c = ((), { c with regs := rs }) := by
  simp only [setBoardState, CM.run_seq, wrM_run, whenM_run, leaveStandin, CM.get_bind]
  split
  · split <;> exact ⟨_, rfl⟩
  · exact ⟨_, rfl⟩

/-- A field of the stand-in set of a board's tile is not the board's state. -/
theorem regKey_standin_ne_state {b : Nat} {f : Fld} (hf : f ∈ standinFlds) :
    regKey R.ARRAY_STATE_STATE (boardOff b) ≠ regKey f (tileOff (tileOfBoard b)) := by
  have ht : tileOfBoard b / 48 = b / 6144 := by unfold tileOfBoard; omega
  have hm : tileOfBoard b % 48 = b % 6144 / 128 := by unfold tileOfBoard; omega
  simp only [standinFlds, List.mem_cons, List.not_mem_nil, or_false] at hf
  simp only [regKey, boardOff, tileOff, ht, hm, R.ARRAY_STATE_STATE]
  rcases hf with rfl | rfl | rfl | rfl <;>
    simp only [R.TILE_STANDIN_SET_MEMBER0, R.TILE_STANDIN_SET_MEMBER1, R.TILE_STANDIN_SET_MEMBER2,
      R.TILE_STANDIN_SET_MEMBER3] <;> omega

theorem setBoardState_arrState {st : Nat} (hst : st < 8) (b : Nat) (c : Chip) :
    ((setBoardState b st).run c).2.arrState b = st := by
  have hwr : (c.wr R.ARRAY_STATE_STATE (boardOff b) st).arrState b = st := by
    rw [Chip.arrState, Chip.rd_wr_same]
    exact Nat.mod_eq_of_lt hst
  rw [setBoardState, CM.run_seq, wrM_run, Chip.arrState, (Mods.whenM (leaveStandin_mods b)).rd]
  · exact hwr
  · rintro ⟨f, hf, he⟩
    exact regKey_standin_ne_state hf he

/-! ## Objects being loaded -/

/-- The part `d` differs from `c` in the objects being loaded and in register fields alone. -/
def Chip.onlyLoads (c d : Chip) : Prop := ∃ ls rs, d = { c with loads := ls, regs := rs }

theorem Chip.onlyLoads.trans {c d e : Chip} (h : c.onlyLoads d) (h' : d.onlyLoads e) : c.onlyLoads e := by
  obtain ⟨_, _, rfl⟩ := h
  obtain ⟨ls, rs, rfl⟩ := h'
  exact ⟨ls, rs, rfl⟩

theorem Chip.onlyLoads.calm {c d : Chip} (h : c.onlyLoads d) : d.calm = c.calm := by
  obtain ⟨_, _, rfl⟩ := h
  rfl

theorem Chip.boardLoad_eq_some {c : Chip} {b : Nat} {l : LoadObj} {k : BoardLoad} :
    c.boardLoad b = some (l, k) ↔ c.patternLoad = some l ∧ Tbl.find? l.boards b = some k := by
  unfold Chip.boardLoad
  cases c.patternLoad with
  | none => simp
  | some p =>
    simp only [Option.map_eq_some_iff, Prod.mk.injEq, Option.some.injEq]
    constructor
    · rintro ⟨_, hk, rfl, rfl⟩
      exact ⟨rfl, hk⟩
    · rintro ⟨rfl, hk⟩
      exact ⟨k, hk, rfl, rfl⟩

/-- The object of the pattern load is found under its number. -/
theorem Chip.loadOf_patternLoad {c : Chip} {l : LoadObj} (h : c.patternLoad = some l) : c.loadOf 1 l.object = some l := by
  unfold Chip.patternLoad at h
  unfold Chip.loadOf
  rw [List.find?_eq_some_iff_append] at h ⊢
  obtain ⟨hk, as, bs, hl, has⟩ := h
  refine ⟨by simpa using hk, as, bs, hl, fun a ha => ?_⟩
  have := has a ha
  simp_all

theorem showLoads_run (c : Chip) : ∃ rs, showLoads.run c = ((), { c with regs := rs }) := by
  simp only [showLoads, CM.get_bind, CM.run_seq, wrM_run]
  split <;> exact ⟨_, rfl⟩

theorem putLoad_run (l : LoadObj) (c : Chip) : ∃ rs, (putLoad l).run c =
    ((), { c with loads := amend (sameObj l) (fun _ => l) c.loads, regs := rs }) := by
  obtain ⟨rs, h⟩ := showLoads_run { c with loads := amend (sameObj l) (fun _ => l) c.loads }
  exact ⟨rs, h⟩

/-- Once an object is put back changed, it is found under its number. -/
theorem loadOf_putLoad {c : Chip} {kind obj : Nat} {l m : LoadObj} (h : c.loadOf kind obj = some l) (hk : m.kind = l.kind)
    (ho : m.object = l.object) : ((putLoad m).run c).2.loadOf kind obj = some m := by
  obtain ⟨rs, hrun⟩ := putLoad_run m c
  have hl := List.find?_some h
  rw [hrun]
  exact find?_amend (by simp [sameObj, hk, ho]) (by simpa [hk, ho] using hl) h

/-- Once the pattern load is put back with a board's share changed, the board shows the change. -/
theorem boardLoad_putLoad {c : Chip} {b : Nat} {l m : LoadObj} {k : BoardLoad} (h : c.patternLoad = some l) (hk : m.kind = l.kind)
    (ho : m.object = l.object) (hb : Tbl.find? m.boards b = some k) : ((putLoad m).run c).2.boardLoad b = some (m, k) := by
  obtain ⟨rs, hrun⟩ := putLoad_run m c
  have hl := List.find?_some h
  refine Chip.boardLoad_eq_some.2 ⟨?_, hb⟩
  rw [hrun]
  exact find?_amend (by simp [sameObj, hk, ho]) (by simpa [hk] using hl) h

/-- A board's share of the pattern load is `k`, and all that differs from `c` are the objects being loaded and register fields. -/
def Chip.loadedTo (c : Chip) (b : Nat) (k : BoardLoad) (d : Chip) : Prop := c.onlyLoads d ∧ ∃ m, d.boardLoad b = some (m, k)

theorem putLoad_loadedTo {c : Chip} {b : Nat} {l m : LoadObj} {k : BoardLoad} (h : c.patternLoad = some l) (hk : m.kind = l.kind)
    (ho : m.object = l.object) (hb : Tbl.find? m.boards b = some k) : c.loadedTo b k ((putLoad m).run c).2 := by
  refine ⟨?_, m, boardLoad_putLoad h hk ho hb⟩
  obtain ⟨rs, hrun⟩ := putLoad_run m c
  exact ⟨_, rs, congrArg Prod.snd hrun⟩

/-- A board's share of the pattern load is put back changed. -/
theorem putBoardLoad_run {c : Chip} {b : Nat} {l : LoadObj} {k : BoardLoad} (h : c.boardLoad b = some (l, k)) (k' : BoardLoad) :
    (putBoardLoad b k').run c = (putLoad { l with boards := Tbl.insert b k' l.boards }).run c := by
  simp only [putBoardLoad, CM.get_bind, (Chip.boardLoad_eq_some.1 h).1]

theorem putBoardLoad_boardLoad {c : Chip} {b : Nat} {l : LoadObj} {k : BoardLoad} (h : c.boardLoad b = some (l, k)) (k' : BoardLoad) :
    ((putBoardLoad b k').run c).2.boardLoad b = some ({ l with boards := Tbl.insert b k' l.boards }, k') := by
  rw [putBoardLoad_run h]
  exact boardLoad_putLoad (Chip.boardLoad_eq_some.1 h).1 rfl rfl (Tbl.find?_insert_same ..)

theorem putBoardLoad_loadedTo {c : Chip} {b : Nat} {l : LoadObj} {k : BoardLoad} (h : c.boardLoad b = some (l, k)) (k' : BoardLoad) :
    c.loadedTo b k' ((putBoardLoad b k').run c).2 := by
  rw [putBoardLoad_run h]
  exact putLoad_loadedTo (Chip.boardLoad_eq_some.1 h).1 rfl rfl (Tbl.find?_insert_same ..)

theorem Tbl.mem_of_find? {α : Type} {m : Map α} {x : Nat} {v : α} (h : Tbl.find? m x = some v) : (x, v) ∈ m := by
  induction m with
  | nil => simp at h
  | cons e t ih =>
    rw [Tbl.find?] at h
    split at h
    · next he =>
      obtain ⟨y, w⟩ := e
      obtain ⟨rfl, rfl⟩ : y = x ∧ w = v := ⟨he, by simpa using h⟩
      exact List.mem_cons_self ..
    · exact List.mem_cons_of_mem _ (ih h)

/-- While a board is not done, its pattern object advances without becoming READY, and the board's share stays as it is. -/
theorem advancePattern_loadedTo {c : Chip} {b : Nat} {l : LoadObj} {k : BoardLoad} (h : c.boardLoad b = some (l, k))
    (hk : k.done = false) : c.loadedTo b k ((advancePattern l.object).run c).2 := by
  obtain ⟨hl, hb⟩ := Chip.boardLoad_eq_some.1 h
  have notDone : l.allDone = false := by
    rw [LoadObj.allDone, List.all_eq_false]
    exact ⟨_, Tbl.mem_of_find? hb, by simp [hk]⟩
  simp only [advancePattern, CM.get_bind, Chip.loadOf_patternLoad hl, notDone, Bool.false_eq_true, if_false]
  split
  · obtain ⟨rs, hrun⟩ := showLoads_run c
    rw [hrun]
    exact ⟨⟨_, rs, rfl⟩, l, h⟩
  · exact putLoad_loadedTo hl rfl rfl hb

/-- A board that is not trued is not confirmed. -/
theorem confirmBoard_untrued {c : Chip} {b : Nat} {l : LoadObj} {k : BoardLoad} (h : c.boardLoad b = some (l, k))
    (hk : k.trued = false) : (confirmBoard b).run c = ((), c) := by
  simp only [confirmBoard, CM.get_bind, h, hk, Bool.and_false, Bool.false_and, Bool.false_eq_true, if_false, CM.run_pure]

/-- What a wear record's write changes: the record, and registers. -/
theorem setWear_run (b : Nat) (w : Wear) (c : Chip) : ∃ rs, (setWear b w).run c =
    ((), { c with wear := Tbl.put noWear c.wear b w, regs := rs }) := ⟨_, rfl⟩

/-! ## Programming -/

theorem Chip.board_onBoard (c : Chip) (b : Nat) (f : Board → Board) : (c.onBoard b f).board b = f (c.board b) :=
  Tbl.get_put_same ..

/-- The part with a board in PROGRAM, which it entered from the state `st`. -/
def Chip.inProgram (c : Chip) (b st : Nat) : Chip :=
  (c.onBoard b fun x => { x with before := st }).wr R.ARRAY_STATE_STATE (boardOff b) arrProgram

theorem Chip.inProgram_arrState (c : Chip) (b st : Nat) : (c.inProgram b st).arrState b = arrProgram := Chip.rd_wr_same ..

theorem Chip.inProgram_before (c : Chip) (b st : Nat) : ((c.inProgram b st).board b).before = st :=
  congrArg Board.before (Chip.board_onBoard c b fun x => { x with before := st })

theorem Chip.inProgram_deferCount (c : Chip) (b st : Nat) : (c.inProgram b st).rd R.SEQ_DEFER_COUNT = c.rd R.SEQ_DEFER_COUNT := by
  have hkey : regKey R.SEQ_DEFER_COUNT 0 ≠ regKey R.ARRAY_STATE_STATE (boardOff b) := by
    simp only [regKey, R.SEQ_DEFER_COUNT, R.ARRAY_STATE_STATE]
    omega
  exact Chip.rd_wr_other hkey _ _

/-- The part that has counted a start of a window, where it was deferred. -/
def Chip.startCounted (c : Chip) (deferred : Bool) : Chip := if deferred then c.bump R.SEQ_DEFER_COUNT 0 1 else c

theorem Chip.startCounted_deferCount (c : Chip) (deferred : Bool) : (c.startCounted deferred).rd R.SEQ_DEFER_COUNT =
    if deferred then min (c.rd R.SEQ_DEFER_COUNT + 1) (2 ^ 32 - 1) else c.rd R.SEQ_DEFER_COUNT := by
  cases deferred with
  | false => rfl
  | true => exact (Chip.rd_wr_same ..).trans (Nat.mod_eq_of_lt (Nat.lt_of_le_of_lt (Nat.min_le_right ..) (by decide)))

theorem Chip.startCounted_calm (c : Chip) (deferred : Bool) : (c.startCounted deferred).calm = c.calm := by
  cases deferred <;> rfl

/-- A PROGRAM window that may start: the board leaves its state for PROGRAM, and a deferred start is counted. -/
theorem doProgramWindowStart_run {c : Chip} {b : Nat} {l : LoadObj} {k : BoardLoad} {deferred : Bool} (h : c.boardLoad b = some (l, k))
    (hmode : l.mode ≠ 2) (hrows : k.next < k.rows) (hst : c.arrState b ∈ [arrEmpty, arrReady, arrHeld])
    (hprog : c.programming (b / 6144) < 1536)
    (hwin : c.jobRuns = false ∨ (c.stepping = true ∧ (c.windowNow b 1).isSome = true)) :
    (doProgramWindowStart b deferred).run c = ((), (c.startCounted deferred).inProgram b (c.arrState b)) := by
  have hstep : (!c.stepping || (c.windowNow b 1).isSome) = true ∧ (!c.jobRuns || c.stepping) = true := by
    rcases hwin with hidle | ⟨hs, hw⟩
    · have hseq : ¬2 ≤ c.rd R.SEQ_STATE_STATE := of_decide_eq_false hidle
      have : c.stepping = false := decide_eq_false (by unfold seqRunning seqStopping; omega)
      simp [hidle, this]
    · simp [hs, hw]
  have hst' : c.arrState b = arrEmpty ∨ c.arrState b = arrReady ∨ c.arrState b = arrHeld := by simpa using hst
  simp only [doProgramWindowStart, CM.get_bind, h, hstep, hst', hprog, hrows, hmode, ne_eq, not_false_eq_true, decide_true,
    Bool.and_self, if_true, CM.run_seq, CM.run_modify, whenM_run, setBoardState]
  cases deferred <;> rfl

theorem doProgramWindowStart_none {c : Chip} {b : Nat} (h : c.boardLoad b = none) (deferred : Bool) :
    (doProgramWindowStart b deferred).run c = ((), c) := by
  simp only [doProgramWindowStart, CM.get_bind, h, CM.run_pure]

theorem doProgramWindowEnd_program {c : Chip} {b : Nat} (h : c.arrState b = arrProgram) : (doProgramWindowEnd b).run c =
    (setBoardState b (if c.copyValid b && (c.board b).trued then arrReady else arrEmpty)).run c := by
  rw [doProgramWindowEnd, CM.get_bind, if_pos h]

theorem doProgramWindowEnd_other {c : Chip} {b : Nat} (h : c.arrState b ≠ arrProgram) : (doProgramWindowEnd b).run c = ((), c) := by
  rw [doProgramWindowEnd, CM.get_bind, if_neg h, CM.run_pure]

/-- With the power-fail warning no row starts (R480). -/
theorem doProgramRowBudgeted_pfail {c : Chip} (h : c.flag R.PWR_STATUS_PFAIL = true) (b : Nat) :
    (doProgramRowBudgeted b).run c = ((), c) := by
  simp only [doProgramRowBudgeted, rowBudget, CM.run_bind, CM.run_get, h, if_true, CM.run_pure, whenM_run, Bool.false_eq_true,
    if_false]

/-- A row that the power budget stops is counted as deferred (R475). -/
theorem doProgramRowBudgeted_deferred {c : Chip} (h : c.flag R.PWR_STATUS_PFAIL = false)
    (hp : c.rd R.PWR_CAP_CAP_W * watt < c.power + 60 * 2 ^ 40) (b : Nat) :
    (doProgramRowBudgeted b).run c = ((), c.bump R.PWR_D_PROG_DEFER_COUNT (dieWin (b / 6144)) 1) := by
  have above : ¬(c.power + 60 * 2 ^ 40 ≤ c.rd R.PWR_CAP_CAP_W * watt ∧ c.progBoards (b / 6144) < 1536) :=
    fun h => Nat.not_lt.2 h.1 hp
  simp only [doProgramRowBudgeted, rowBudget, CM.run_bind, CM.run_get, h, above, Bool.false_eq_true, if_false, bumpM_run, CM.run_pure,
    whenM_run]

/-- Within the power budget the row starts, if its board lets it (R475). -/
theorem doProgramRowBudgeted_within {c : Chip} {b : Nat} (h : c.flag R.PWR_STATUS_PFAIL = false)
    (hp : c.power + 60 * 2 ^ 40 ≤ c.rd R.PWR_CAP_CAP_W * watt) (hb : c.progBoards (b / 6144) < 1536) :
    (doProgramRowBudgeted b).run c = (doProgramRow b).run c := by
  simp only [doProgramRowBudgeted, rowBudget, CM.run_bind, CM.run_get, h, hp, hb, and_self, Bool.false_eq_true, if_false, if_true,
    CM.run_pure, whenM_run]

/-- A board's wear record once the first row of a load has counted: the copy it writes no longer counts as written (R363). -/
def Chip.wearCounted (c : Chip) (b : Nat) (up : Bool) : Wear :=
  if up then { c.wearOf b with count := (c.wearOf b).count + 1, validU := false, genU := 0 }
  else { c.wearOf b with count := (c.wearOf b).count + 1, validL := false, genL := 0 }

theorem Chip.wearCounted_count (c : Chip) (b : Nat) (up : Bool) : (c.wearCounted b up).count = (c.wearOf b).count + 1 := by
  cases up <;> rfl

section
variable {c : Chip} {b : Nat} {l : LoadObj} {k : BoardLoad} (h : c.boardLoad b = some (l, k)) (hst : c.arrState b = arrProgram)
  (hbusy : k.busy = false) (hrows : k.next < k.rows) (hwin : 38 ≤ c.windowLeft b)
include h hst hbusy hrows hwin

/-- A further row of the load starts. -/
theorem doProgramRow_counted (hk : k.counted = true) : c.loadedTo b { k with busy := true } ((doProgramRow b).run c).2 := by
  simp only [doProgramRow, CM.get_bind, h, hst, hbusy, hrows, hwin, hk, Bool.not_false, decide_true, Bool.and_self, if_true]
  exact putBoardLoad_loadedTo h _

/-- The first row of the load starts, and the board's wear is counted. -/
theorem doProgramRow_first (hk : k.counted = false) (hw : (c.wearOf b).count < 15999) :
    Chip.loadedTo { c with wear := Tbl.put noWear c.wear b (c.wearCounted b k.up) } b { k with busy := true, counted := true }
      ((doProgramRow b).run c).2 := by
  have hdef : (if k.up then { c.wearOf b with count := (c.wearOf b).count + 1, validU := false, genU := 0 }
    else { c.wearOf b with count := (c.wearOf b).count + 1, validL := false, genL := 0 } : Wear) = c.wearCounted b k.up := rfl
  have hcount : (c.wearCounted b k.up).count ≠ 16000 := by
    rw [Chip.wearCounted_count]
    omega
  have notWorn : ¬20000 ≤ (c.wearOf b).count := by omega
  obtain ⟨rs, hwear⟩ := setWear_run b (c.wearCounted b k.up) c
  simp only [doProgramRow, CM.get_bind, h, hst, hbusy, hrows, hwin, hk, Bool.not_false, decide_true, Bool.and_self, if_true,
    Bool.false_eq_true, if_false, notWorn, hdef, CM.run_seq, hwear, hcount, decide_false, whenM_false, CM.run_pure]
  obtain ⟨⟨ls, rs', hd⟩, hm⟩ := putBoardLoad_loadedTo
    (c := { c with wear := Tbl.put noWear c.wear b (c.wearCounted b k.up), regs := rs }) h { k with busy := true, counted := true }
  exact ⟨⟨ls, rs', hd⟩, hm⟩

end

/-- Values beside the keys they come from: none differs from its key's. -/
theorem filterMap_zip_map_self (f : Nat → Nat) (row : Nat) (l : List Nat) :
    ((l.zip (l.map f)).filterMap fun e => if e.2 = f e.1 then none else some (row, e.1, e.2)) = [] := by
  induction l with
  | nil => rfl
  | cons a t ih => simpa using ih

/-- The part whose cells hold the intended codes in a row of a board. -/
def Chip.rowWritten (c : Chip) (b row : Nat) : Chip :=
  { c with cells := Tbl.put [] c.cells b (replaceRange (Tbl.get [] c.cells b) (row * 512) ((upFrom 0 512).map (c.wantCodes b row))) }

theorem Chip.rowWritten_pairCodes (c : Chip) (b row : Nat) {col : Nat} (hcol : col < 512) :
    (c.rowWritten b row).pairCodes b row col = c.wantCodes b row col := by
  have hlen : col < ((upFrom 0 512).map (c.wantCodes b row)).length := by simpa [upFrom_eq_range'] using hcol
  rw [Chip.pairCodes, Chip.rowWritten, Tbl.get_put_same, get_replaceRange _ _ hlen]
  simp [upFrom_eq_range']

/-- A board's share of a load once the row in progress has completed. -/
def BoardLoad.rowDone (k : BoardLoad) : BoardLoad := { k with busy := false, next := nextRow k.rows k.skip (k.next + 1) }

/-- A row in progress on a board of a load completes with no pair left otherwise: its cells are written, its share goes on, and
the board and the load advance. -/
theorem doRowComplete_run {c : Chip} {b row : Nat} {l : LoadObj} {k : BoardLoad} (h : c.boardLoad b = some (l, k))
    (hrow : (if k.up then 512 else 0) + k.next = row) (hbusy : k.busy = true) : (doRowComplete b []).run c =
      (advancePattern l.object).run ((confirmBoard b).run ((putBoardLoad b k.rowDone).run (c.rowWritten b row)).2).2 := by
  rw [doRowComplete, CM.get_bind, h]
  dsimp only
  rw [if_pos hbusy, CM.run_seq, CM.run_modify, CM.run_seq, CM.run_seq, CM.run_seq, hrow]
  simp only [List.find?_nil]
  rw [filterMap_zip_map_self (c.wantCodes b row), findStuck, forM_nil, CM.run_pure]
  rfl

/-- What a completed row leaves: its board holds the intended codes, and goes on to the next row to be pulsed. -/
theorem doRowComplete_loadedTo {c : Chip} {b row : Nat} {l : LoadObj} {k : BoardLoad} (h : c.boardLoad b = some (l, k))
    (hrow : (if k.up then 512 else 0) + k.next = row) (hbusy : k.busy = true) (htrued : k.trued = false) (hdone : k.done = false) :
    (c.rowWritten b row).loadedTo b k.rowDone ((doRowComplete b []).run c).2 := by
  obtain ⟨hput, -⟩ := putBoardLoad_loadedTo (c := c.rowWritten b row) h k.rowDone
  have hload := putBoardLoad_boardLoad (c := c.rowWritten b row) h k.rowDone
  rw [doRowComplete_run h hrow hbusy, confirmBoard_untrued hload htrued]
  obtain ⟨honly, hm⟩ := advancePattern_loadedTo hload hdone
  exact ⟨hput.trans honly, hm⟩

/-! ## Insoles -/

/-- The part `d` differs from `c` in the tiles' own memories alone. -/
def Chip.onlyTiles (c d : Chip) : Prop := ∃ ts, d = { c with tiles := ts }

theorem onTileM_onlyTiles {c : Chip} {t : Nat} {f : Tile → Tile} : Keeps c.onlyTiles (onTileM t f) := by
  rintro _ ⟨ts, rfl⟩
  exact ⟨_, rfl⟩

/-- Writing an insole into its slots changes the tile's memory of them alone. -/
theorem writeInsole_onlyTiles (t : Nat) (d : Desc) (r : InsoleRec) (c : Chip) : c.onlyTiles ((writeInsole t d r).run c).2 := by
  have keeps : Keeps c.onlyTiles (writeInsole t d r) := by
    unfold writeInsole
    exact Keeps.bind Keeps.get fun _ =>
      Keeps.bind (Keeps.forM (fun _ => onTileM_onlyTiles) _) fun _ => Keeps.forM (fun _ => onTileM_onlyTiles) _
  exact keeps c ⟨c.tiles, rfl⟩

theorem descOf_descWord_state {d : Desc} (h : d.state < 4) : (descOf (descWord d % 2 ^ 64)).state = d.state := by
  have hfmt : (if d.fmt = .fp4 then 2 ^ 61 else 0 : Nat) ≤ 2 ^ 61 := by split <;> decide
  simp only [descOf, descWord, bits]
  generalize (if d.fmt = .fp4 then 2 ^ 61 else 0 : Nat) = fmt at hfmt ⊢
  omega

/-- Without an object that it belongs to, an insole that is written makes no object advance. -/
theorem advanceInsole_none {c : Chip} {obj : Nat} (h : c.loadOf 3 obj = none) : (advanceInsole obj).run c = ((), c) := by
  rw [advanceInsole, CM.get_bind, h]
  rfl

/-- An insole of no object that is being loaded is written: its descriptor's word says STANDBY, and it is no longer awaited. -/
theorem doInsoleSlotsWritten_run {c : Chip} {t n : Nat} {j : InsoleJob}
    (h : c.insoleJobs.find? (fun j => decide (j.tile = t ∧ j.desc = n)) = some j) (hload : c.loadOf 3 j.object = none) :
    ∃ ts w, (descOf (w % 2 ^ 64)).state = 2 ∧ (doInsoleSlotsWritten t n).run c =
      ((), { ({ c with tiles := ts } : Chip).wr R.INSOLE_DESC_DESC (tileOff t + 8 * n) w with
        insoleJobs := c.insoleJobs.filter fun k => !decide (k = j) }) := by
  obtain ⟨ts, htiles⟩ := writeInsole_onlyTiles t (c.desc t n) j.rec_ c
  obtain ⟨w, hw⟩ : ∃ w, descWord { ({ c with tiles := ts } : Chip).desc t n with state := 2 } = w := ⟨_, rfl⟩
  have hstate : (descOf (w % 2 ^ 64)).state = 2 := by
    rw [← hw]
    exact descOf_descWord_state (show 2 < 4 by decide)
  refine ⟨ts, w, hstate, ?_⟩
  rw [doInsoleSlotsWritten, CM.get_bind, h]
  dsimp only
  rw [CM.run_seq, htiles, CM.run_seq, CM.run_modify, Chip.setDesc, hw]
  exact advanceInsole_none hload

/-! ## READY and FAIL at the head -/

theorem Chip.received_sent (c : Chip) (h : Hdr) : Chip.received { c with sent := [] } h = { c.received h with sent := [] } := by
  unfold Chip.received
  cases h.corrected <;> rfl

theorem Chip.received_calm (c : Chip) (h : Hdr) : (c.received h).calm = c.calm := by
  unfold Chip.received
  cases h.corrected <;> rfl

/-- A flit that is taken, and tells the head of a package's object, leaves the head's set changed. -/
theorem readyFlit_becomes {s : State} {h : Hdr} {b : FlitBody} {kind node obj : Nat} {ok : Bool} (hr : s.chip.runs = true)
    (hc : s.chip.calm = true) (ht : s.chip.takesFlit h b = true) :
    let r := s.chip.received h
    ∃ d, act .normal (do let mine ← receiveFlit h b; whenM mine (headReady kind node obj ok)) s = .next { s with chip := d } ∧
      d.quiet = (if r.isHead then r.withReady kind node obj ok else r).quiet := by
  intro r
  have hrun : ((do let mine ← receiveFlit h b; whenM mine (headReady kind node obj ok) : CM Unit).run { s.chip with sent := [] }).2 =
      (if r.isHead then ({ r with sent := [] } : Chip).withReady kind node obj ok else { r with sent := [] }) := by
    rw [CM.run_bind, receiveFlit_takes (c := { s.chip with sent := [] }) ht, whenM_true, Chip.received_sent]
    rfl
  refine act_becomes hr ?_ ?_ <;> rw [hrun]
  · rw [← hc, ← Chip.received_calm s.chip h]
    split <;> rfl
  · split <;> rfl

/-! ## Timeouts and their reports -/

theorem loadEvent_run (event kind code object index detail : Nat) (c : Chip) : ∃ rs rec,
    (loadEvent event kind code object index detail).run c =
      ((), { c with reports := c.reports ++ [⟨event, kind, code, object, index, detail⟩], regs := rs, recorders := rec }) := by
  simp only [loadEvent, report, takeRecord, takeRecordSev, CM.get_bind, CM.run_seq, CM.run_modify]
  split
  · exact ⟨_, _, rfl⟩
  · split
    · exact ⟨_, _, rfl⟩
    · exact ⟨_, _, rfl⟩

/-- Where nothing but reports waits, the reactions are the sending of load reports (R425). -/
theorem reactions_reports {c : Chip} (hn : c.notices = []) (hs : c.stationOut = []) (ha : c.ackOut = []) :
    (do headReacts; drainStations; loadReports : CM Unit).run c = loadReports.run c := by
  have headIdle : headReacts.run c = ((), c) := by
    have : c.runNotices = [] := by simp [Chip.runNotices, hn]
    rw [headReacts, CM.get_bind, this]
    simp only [List.isEmpty_nil, Bool.or_true, Bool.true_or, if_true, CM.run_pure]
  have stationsIdle : drainStations.run c = ((), c) := by
    rw [drainStations, CM.get_bind, hs, ha, forM_nil, forM_nil, CM.run_seq, CM.run_modify, CM.run_seq, CM.run_pure, CM.run_pure,
      ← hs, ← ha]
  simp only [CM.run_seq, headIdle, stationsIdle]

/-- What a message on a front port's wire changes. -/
theorem sendTnp_run (p : Peer) (m : Tnp) (c : Chip) : ∃ rs pn out,
    (sendTnp p m).run c = ((), { c with regs := rs, txPn := pn, sent := out }) := by
  simp only [sendTnp, countFrames, CM.get_bind, CM.run_ite, CM.run_seq, CM.run_modify, bumpM_run, whenM_run, wrM_run, CM.run_pure]
  split
  · split
    · split <;> split <;> exact ⟨_, _, _, rfl⟩
    · exact ⟨_, _, _, rfl⟩
  · exact ⟨_, _, _, rfl⟩

/-- The next message of the control stream. -/
def Chip.controlTnp (c : Chip) (tenant request : Nat) (b : TnpBody) : Tnp :=
  ⟨ctrlSession, tenant, c.serving.control.txNext, (c.serving.control.rxNext + 2 ^ 32 - 1) % 2 ^ 32, request, b⟩

/-- A stream once a message of its own waits to be acknowledged. -/
def Stream.sending (x : Stream) (m : Tnp) : Stream :=
  { x with txNext := (x.txNext + 1) % 2 ^ 32, unacked := x.unacked ++ [(m, 0)], ackDue := false }

theorem Stream.sending_getLast (x : Stream) (m : Tnp) : (x.sending m).unacked.getLast? = some (m, 0) := List.getLast?_concat ..

/-- A message to the peer of the control stream waits to be acknowledged. -/
theorem sendStream_control {c : Chip} {p : Peer} (hp : c.serving.orch = some p) (tenant request : Nat) (b : TnpBody) :
    ∃ rs pn out, (sendStream ctrlSession tenant request b).run c =
      ((), { c with serving := { c.serving with control := c.serving.control.sending (c.controlTnp tenant request b) },
                    regs := rs, txPn := pn, sent := out }) := by
  have hstream : c.stream ctrlSession = some (p, c.serving.control) := by simp [Chip.stream, hp]
  rw [sendStream, CM.get_bind, hstream]
  exact sendTnp_run p (c.controlTnp tenant request b)
    ((setStream ctrlSession (c.serving.control.sending (c.controlTnp tenant request b))).run c).2

theorem doLoadTimeout_none {c : Chip} {kind obj : Nat} (h : c.loadOf kind obj = none) : (doLoadTimeout kind obj).run c = ((), c) := by
  rw [doLoadTimeout, CM.get_bind, h, CM.run_pure]

/-- An object that lacks a shard becomes INCOMPLETE, and an event of the load waits to be reported (R350). -/
theorem doLoadTimeout_missing {c : Chip} {kind obj k : Nat} {l : LoadObj} (h : c.loadOf kind obj = some l) (hk : l.missing = some k) :
    let d := ((doLoadTimeout kind obj).run c).2
    d.loadOf kind obj = some { l with state := 5 } ∧ d.reports = c.reports ++ [⟨2, kind, 0, obj, k, 0⟩] ∧
      d.serving = c.serving ∧ d.notices = c.notices ∧ d.stationOut = c.stationOut ∧ d.ackOut = c.ackOut := by
  have hput : ((putLoad { l with state := 5 }).run c).2.loadOf kind obj = some { l with state := 5 } := loadOf_putLoad h rfl rfl
  have hrun : (doLoadTimeout kind obj).run c =
      (loadEvent 2 kind 0 obj k 0).run ((putLoad { l with state := 5 }).run c).2 := by
    rw [doLoadTimeout, CM.get_bind, h]
    dsimp only
    rw [hk]
    rfl
  obtain ⟨rs, rec, hevent⟩ := loadEvent_run 2 kind 0 obj k 0 ((putLoad { l with state := 5 }).run c).2
  obtain ⟨rs', hloads⟩ := putLoad_run { l with state := 5 } c
  rw [hrun, hevent]
  rw [hloads] at hput ⊢
  exact ⟨hput, rfl, rfl, rfl, rfl, rfl⟩

theorem Chip.calm_queues {c : Chip} (h : c.calm = true) : c.notices = [] ∧ c.stationOut = [] ∧ c.ackOut = [] := by
  simp only [Chip.calm, Bool.and_eq_true, List.isEmpty_iff] at h
  obtain ⟨⟨⟨hn, -⟩, hs⟩, ha⟩ := h
  exact ⟨hn, hs, ha⟩

/-- A command whose effect leaves at most reports for the reactions completes with what reporting makes of the part. -/
theorem act_reports {m : CM Unit} {s : State} {d : Chip} {post : Chip → Prop} (hr : s.chip.runs = true)
    (hd : (m.run { s.chip with sent := [] }).2 = d) (hn : d.notices = []) (hs : d.stationOut = []) (ha : d.ackOut = [])
    (hp : ∀ g out, post { (loadReports.run d).2 with mgmt := g, sent := out }) :
    ∃ e, act .normal m s = .next { s with chip := e } ∧ post e :=
  take_completes hr fun was => by
    obtain ⟨out, h⟩ := settleAlert_run was (loadReports.run d).2
    rw [CM.run_seq, hd, reactions_reports hn hs ha, h]
    exact hp _ _

/-- Without a peer of the control stream, reports wait (R500, log 43). -/
theorem loadReports_noPeer {c : Chip} (h : c.serving.orch = none) : loadReports.run c = ((), c) := by
  rw [loadReports, CM.get_bind, whenM_run, flushReports, CM.get_bind, h]
  split <;> rfl

/-- A load event that waits alone goes to the peer of the control stream (R425). -/
theorem loadReports_one {c : Chip} {r : Report} (hrep : c.reports = [r]) (hev : r.event ≤ 8) (ho : c.serving.orch.isSome = true) :
    ∃ rs pn out, (loadReports.run c).2 =
      { c with serving := { c.serving with control := c.serving.control.sending (c.controlTnp 0 0 (.report [r])) },
               reports := [], regs := rs, txPn := pn, sent := out } := by
  obtain ⟨p, hp⟩ := Option.isSome_iff_exists.1 ho
  have hflush : loadReports.run c = (sendReports 2).run c := by
    rw [loadReports, CM.get_bind, whenM_run, flushReports, hrep, if_pos (by simpa using hev), CM.get_bind, ho, hrep]
    rfl
  obtain ⟨rs, pn, out, hs⟩ := sendStream_control (c := { c with reports := [] }) hp 0 0 (.report [r])
  refine ⟨rs, pn, out, ?_⟩
  have hsend : (sendReports 2).run c = (sendReports 1).run ((sendStream ctrlSession 0 0 (.report [r])).run { c with reports := [] }).2 := by
    rw [sendReports, CM.get_bind, hrep, if_neg (by simp), CM.run_seq, CM.run_modify, hrep]
    rfl
  rw [hflush, hsend, hs, sendReports, CM.get_bind]
  rfl

/-! ## Completion -/

/-- A command whose effect leaves nothing for the reactions completes with the part that its effect makes, but for ALERT_N and
what was sent. -/
theorem act_effect {m : CM Unit} {s : State} {d : Chip} {post : Chip → Prop} (hr : s.chip.runs = true)
    (hd : (m.run { s.chip with sent := [] }).2 = d) (hc : d.calm = true)
    (hp : ∀ g out, post { d with mgmt := g, sent := out }) :
    ∃ e, act .normal m s = .next { s with chip := e } ∧ post e :=
  act_completes hr (by rw [hd, hc]) fun was => by
    obtain ⟨out, h⟩ := settleAlert_run was d
    rw [hd, h]
    exact hp _ _

/-- A command completes with a board's share of the pattern load changed, where that is its effect. -/
theorem act_loadedTo {m : CM Unit} {s : State} {c : Chip} {b : Nat} {k : BoardLoad} (hr : s.chip.runs = true) (hcalm : c.calm = true)
    (h : c.loadedTo b k (m.run { s.chip with sent := [] }).2) : ∃ d, act .normal m s = .next { s with chip := d } ∧
      (∃ l, d.boardLoad b = some (l, k)) ∧ d.wear = c.wear ∧ d.cells = c.cells := by
  obtain ⟨honly, l, hl⟩ := h
  refine act_effect hr rfl (honly.calm.trans hcalm) fun _ _ => ⟨⟨l, hl⟩, ?_⟩
  obtain ⟨ls, rs, hd⟩ := honly
  rw [hd]
  exact ⟨rfl, rfl⟩

/-! ## The statement's clauses, each by what its command does -/

section
variable {s : State} (hr : s.chip.runs = true) (hc : s.chip.calm = true)
include hr hc

/-- A command whose effect leaves the part as it is changes nothing. -/
theorem act_idle {m : CM Unit} (h : m.run { s.chip with sent := [] } = ((), { s.chip with sent := [] })) :
    ∃ d, act .normal m s = .next { s with chip := d } ∧ d.quiet = s.chip.quiet :=
  act_becomes hr (by rw [h]; exact hc) (by rw [h]; rfl)

theorem programWindowStart_completes {b : Nat} {deferred : Bool} {l : LoadObj} {k : BoardLoad}
    (h : s.chip.boardLoad b = some (l, k))
    (hmode : l.mode ≠ 2) (hrows : k.next < k.rows) (hst : s.chip.arrState b ∈ [arrEmpty, arrReady, arrHeld])
    (hprog : s.chip.programming (b / 6144) < 1536)
    (hwin : s.chip.jobRuns = false ∨ (s.chip.stepping = true ∧ (s.chip.windowNow b 1).isSome = true)) :
    Completes (.programWindowStart b deferred) s fun d => d.arrState b = arrProgram ∧ (d.board b).before = s.chip.arrState b ∧
      d.rd R.SEQ_DEFER_COUNT = if deferred then min (s.chip.rd R.SEQ_DEFER_COUNT + 1) (2 ^ 32 - 1) else s.chip.rd R.SEQ_DEFER_COUNT := by
  have hrun := doProgramWindowStart_run (c := { s.chip with sent := [] }) (deferred := deferred) h hmode hrows hst hprog hwin
  have hcalm := (Chip.startCounted_calm { s.chip with sent := [] } deferred).trans hc
  have hcount := Chip.startCounted_deferCount { s.chip with sent := [] } deferred
  generalize Chip.startCounted { s.chip with sent := [] } deferred = c at hrun hcalm hcount
  exact act_effect hr (congrArg Prod.snd hrun) hcalm fun _ _ =>
    ⟨Chip.inProgram_arrState c b _, Chip.inProgram_before c b _, (Chip.inProgram_deferCount c b _).trans hcount⟩

theorem programWindowEnd_completes {b : Nat} (h : s.chip.arrState b = arrProgram) : Completes (.programWindowEnd b) s fun d =>
    d.arrState b = if s.chip.copyValid b && (s.chip.board b).trued then arrReady else arrEmpty := by
  obtain ⟨st, hst⟩ : ∃ st, (if s.chip.copyValid b && (s.chip.board b).trued then arrReady else arrEmpty) = st := ⟨_, rfl⟩
  have hlt : st < 8 := by
    rw [← hst]
    split <;> decide
  rw [hst]
  have hrun := doProgramWindowEnd_program (c := { s.chip with sent := [] }) h
  obtain ⟨rs, hset⟩ := setBoardState_run b st { s.chip with sent := [] }
  have hstate := setBoardState_arrState hlt b { s.chip with sent := [] }
  rw [hset] at hstate
  refine act_effect hr (congrArg Prod.snd (hrun.trans (.trans ?_ hset))) hc fun _ _ => hstate
  rw [← hst]
  rfl

theorem rowComplete_completes {b : Nat} {l : LoadObj} {k : BoardLoad} (h : s.chip.boardLoad b = some (l, k))
    (hbusy : k.busy = true) (htrued : k.trued = false) (hdone : k.done = false) : Completes (.rowComplete b []) s fun d =>
      let row := (if k.up then 512 else 0) + k.next
      (∃ m, d.boardLoad b = some (m, { k with busy := false, next := nextRow k.rows k.skip (k.next + 1) })) ∧
      ∀ col, col < 512 → d.pairCodes b row col = s.chip.wantCodes b row col := by
  obtain ⟨row, hrow⟩ : ∃ row, (if k.up then 512 else 0) + k.next = row := ⟨_, rfl⟩
  have hcalm : (Chip.rowWritten { s.chip with sent := [] } b row).calm = true := hc
  obtain ⟨d, hd, hload, -, hcells⟩ := act_loadedTo hr hcalm (doRowComplete_loadedTo h hrow hbusy htrued hdone)
  refine ⟨d, hd, hload, fun col hcol => ?_⟩
  rw [hrow, Chip.pairCodes, hcells]
  exact Chip.rowWritten_pairCodes s.chip b row hcol

theorem insoleSlotsWritten_completes {t n : Nat} {j : InsoleJob}
    (h : s.chip.insoleJobs.find? (fun j => decide (j.tile = t ∧ j.desc = n)) = some j) (hload : s.chip.loadOf 3 j.object = none) :
    Completes (.insoleSlotsWritten t n) s fun d => (d.desc t n).state = 2 ∧
      d.insoleJobs = s.chip.insoleJobs.filter fun k => !decide (k = j) := by
  obtain ⟨ts, w, hstate, hrun⟩ := doInsoleSlotsWritten_run (c := { s.chip with sent := [] }) h hload
  refine act_effect hr (congrArg Prod.snd hrun) hc fun _ _ => ⟨?_, rfl⟩
  rw [← hstate]
  exact congrArg (fun v => (descOf v).state) (Chip.rd_wr_same ..)

theorem programRow_pfail {b : Nat} (h : s.chip.flag R.PWR_STATUS_PFAIL = true) : Becomes (.programRow b) s s.chip :=
  act_idle hr hc (doProgramRowBudgeted_pfail (c := { s.chip with sent := [] }) h b)

theorem programRow_deferred {b : Nat} (h : s.chip.flag R.PWR_STATUS_PFAIL = false)
    (hp : s.chip.rd R.PWR_CAP_CAP_W * watt < s.chip.power + 60 * 2 ^ 40) :
    Becomes (.programRow b) s (s.chip.bump R.PWR_D_PROG_DEFER_COUNT (dieWin (b / 6144)) 1) := by
  have hrun := doProgramRowBudgeted_deferred (c := { s.chip with sent := [] }) h hp b
  exact act_becomes hr (by rw [hrun]; exact hc) (by rw [hrun]; rfl)

/-- A row within the power budget starts: the board's wear is counted with the load's first row, and only then. -/
theorem programRow_starts {b : Nat} {l : LoadObj} {k : BoardLoad} (h : s.chip.boardLoad b = some (l, k))
    (hst : s.chip.arrState b = arrProgram) (hbusy : k.busy = false) (hrows : k.next < k.rows) (hwin : 38 ≤ s.chip.windowLeft b)
    (hpfail : s.chip.flag R.PWR_STATUS_PFAIL = false) (hboards : s.chip.progBoards (b / 6144) < 1536)
    (hp : s.chip.power + 60 * 2 ^ 40 ≤ s.chip.rd R.PWR_CAP_CAP_W * watt) :
    (k.counted = true → Completes (.programRow b) s fun d => ∃ m, d.boardLoad b = some (m, { k with busy := true }) ∧
      d.wear = s.chip.wear) ∧
    (k.counted = false → (s.chip.wearOf b).count < 15999 → Completes (.programRow b) s fun d =>
      (∃ m, d.boardLoad b = some (m, { k with busy := true, counted := true })) ∧ d.wearOf b = s.chip.wearCounted b k.up) := by
  have hrun := doProgramRowBudgeted_within (c := { s.chip with sent := [] }) hpfail hp hboards
  constructor
  · intro hk
    have hrow := doProgramRow_counted (c := { s.chip with sent := [] }) h hst hbusy hrows hwin hk
    rw [← hrun] at hrow
    obtain ⟨d, hd, ⟨m, hload⟩, hwear, -⟩ := act_loadedTo (c := { s.chip with sent := [] }) hr hc hrow
    exact ⟨d, hd, m, hload, hwear⟩
  · intro hk hw
    have hrow := doProgramRow_first (c := { s.chip with sent := [] }) h hst hbusy hrows hwin hk hw
    rw [← hrun] at hrow
    obtain ⟨d, hd, hload, hwear, -⟩ := act_loadedTo
      (c := { s.chip with sent := [], wear := Tbl.put noWear s.chip.wear b (s.chip.wearCounted b k.up) }) hr hc hrow
    refine ⟨d, hd, hload, ?_⟩
    rw [Chip.wearOf, hwear]
    exact Tbl.get_put_same ..

theorem loadTimeout_completes {kind obj k : Nat} {l : LoadObj} (h : s.chip.loadOf kind obj = some l) (hk : l.missing = some k)
    (hrep : s.chip.reports = []) : Completes (.loadTimeout kind obj) s fun d =>
      d.loadOf kind obj = some { l with state := 5 } ∧
      let r : Report := ⟨2, kind, 0, obj, k, 0⟩
      (s.chip.serving.orch = none → d.reports = [r]) ∧ (s.chip.serving.orch.isSome = true → d.said ctrlSession 0 (.report [r])) := by
  obtain ⟨hn, hs, ha⟩ := Chip.calm_queues hc
  obtain ⟨hload, hreps, hserv, hn', hs', ha'⟩ := doLoadTimeout_missing (c := { s.chip with sent := [] }) h hk
  generalize hd : ((doLoadTimeout kind obj).run { s.chip with sent := [] }).2 = d at hload hreps hserv hn' hs' ha'
  have hone : d.reports = [⟨2, kind, 0, obj, k, 0⟩] := hreps.trans (congrArg (· ++ _) hrep)
  have horch : d.serving.orch = s.chip.serving.orch := congrArg Serving.orch hserv
  refine act_reports hr hd (hn'.trans hn) (hs'.trans hs) (ha'.trans ha) fun g out => ?_
  rw [← horch]
  cases ho : d.serving.orch with
  | none =>
    rw [loadReports_noPeer ho]
    exact ⟨hload, fun _ => hone, fun h => nomatch h⟩
  | some p =>
    obtain ⟨rs, pn, out', hsent⟩ := loadReports_one hone (show 2 ≤ 8 by decide) (Option.isSome_of_eq_some ho)
    rw [hsent]
    have hlast := d.serving.control.sending_getLast (d.controlTnp 0 0 (.report [⟨2, kind, 0, obj, k, 0⟩]))
    exact ⟨hload, fun h => (nomatch h), fun _ => ⟨p, _, _, congrArg (Option.map _) ho, hlast, rfl, rfl⟩⟩

end

/-- Settles O48, each clause by what its command does. -/
theorem boardsAreProgrammedRowByRow : Obligations.BoardsAreProgrammedRowByRow := by
  unfold Obligations.BoardsAreProgrammedRowByRow
  rintro s b hr hc -
  refine ⟨?noLoad, ?windowStart, programWindowEnd_completes hr hc, ?otherState, ?programRow, ?rowComplete, ?insole, ?ready, ?timeout⟩
  case noLoad => exact fun deferred h => act_idle hr hc (doProgramWindowStart_none (c := { s.chip with sent := [] }) h deferred)
  case windowStart => exact fun _ _ _ h => programWindowStart_completes hr hc h
  case otherState => exact fun h => act_idle hr hc (doProgramWindowEnd_other (c := { s.chip with sent := [] }) h)
  case programRow =>
    exact fun l k h hst hbusy hrows hwin => ⟨programRow_pfail hr hc, fun hpfail hboards => ⟨programRow_deferred hr hc hpfail,
      programRow_starts hr hc h hst hbusy hrows hwin hpfail hboards⟩⟩
  case rowComplete => exact fun _ _ h => rowComplete_completes hr hc h
  case insole => exact fun _ _ _ _ _ h => insoleSlotsWritten_completes hr hc h
  case ready => exact fun _ _ _ _ _ => ⟨readyFlit_becomes hr hc, readyFlit_becomes hr hc⟩
  case timeout =>
    exact fun kind obj => ⟨fun h => act_idle hr hc (doLoadTimeout_none (c := { s.chip with sent := [] }) h),
      fun _ _ h hk => loadTimeout_completes hr hc h hk⟩

end Sys2Proof.Machine
end

section
/-! SUPPORT. How an effect leads from one property of the part to another, how a command completes by it, and what a peg's
arrival and completion change at a tile. -/
namespace Sys2Proof.Machine

/-! ## Effects that lead from one property of the part to another -/

/-- An effect leads from `P` to `Q`: of every part that has `P`, it makes one that has `Q`.  `Keeps I` leads from `I` to `I`. -/
def Leads {α : Type} (P : Chip → Prop) (m : CM α) (Q : Chip → Prop) : Prop := ∀ c, P c → Q (m.run c).2

theorem Leads.bind {α β : Type} {P Q R : Chip → Prop} {m : CM α} {f : α → CM β} (hm : Leads P m Q) (hf : ∀ a, Leads Q (f a) R) :
    Leads P (m >>= f) R := fun c h => hf _ _ (hm c h)

/-- An effect that begins by reading the part goes on from what is known of the part it read. -/
theorem Leads.get {α : Type} {P Q : Chip → Prop} {f : Chip → CM α} (hf : ∀ c, P c → ∃ I : Chip → Prop, I c ∧ Leads I (f c) Q) :
    Leads P (MonadState.get >>= f) Q := fun c h => by
  obtain ⟨I, hI, hm⟩ := hf c h
  exact hm c hI

/-- A loop that comes to an element whose turn leads from `P` to `Q` leads there, where the other turns keep both. -/
theorem Leads.forM {α : Type} {P Q : Chip → Prop} {f : α → CM Unit} {t : α} (ht : Leads P (f t) Q)
    (hP : ∀ a, a ≠ t → Keeps P (f a)) (hQ : ∀ a, Keeps Q (f a)) : ∀ {l : List α}, t ∈ l → Leads P (forM_ l f) Q
  | [], h => nomatch h
  | a :: l, h => by
    by_cases ha : a = t
    · exact Leads.bind (Q := Q) (ha ▸ ht) fun _ => Keeps.forM hQ l
    · exact Leads.bind (Q := P) (hP a ha) fun _ => Leads.forM ht hP hQ ((List.mem_cons.1 h).resolve_left (Ne.symm ha))

/-- A command whose effect makes exactly the part `e`, of which nothing waits for the reactions, becomes it. -/
theorem act_makes {m : CM Unit} {s : State} {e : Chip} (hr : s.chip.runs = true) (hc : e.calm = true)
    (hm : m.run { s.chip with sent := [] } = ((), { e with sent := [] })) :
    ∃ d, act .normal m s = .next { s with chip := d } ∧ d.quiet = e.quiet :=
  act_becomes hr (by rw [hm]; exact hc) (by rw [hm]; rfl)

/-- A command whose effect leads from the part it finds to `Q` completes with `Q`, which ALERT_N and what was sent do not touch. -/
theorem act_leads {m : CM Unit} {s : State} {P Q post : Chip → Prop} (hr : s.chip.runs = true) (hm : Leads P m Q)
    (hP : P { s.chip with sent := [] }) (hc : ∀ d, Q d → d.calm = true) (hp : ∀ d g out, Q d → post { d with mgmt := g, sent := out }) :
    ∃ d, act .normal m s = .next { s with chip := d } ∧ post d :=
  act_effect hr rfl (hc _ (hm _ hP)) fun g out => hp _ g out (hm _ hP)

/-! ## Tiles -/

@[simp] theorem Chip.tile_onTile (c : Chip) (t : Nat) (f : Tile → Tile) : (c.onTile t f).tile t = f (c.tile t) :=
  Tbl.get_put_same ..

theorem Chip.tile_onTile_other {t u : Nat} (h : u ≠ t) (c : Chip) (f : Tile → Tile) : (c.onTile t f).tile u = c.tile u :=
  Tbl.get_put_other h ..

/-! ## Pegs at a tile (R155) -/

/-- What a property must allow for a peg to complete at a tile without ending it: another hold, and SPAD_PEG_LAST. -/
structure AllowsPeg (I : Chip → Prop) (t : Nat) : Prop where
  hold (h : Hold) : ∀ c, I c → I (c.onTile t fun x => { x with hold := h })
  last (f : Fld) (v : Nat) : f ∈ [R.SPAD_PEG_LAST_VALID, R.SPAD_PEG_LAST_SCOPE, R.SPAD_PEG_LAST_PEG_ID] →
    ∀ c, I c → I (c.wr f (tileOff t) v)

theorem AllowsPeg.pegComplete {I : Chip → Prop} {t : Nat} (h : AllowsPeg I t) (scope id : Nat) : Keeps I (pegComplete t scope id) :=
  Keeps.bind (Keeps.modify (h.hold .none)) fun _ => Keeps.bind (Keeps.wrM (h.last _ 1 (by simp))) fun _ =>
    Keeps.bind (Keeps.wrM (h.last _ scope (by simp))) fun _ => Keeps.wrM (h.last _ id (by simp))

/-- A peg that arrives changes its tile's hold, the up-tree wires and, where it completes at once, SPAD_PEG_LAST. -/
theorem AllowsPeg.tryArrive {I : Chip → Prop} {t : Nat} (h : AllowsPeg I t) (hup : ∀ c up, I c → I { c with upTree := up }) :
    Keeps I (tryArrive t) := by
  refine Keeps.bind Keeps.get fun c => ?_
  split
  · refine Keeps.ite (Keeps.ite (h.pegComplete 0 _) ?_) (Keeps.pure ())
    exact Keeps.bind (Keeps.modify (h.hold _)) fun _ => Keeps.modify fun _ => hup _ _
  · exact Keeps.pure ()

end Sys2Proof.Machine
end

section
/-! Settles the statement on tack messages: what taking a message off the tack network does, and from it each clause. -/
namespace Sys2Proof.Machine

/-! ## Messages are taken and counted (R206, R207) -/

/-- The acknowledgements, credits, late marks and orders that are for a die. -/
def TackMsg.ackTo (die : Nat) (m : TackMsg) : Bool := match m with | .ack a => decide (a.dst.die = die) | _ => false
def TackMsg.creditTo (die : Nat) (m : TackMsg) : Bool := match m with | .credit t _ _ => decide (t / 48 = die) | _ => false
def TackMsg.lateTo (die : Nat) (m : TackMsg) : Bool := match m with | .late d _ _ => decide (d = die) | _ => false
def TackMsg.orderTo (die : Nat) (m : TackMsg) : Bool := match m with | .order d _ _ _ => decide (d = die) | _ => false

/-- The part with the first message that `p` picks taken off the tack network. -/
def Chip.withoutTack (c : Chip) (p : TackMsg → Bool) : Chip := { c with tack := dropFirst p c.tack }

/-- The part with the two words of a message counted at a die. -/
def Chip.twoWords (c : Chip) (die : Nat) : Chip := c.bump R.TACK_WORDS_COUNT (dieOff die) 2

theorem takeTack_run {p : TackMsg → Bool} {m : TackMsg} {c : Chip} (h : c.tack.find? p = some m) :
    (takeTack p).run c = (some m, c.withoutTack p) := by
  rw [takeTack, CM.get_bind, h]
  rfl

theorem doCredit_run {die t h n : Nat} {c : Chip} (hm : c.tack.find? (TackMsg.creditTo die) = some (.credit t h n)) :
    (doCredit die).run c = ((), { ((c.withoutTack (TackMsg.creditTo die)).bump R.TACK_CREDITS_COUNT (dieOff die) 1).twoWords die with
      credit := Tbl.modify 0 c.credit (t * 16 + h) (· - n) }) := by
  change (takeTack (TackMsg.creditTo die) >>= _).run c = _
  rw [CM.run_bind, takeTack_run hm]
  rfl

theorem doLate_run {die d t k : Nat} {c : Chip} (hm : c.tack.find? (TackMsg.lateTo die) = some (.late d t k)) :
    (doLate die).run c = ((), { ((c.withoutTack (TackMsg.lateTo die)).bump R.TACK_LATE_MSGS_COUNT (dieOff die) 1).twoWords die with
      lateStep := true }) := by
  change (takeTack (TackMsg.lateTo die) >>= _).run c = _
  rw [CM.run_bind, takeTack_run hm]
  rfl

theorem doOrder_run {die : Nat} {m : TackMsg} {c : Chip} (hm : c.tack.find? (TackMsg.orderTo die) = some m) :
    (doOrder die).run c = ((), (c.withoutTack (TackMsg.orderTo die)).twoWords die) := by
  change (takeTack (TackMsg.orderTo die) >>= _).run c = _
  rw [CM.run_bind, takeTack_run hm]
  rfl

/-- An acknowledgement ends the oldest send it names, and the peg that waited for it may arrive. -/
theorem doAck_run {die : Nat} {a : AckRec} {c : Chip} (hm : c.tack.find? (TackMsg.ackTo die) = some (.ack a)) :
    (doAck die).run c = (tryArrive (a.dst.die * 48 + a.dst.tile)).run
      ((((c.withoutTack (TackMsg.ackTo die)).bump R.TACK_ACKS_COUNT (dieOff die) 1).twoWords die).onTile
        (a.dst.die * 48 + a.dst.tile) fun x =>
          { x with sends := dropFirst (fun q => decide (q.index = a.index ∧ q.dest = a.src)) x.sends }) := by
  change (takeTack (TackMsg.ackTo die) >>= _).run c = _
  rw [CM.run_bind, takeTack_run hm]
  rfl

/-- A count of a tack network stands apart from the scratchpads' SPAD_PEG_LAST. -/
theorem regKey_acks_ne_pegLast {f : Fld} (die t : Nat)
    (hf : f ∈ [R.SPAD_PEG_LAST_VALID, R.SPAD_PEG_LAST_SCOPE, R.SPAD_PEG_LAST_PEG_ID]) :
    regKey R.TACK_ACKS_COUNT (dieOff die) ≠ regKey f (tileOff t) := by
  simp only [List.mem_cons, List.not_mem_nil, or_false] at hf
  rcases hf with rfl | rfl | rfl <;> simp only [regKey, tileOff, dieOff, R.TACK_ACKS_COUNT, R.SPAD_PEG_LAST_VALID,
    R.SPAD_PEG_LAST_SCOPE, R.SPAD_PEG_LAST_PEG_ID] <;> omega

/-- What an acknowledgement leaves: what waits on the tack network, a tile's sends, and the count of acknowledgements. -/
structure Chip.AckTaken (die t : Nat) (msgs : List TackMsg) (sends : List Outstanding) (n : Nat) (c : Chip) : Prop where
  calm : c.calm = true
  tack : c.tack = msgs
  sends : (c.tile t).sends = sends
  count : c.rd R.TACK_ACKS_COUNT (dieOff die) = n

theorem Chip.AckTaken.allowsPeg (die t : Nat) (msgs : List TackMsg) (sends : List Outstanding) (n : Nat) :
    AllowsPeg (Chip.AckTaken die t msgs sends n) t where
  hold _ _ h := ⟨h.calm, h.tack, by rw [Chip.tile_onTile]; exact h.sends, h.count⟩
  last _ v hf c h := ⟨h.calm, h.tack, h.sends, (Chip.rd_wr_other (regKey_acks_ne_pegLast die t hf) c v).trans h.count⟩

/-- The count that an acknowledgement leaves: one more, which the count of words does not touch. -/
theorem Chip.acks_counted (c : Chip) (die : Nat) :
    ((c.bump R.TACK_ACKS_COUNT (dieOff die) 1).twoWords die).rd R.TACK_ACKS_COUNT (dieOff die) =
      (c.rd R.TACK_ACKS_COUNT (dieOff die) + 1) % 2 ^ 32 := by
  have hkey : regKey R.TACK_ACKS_COUNT (dieOff die) ≠ regKey R.TACK_WORDS_COUNT (dieOff die) := by
    simp only [regKey, R.TACK_ACKS_COUNT, R.TACK_WORDS_COUNT]
    omega
  rw [Chip.twoWords, Chip.bump_rd_other hkey, Chip.bump, Chip.rd_wr_same]
  exact Nat.mod_mod _ _

theorem doAck_taken {die : Nat} {a : AckRec} {c : Chip} (hc : c.calm = true)
    (hm : c.tack.find? (TackMsg.ackTo die) = some (.ack a)) :
    Chip.AckTaken die (a.dst.die * 48 + a.dst.tile) (dropFirst (TackMsg.ackTo die) c.tack)
      (dropFirst (fun q => decide (q.index = a.index ∧ q.dest = a.src)) (c.tile (a.dst.die * 48 + a.dst.tile)).sends)
      ((c.rd R.TACK_ACKS_COUNT (dieOff die) + 1) % 2 ^ 32) ((doAck die).run c).2 := by
  rw [doAck_run hm]
  refine (Chip.AckTaken.allowsPeg ..).tryArrive (fun _ _ h => ⟨h.calm, h.tack, h.sends, h.count⟩) _ ⟨hc, rfl, ?_, ?_⟩
  · rw [Chip.tile_onTile]
    rfl
  · exact Chip.acks_counted (c.withoutTack (TackMsg.ackTo die)) die

/-- A parity error drops the word, is counted, and is a detected error of the die; its count leaves the replay number alone. -/
theorem doTackParityError_run (die k : Nat) (c : Chip) : (doTackParityError die k).run c =
    ((), { c.bump R.TACK_PARITY_COUNT (dieOff die) 1 with
      tack := c.tack.eraseIdx k ++ [.fault die 3 0 (c.rd R.FAULT_STATUS_REPLAY) 0x30] }) := by
  have hkey : regKey R.FAULT_STATUS_REPLAY 0 ≠ regKey R.TACK_PARITY_COUNT (dieOff die) := by
    simp only [regKey, dieOff, R.FAULT_STATUS_REPLAY, R.TACK_PARITY_COUNT]
    omega
  rw [← Chip.bump_rd_other hkey c (n := 1)]
  rfl

/-! ## The statement's clauses, each by what its command does -/

section
variable {s : State} {die : Nat} (hr : s.chip.runs = true) (hc : s.chip.calm = true)
include hr hc

theorem ack_completes {a : AckRec} (hm : s.chip.tack.find? (TackMsg.ackTo die) = some (.ack a)) :
    Completes (.ack die) s fun d => d.tack = dropFirst (TackMsg.ackTo die) s.chip.tack ∧
      (d.tile (a.dst.die * 48 + a.dst.tile)).sends = dropFirst (fun q => decide (q.index = a.index ∧ q.dest = a.src))
        (s.chip.tile (a.dst.die * 48 + a.dst.tile)).sends ∧
      d.rd R.TACK_ACKS_COUNT (dieOff die) = (s.chip.rd R.TACK_ACKS_COUNT (dieOff die) + 1) % 2 ^ 32 := by
  have h := doAck_taken (c := { s.chip with sent := [] }) hc hm
  exact act_effect hr rfl h.calm fun _ _ => ⟨h.tack, h.sends, h.count⟩

theorem credit_becomes {t h n : Nat} (hm : s.chip.tack.find? (TackMsg.creditTo die) = some (.credit t h n)) : Becomes (.credit die) s
    { ((s.chip.withoutTack (TackMsg.creditTo die)).bump R.TACK_CREDITS_COUNT (dieOff die) 1).twoWords die with
      credit := Tbl.modify 0 s.chip.credit (t * 16 + h) (· - n) } :=
  act_makes hr hc (doCredit_run (c := { s.chip with sent := [] }) hm)

theorem late_becomes {d t k : Nat} (hm : s.chip.tack.find? (TackMsg.lateTo die) = some (.late d t k)) : Becomes (.late die) s
    { ((s.chip.withoutTack (TackMsg.lateTo die)).bump R.TACK_LATE_MSGS_COUNT (dieOff die) 1).twoWords die with lateStep := true } :=
  act_makes hr hc (doLate_run (c := { s.chip with sent := [] }) hm)

theorem order_becomes {m : TackMsg} (hm : s.chip.tack.find? (TackMsg.orderTo die) = some m) : Becomes (.order die) s
    ((s.chip.withoutTack (TackMsg.orderTo die)).twoWords die) :=
  act_makes hr hc (doOrder_run (c := { s.chip with sent := [] }) hm)

theorem tackParityError_becomes (k : Nat) : Becomes (.tackParityError die k) s { s.chip.bump R.TACK_PARITY_COUNT (dieOff die) 1 with
    tack := s.chip.tack.eraseIdx k ++ [.fault die 3 0 (s.chip.rd R.FAULT_STATUS_REPLAY) 0x30] } :=
  act_makes hr hc (doTackParityError_run die k { s.chip with sent := [] })

end

/-- Settles O33, each clause by what its command does. -/
theorem tackMessagesAct : Obligations.TackMessagesAct := by
  unfold Obligations.TackMessagesAct
  rintro s die hr hc
  refine ⟨?ack, ?credit, ?late, ?order, ?parity⟩
  case ack => exact fun a h => ack_completes hr hc h
  case credit => exact fun t h n hm => credit_becomes hr hc hm
  case late => exact fun x t k hm => late_becomes hr hc hm
  case order => exact fun m hm => order_becomes hr hc hm
  case parity => exact fun k => tackParityError_becomes hr hc k

end Sys2Proof.Machine
end

section
/-! Settles the statement on pegs: what an arrival and a DONE word do at the root of a scope, and from it each clause. -/
namespace Sys2Proof.Machine

/-! ## Arrivals at a root (R208, R209) -/

/-- The die whose tree holds the root of an arrival's scope. -/
def Chip.rootDie (c : Chip) (a : PegArrival) : Nat :=
  if a.scope = 1 then a.root / 2 else if a.scope = 2 then a.root else c.rd R.MESH_ROOTS_MASTER

/-- Another arrival is one of the same scope at the same root. -/
def PegArrival.meets (a b : PegArrival) : Bool := decide (b.scope = a.scope ∧ b.root = a.root)

/-- An arrival at the root of its scope carries another check than `a`. -/
def Chip.differs (c : Chip) (a : PegArrival) : Bool := c.arrivals.any fun b => a.meets b && decide (b.check ≠ a.check)

/-- The part with the `k`-th arrival on the up-tree wires, `a`, at its root. -/
def Chip.atRoot (c : Chip) (k : Nat) (a : PegArrival) : Chip :=
  { c with upTree := c.upTree.eraseIdx k, arrivals := c.arrivals ++ [a] }

theorem doPegArrival_at {k : Nat} {a : PegArrival} {c : Chip} (h : c.upTree[k]? = some a) : (doPegArrival k).run c =
    (if c.differs a then do
      bumpM R.TACK_MISMATCH_COUNT (dieOff (c.rootDie a))
      raiseDie (c.rootDie a) 0x31
    else scopeDone a.scope a.root : CM Unit).run (c.atRoot k a) := by
  have hdiffers : c.differs a =
      c.arrivals.any fun b => decide (b.scope = a.scope ∧ b.root = a.root ∧ b.check ≠ a.check) := by
    simp only [Chip.differs, PegArrival.meets, Bool.decide_and, Bool.and_assoc]
  rw [doPegArrival, CM.get_bind, h, hdiffers]
  rfl

theorem settlePegs_none {c : Chip} (h : c.jobPegs = []) : settlePegs.run c = ((), c) := by
  rw [settlePegs, CM.get_bind, h]
  rfl

/-- Differing checks are counted, and a detected error of the root's die; the count leaves the replay number alone. -/
theorem doPegArrival_mismatch {k : Nat} {a : PegArrival} {c : Chip} (h : c.upTree[k]? = some a) (hd : c.differs a = true) :
    (doPegArrival k).run c = ((), { (c.atRoot k a).bump R.TACK_MISMATCH_COUNT (dieOff (c.rootDie a)) 1 with
      tack := c.tack ++ [.fault (c.rootDie a) 3 0 (c.rd R.FAULT_STATUS_REPLAY) 0x31] }) := by
  have hkey : regKey R.FAULT_STATUS_REPLAY 0 ≠ regKey R.TACK_MISMATCH_COUNT (dieOff (c.rootDie a)) := by
    simp only [regKey, dieOff, R.FAULT_STATUS_REPLAY, R.TACK_MISMATCH_COUNT]
    omega
  rw [doPegArrival_at h, hd, ← Chip.bump_rd_other hkey c (n := 1)]
  rfl

theorem scopeDone_incomplete {scope root : Nat} {c : Chip} (h : c.scopeComplete scope root = false) :
    (scopeDone scope root).run c = ((), c) := by
  rw [scopeDone, CM.get_bind, h]
  rfl

/-- A scope below JOB that an arrival of `t` completes: its arrivals give way to a DONE word. -/
theorem scopeDone_below {scope root t : Nat} {c : Chip} (h : c.scopeComplete scope root = true) (hs : scope ≠ 4)
    (ht : t ∈ participants scope root) (ha : ∃ a ∈ c.arrivals, a.scope = scope ∧ a.root = root ∧ a.tile = t) :
    (scopeDone scope root).run c = ((), { c with
      arrivals := c.arrivals.filter fun a => !decide (a.scope = scope ∧ a.root = root)
      downDone := c.downDone ++ [(scope, root)] }) := by
  have harrived : (c.arrivals.any fun a => decide (a.scope = scope ∧ a.root = root ∧ a.tile = t)) = true := by
    simpa only [List.any_eq_true, decide_eq_true_eq] using ha
  obtain ⟨u, hu⟩ := Option.isSome_iff_exists.1 (List.find?_isSome (p := fun t =>
    c.arrivals.any fun a => decide (a.scope = scope ∧ a.root = root ∧ a.tile = t)).2 ⟨t, ht, harrived⟩)
  rw [scopeDone, CM.get_bind, if_pos h, hu]
  simp only [CM.run_seq, if_neg hs]
  rfl

theorem doPegArrival_waits {k : Nat} {a : PegArrival} {c : Chip} (h : c.upTree[k]? = some a) (hd : c.differs a = false)
    (hw : (c.atRoot k a).scopeComplete a.scope a.root = false) : (doPegArrival k).run c = ((), c.atRoot k a) := by
  rw [doPegArrival_at h, hd]
  exact scopeDone_incomplete hw

theorem doPegArrival_completes {k : Nat} {a : PegArrival} {c : Chip} (h : c.upTree[k]? = some a) (hd : c.differs a = false)
    (hs : a.scope ≠ 4) (hw : (c.atRoot k a).scopeComplete a.scope a.root = true) (ht : a.tile ∈ participants a.scope a.root) :
    (doPegArrival k).run c = ((), { c.atRoot k a with
      arrivals := (c.atRoot k a).arrivals.filter fun b => !a.meets b
      downDone := c.downDone ++ [(a.scope, a.root)] }) := by
  rw [doPegArrival_at h, hd]
  exact scopeDone_below hw hs ht ⟨a, List.mem_append_right _ (List.mem_singleton_self a), rfl, rfl, rfl⟩

/-- With no JOB peg waiting before or after, the arrival is the whole of the command. -/
theorem pegArrival_becomes {s : State} {k : Nat} {e : Chip} (hr : s.chip.runs = true) (hc : e.calm = true) (hj : e.jobPegs = [])
    (hm : (doPegArrival k).run { s.chip with sent := [] } = ((), { e with sent := [] })) : Becomes (.pegArrival k) s e :=
  act_makes hr hc (by
    rw [doPegArrivalJob, CM.run_seq, hm]
    exact settlePegs_none (c := { e with sent := [] }) hj)

/-! ## DONE (R208) -/

/-- One tile's part in the completion of a scope: its peg of that scope, where it waits. -/
def completeAt (scope t : Nat) : CM Unit := do
  let c ← get
  match (c.tile t).hold with
  | .peg s id true => if s = scope then pegComplete t s id else pure ()
  | _ => pure ()

theorem completeScope_eq (scope root : Nat) : completeScope scope root = forM_ (participants scope root) (completeAt scope) := rfl

theorem AllowsPeg.completeAt {I : Chip → Prop} {t : Nat} (h : AllowsPeg I t) (scope : Nat) : Keeps I (completeAt scope t) := by
  refine Keeps.bind Keeps.get fun c => ?_
  split
  · exact Keeps.ite (h.pegComplete _ _) (Keeps.pure ())
  · exact Keeps.pure ()

theorem completeAt_idle {scope t : Nat} {c : Chip} (h : (c.tile t).hold = .none) : (completeAt scope t).run c = ((), c) := by
  rw [Machine.completeAt, CM.get_bind, h]
  rfl

theorem completeAt_waits {scope t id : Nat} {c : Chip} (h : (c.tile t).hold = .peg scope id true) :
    (completeAt scope t).run c = (pegComplete t scope id).run c := by
  rw [Machine.completeAt, CM.get_bind, h]
  simp only [if_true]

/-- The peg `id` has completed at a tile: nothing holds its issue, and SPAD_PEG_LAST shows the peg. -/
structure Chip.PegCompleted (t id : Nat) (c : Chip) : Prop where
  hold : (c.tile t).hold = .none
  valid : c.flag R.SPAD_PEG_LAST_VALID (tileOff t) = true
  last : c.rd R.SPAD_PEG_LAST_PEG_ID (tileOff t) = id % 2 ^ 16

/-- Two tiles' windows are the same only where the tiles are. -/
theorem tileOff_injective {t u : Nat} (h : tileOff t = tileOff u) : t = u := by
  simp only [tileOff, dieOff] at h
  omega

/-- SPAD_PEG_LAST of one tile stands apart from that of another. -/
theorem regKey_pegLast_ne {f g : Fld} {t u : Nat} (h : u ≠ t)
    (hf : f ∈ [R.SPAD_PEG_LAST_VALID, R.SPAD_PEG_LAST_SCOPE, R.SPAD_PEG_LAST_PEG_ID])
    (hg : g ∈ [R.SPAD_PEG_LAST_VALID, R.SPAD_PEG_LAST_SCOPE, R.SPAD_PEG_LAST_PEG_ID]) :
    regKey g (tileOff t) ≠ regKey f (tileOff u) := by
  have hoff : tileOff u ≠ tileOff t := fun e => h (tileOff_injective e)
  have haddr : f.addr = g.addr ∧ f.lsb < 64 ∧ g.lsb < 64 := by
    simp only [List.mem_cons, List.not_mem_nil, or_false] at hf hg
    rcases hf with rfl | rfl | rfl <;> rcases hg with rfl | rfl | rfl <;> decide
  simp only [regKey]
  omega

theorem pegComplete_completed (t scope id : Nat) (c : Chip) : Chip.PegCompleted t id ((pegComplete t scope id).run c).2 := by
  have hne : regKey R.SPAD_PEG_LAST_VALID (tileOff t) ≠ regKey R.SPAD_PEG_LAST_PEG_ID (tileOff t) ∧
      regKey R.SPAD_PEG_LAST_VALID (tileOff t) ≠ regKey R.SPAD_PEG_LAST_SCOPE (tileOff t) := by
    simp only [regKey, R.SPAD_PEG_LAST_VALID, R.SPAD_PEG_LAST_PEG_ID, R.SPAD_PEG_LAST_SCOPE]
    omega
  simp only [pegComplete, setHold, CM.run_seq, onTileM_run, wrM_run]
  refine ⟨?_, ?_, Chip.rd_wr_same ..⟩
  · exact congrArg Tile.hold (Chip.tile_onTile c t fun x => { x with hold := .none })
  · rw [Chip.flag, Chip.rd_wr_other hne.1, Chip.rd_wr_other hne.2, Chip.rd_wr_same]
    rfl

/-- A tile that waits at a peg, and one at which it has completed, are as another tile's peg leaves them. -/
theorem allowsPeg_waiting {t u : Nat} (h : u ≠ t) (w : Hold) : AllowsPeg (fun c => (c.tile t).hold = w) u where
  hold _ c hI := by rw [Chip.tile_onTile_other h.symm]; exact hI
  last _ _ _ _ hI := hI

theorem allowsPeg_completed {t u : Nat} (h : u ≠ t) (id : Nat) : AllowsPeg (Chip.PegCompleted t id) u where
  hold g c hI := ⟨(allowsPeg_waiting h .none).hold g c hI.hold, hI.valid, hI.last⟩
  last f v hf c hI := ⟨hI.hold, by rw [Chip.flag, Chip.rd_wr_other (regKey_pegLast_ne h hf (by simp))]; exact hI.valid,
    (Chip.rd_wr_other (regKey_pegLast_ne h hf (by simp)) c v).trans hI.last⟩

/-- DONE completes the peg of every tile of the root that waits there. -/
theorem completeScope_completed {scope root t id : Nat} (ht : t ∈ participants scope root) :
    Leads (fun c => (c.tile t).hold = .peg scope id true) (completeScope scope root) (Chip.PegCompleted t id) := by
  rw [completeScope_eq]
  refine Leads.forM (fun c h => ?_) (fun u hu => (allowsPeg_waiting hu _).completeAt scope) (fun u => ?_) ht
  · rw [completeAt_waits h]
    exact pegComplete_completed t scope id c
  · by_cases hu : u = t
    · subst hu
      intro c h
      rw [completeAt_idle h.hold]
      exact h
    · exact (allowsPeg_completed hu id).completeAt scope

theorem completeScope_queues (scope root : Nat) (rest : List (Nat × Nat)) :
    Keeps (fun c => c.calm = true ∧ c.downDone = rest) (completeScope scope root) := by
  rw [completeScope_eq]
  exact Keeps.forM (fun t => AllowsPeg.completeAt ⟨fun _ _ h => h, fun _ _ _ _ h => h⟩ scope) _

theorem doPegDone_run {scope root : Nat} {rest : List (Nat × Nat)} {c : Chip} (h : c.downDone = (scope, root) :: rest) :
    doPegDone.run c = (completeScope scope root).run { c with downDone := rest } := by
  rw [doPegDone, CM.get_bind, h]
  rfl

/-! ## The statement's clauses, each by what its command does -/

section
variable {s : State} (hr : s.chip.runs = true) (hc : s.chip.calm = true)
include hr hc

theorem pegDone_completes {scope root : Nat} {rest : List (Nat × Nat)} (h : s.chip.downDone = (scope, root) :: rest) :
    Completes .pegDone s fun d => d.downDone = rest ∧
      ∀ t id, t ∈ participants scope root → (s.chip.tile t).hold = .peg scope id true → (d.tile t).hold = .none ∧
        d.flag R.SPAD_PEG_LAST_VALID (tileOff t) = true ∧ d.rd R.SPAD_PEG_LAST_PEG_ID (tileOff t) = id % 2 ^ 16 := by
  obtain ⟨hcalm, hrest⟩ := completeScope_queues scope root rest { s.chip with downDone := rest, sent := [] } ⟨hc, rfl⟩
  refine act_effect hr (congrArg Prod.snd (doPegDone_run (c := { s.chip with sent := [] }) h)) hcalm fun _ _ => ⟨hrest, ?_⟩
  intro t id ht hw
  have hdone := completeScope_completed ht { s.chip with downDone := rest, sent := [] } hw
  exact ⟨hdone.hold, hdone.valid, hdone.last⟩

variable (hj : s.chip.jobPegs = []) {k : Nat} {a : PegArrival} (h : s.chip.upTree[k]? = some a)
include hj h

theorem pegArrival_mismatch (hd : s.chip.differs a = true) : Becomes (.pegArrival k) s
    { (s.chip.atRoot k a).bump R.TACK_MISMATCH_COUNT (dieOff (s.chip.rootDie a)) 1 with
      tack := s.chip.tack ++ [.fault (s.chip.rootDie a) 3 0 (s.chip.rd R.FAULT_STATUS_REPLAY) 0x31] } :=
  pegArrival_becomes hr hc hj (doPegArrival_mismatch (c := { s.chip with sent := [] }) h hd)

variable (hd : s.chip.differs a = false)
include hd

theorem pegArrival_waits (hw : (s.chip.atRoot k a).scopeComplete a.scope a.root = false) :
    Becomes (.pegArrival k) s (s.chip.atRoot k a) :=
  pegArrival_becomes hr hc hj (doPegArrival_waits (c := { s.chip with sent := [] }) h hd hw)

theorem pegArrival_done (hs : a.scope ≠ 4) (hw : (s.chip.atRoot k a).scopeComplete a.scope a.root = true)
    (ht : a.tile ∈ participants a.scope a.root) : Becomes (.pegArrival k) s { s.chip.atRoot k a with
      arrivals := (s.chip.atRoot k a).arrivals.filter fun b => !a.meets b
      downDone := s.chip.downDone ++ [(a.scope, a.root)] } :=
  pegArrival_becomes hr hc hj (doPegArrival_completes (c := { s.chip with sent := [] }) h hd hs hw ht)

end

/-- Settles O35, each clause by what its command does. -/
theorem pegsMeetAtTheirRoot : Obligations.PegsMeetAtTheirRoot := by
  unfold Obligations.PegsMeetAtTheirRoot
  intro s hr hc hj
  refine ⟨fun k a h hs => ⟨?mismatch, ?waits, ?done⟩, ?down⟩
  case mismatch => exact fun hd => pegArrival_mismatch hr hc hj h hd
  case waits => exact fun hd hw => pegArrival_waits hr hc hj h hd hw
  case done => exact fun hd hw ht => pegArrival_done hr hc hj h hd hs hw ht
  case down => exact fun scope root rest h => pegDone_completes hr hc h

end Sys2Proof.Machine
end

section
/-! Settles the statement on die-to-die edges: what the operations on an edge's registers and on the routes do, and from it each
clause. -/
namespace Sys2Proof.Machine

theorem bit_bitClear_same (m k : Nat) : bit (bitClear m k) k = false := by
  simp only [bitClear]
  split
  · rename_i h
    have hdiv : (m - 2 ^ k) / 2 ^ k = m / 2 ^ k - 1 := by simpa using Nat.sub_mul_div m (2 ^ k) 1
    simp only [bit, decide_eq_true_eq, decide_eq_false_iff_not, hdiv] at h ⊢
    omega
  · rename_i h
    exact eq_false_of_ne_true h

/-! ## Where an edge's registers stand (R212) -/

/-- The fields of an edge's window that these operations write, other than its state. -/
def edgeFlds : List Fld := [R.D2D_STATUS_MODULES, R.D2D_STATUS_SLOW, R.D2D_STATUS_TACK_MODULE, R.D2D_DOWNS_COUNT,
  R.D2D_TRAIN_TRAINS, R.D2D_TRAIN_LAST_US, R.D2D_REPAIRS_LANES]

theorem edgeEnds_sides (e : Nat) : (edgeEnds e).1.2 ≤ 2 ∧ (edgeEnds e).2.2 ≤ 2 := by
  unfold edgeEnds
  split <;> decide

theorem edgeEnds_apart (e : Nat) :
    edgeOff (edgeEnds e).1.1 (edgeEnds e).1.2 ≠ edgeOff (edgeEnds e).2.1 (edgeEnds e).2.2 := by
  unfold edgeEnds
  split <;> decide

/-- The routes' record of lost edges stands apart from the state of every edge. -/
theorem regKey_lostEdges_ne_state (x d side : Nat) : side ≤ 2 →
    regKey R.MESH_STATUS_LOST_EDGES (dieOff x) ≠ regKey R.D2D_STATUS_STATE (edgeOff d side) := by
  intro hside
  simp only [regKey, edgeOff, dieOff, R.MESH_STATUS_LOST_EDGES, R.D2D_STATUS_STATE]
  omega

/-- A field that is neither an edge's state nor the routes' record of lost edges. -/
structure OffEdges (f : Fld) (o : Nat) : Prop where
  state (d side : Nat) : side ≤ 2 → regKey R.D2D_STATUS_STATE (edgeOff d side) ≠ regKey f o
  lost (d : Nat) : regKey R.MESH_STATUS_LOST_EDGES (dieOff d) ≠ regKey f o

theorem OffEdges.of_edgeFlds {f : Fld} {d side : Nat} (hf : f ∈ edgeFlds) (hside : side ≤ 2) : OffEdges f (edgeOff d side) := by
  simp only [edgeFlds, List.mem_cons, List.not_mem_nil, or_false] at hf
  refine ⟨fun x y hy => ?_, fun x => ?_⟩ <;> rcases hf with rfl | rfl | rfl | rfl | rfl | rfl | rfl <;>
    simp only [regKey, edgeOff, dieOff, R.MESH_STATUS_LOST_EDGES, R.D2D_STATUS_STATE, R.D2D_STATUS_MODULES, R.D2D_STATUS_SLOW,
      R.D2D_STATUS_TACK_MODULE, R.D2D_DOWNS_COUNT, R.D2D_TRAIN_TRAINS, R.D2D_TRAIN_LAST_US, R.D2D_REPAIRS_LANES] <;> omega

theorem OffEdges.detour (d : Nat) : OffEdges R.MESH_STATUS_DETOUR (dieOff d) := by
  refine ⟨fun x y hy => ?_, fun x => ?_⟩ <;>
    simp only [regKey, edgeOff, dieOff, R.MESH_STATUS_LOST_EDGES, R.D2D_STATUS_STATE, R.MESH_STATUS_DETOUR] <;> omega

theorem OffEdges.trigLost (d : Nat) : OffEdges R.EVR_TRIG_LOST_COUNT (dieOff d) := by
  refine ⟨fun x y hy => ?_, fun x => ?_⟩ <;>
    simp only [regKey, edgeOff, dieOff, R.MESH_STATUS_LOST_EDGES, R.D2D_STATUS_STATE, R.EVR_TRIG_LOST_COUNT] <;> omega

/-! ## What leaves the edges' states alone -/

/-- A property that says nothing of an edge but its state and whether it is lost to the routes. -/
structure AllowsEdge (I : Chip → Prop) : Prop where
  field {f : Fld} {o : Nat} (v : Nat) : OffEdges f o → ∀ c, I c → I (c.wr f o v)
  recorder (d : Nat) (r : Recorder) : ∀ c, I c → I (c.setRecorder d r)
  edges (m : Map Edge) : ∀ c, I c → I { c with edges := m }

section
variable {I : Chip → Prop} (h : AllowsEdge I)
include h

theorem AllowsEdge.wrEdge {f : Fld} (hf : f ∈ edgeFlds) (e v : Nat) : Keeps I (wrEdge f e v) :=
  Keeps.bind (Keeps.wrM (h.field v (.of_edgeFlds hf (edgeEnds_sides e).1))) fun _ =>
    Keeps.wrM (h.field v (.of_edgeFlds hf (edgeEnds_sides e).2))

theorem AllowsEdge.bumpEdge {f : Fld} (hf : f ∈ edgeFlds) (e n : Nat) : Keeps I (bumpEdge f e n) :=
  Keeps.bind (Keeps.bumpM fun c v => h.field v (.of_edgeFlds hf (edgeEnds_sides e).1) c) fun _ =>
    Keeps.bumpM fun c v => h.field v (.of_edgeFlds hf (edgeEnds_sides e).2) c

theorem AllowsEdge.setEdges (f : Chip → Map Edge) : Keeps I (modify fun c => { c with edges := f c } : CM Unit) :=
  Keeps.modify fun _ => h.edges _ _

/-- The recorder takes a trigger or counts it as lost. -/
theorem AllowsEdge.takeRecord (d cls : Nat) (detail : List Nat) : Keeps I (takeRecord d cls detail) :=
  Keeps.bind Keeps.get fun _ => Keeps.ite (Keeps.pure ()) <|
    Keeps.ite (Keeps.bumpM fun c v => h.field v (.trigLost d) c) (Keeps.modify fun _ => h.recorder d _ _)

theorem AllowsEdge.edgeRecords (e : Nat) : Keeps I (edgeRecords e) := Keeps.forM (fun _ => h.takeRecord _ _ _) _

end

/-! ## An edge's state, and the routes (R214, R218) -/

/-- An edge's state, with the packets in flight and nothing that waits for the reactions. -/
structure Chip.EdgeAt (e st : Nat) (flight : List Packet) (c : Chip) : Prop where
  calm : c.calm = true
  flight : c.flight = flight
  state : c.edgeState e = st

/-- An edge is lost to the routes, or in them, on every die. -/
def Chip.EdgeLost (e : Nat) (lost : Bool) (c : Chip) : Prop :=
  ∀ x, x < 8 → bit (c.rd R.MESH_STATUS_LOST_EDGES (dieOff x)) e = lost

theorem Chip.EdgeAt.wr {e st o v : Nat} {f : Fld} {fl : List Packet} {c : Chip}
    (hk : ∀ d side, side ≤ 2 → regKey R.D2D_STATUS_STATE (edgeOff d side) ≠ regKey f o) (h : c.EdgeAt e st fl) :
    (c.wr f o v).EdgeAt e st fl :=
  ⟨h.calm, h.flight, (Chip.rd_wr_other (hk _ _ (edgeEnds_sides e).1) c v).trans h.state⟩

theorem Chip.EdgeAt.allowsEdge (e st : Nat) (fl : List Packet) : AllowsEdge (Chip.EdgeAt e st fl) where
  field _ ho _ h := h.wr ho.state
  recorder _ _ _ h := ⟨h.calm, h.flight, h.state⟩
  edges _ _ h := ⟨h.calm, h.flight, h.state⟩

theorem Chip.EdgeLost.allowsEdge (e : Nat) (lost : Bool) : AllowsEdge (Chip.EdgeLost e lost) where
  field v ho c h x hx := by rw [Chip.rd_wr_other (ho.lost x)]; exact h x hx
  recorder _ _ _ h := h
  edges _ _ h := h

/-- An edge's state is written at both of its ends. -/
theorem wrEdge_state {e st v : Nat} {fl : List Packet} (hv : v < 8) :
    Leads (Chip.EdgeAt e st fl) (wrEdge R.D2D_STATUS_STATE e v) (Chip.EdgeAt e v fl) := by
  intro c h
  refine ⟨h.calm, h.flight, ?_⟩
  have hends : regKey R.D2D_STATUS_STATE (edgeOff (edgeEnds e).1.1 (edgeEnds e).1.2) ≠
      regKey R.D2D_STATUS_STATE (edgeOff (edgeEnds e).2.1 (edgeEnds e).2.2) := by
    have := edgeEnds_apart e
    simp only [regKey]
    omega
  simp only [wrEdge, CM.run_seq, wrM_run, Chip.edgeState]
  rw [Chip.rd_wr_other hends, Chip.rd_wr_same]
  exact Nat.mod_eq_of_lt hv

/-- One die's part in showing an edge as in or out of the routes. -/
def showEdgeOn (e : Nat) (lost : Bool) (d : Nat) : CM Unit := do
  let m ← rdM R.MESH_STATUS_LOST_EDGES (dieOff d)
  let m' := if lost then bitOr m e else bitClear m e
  wrM R.MESH_STATUS_LOST_EDGES (dieOff d) m'
  let l ← rdM R.MESH_STATUS_LOST_DIES (dieOff d)
  wrM R.MESH_STATUS_DETOUR (dieOff d) (b2n (decide (0 < m' + l)))

theorem showEdge_eq (e : Nat) (lost : Bool) : showEdge e lost = forM_ (upFrom 0 8) (showEdgeOn e lost) := rfl

theorem showEdgeOn_run (e : Nat) (lost : Bool) (d : Nat) (c : Chip) : ∃ v, (showEdgeOn e lost d).run c =
    ((), (c.wr R.MESH_STATUS_LOST_EDGES (dieOff d) (if lost then bitOr (c.rd R.MESH_STATUS_LOST_EDGES (dieOff d)) e
      else bitClear (c.rd R.MESH_STATUS_LOST_EDGES (dieOff d)) e)).wr R.MESH_STATUS_DETOUR (dieOff d) v) := ⟨_, rfl⟩

/-- The routes leave the edges' states alone. -/
theorem showEdge_edgeAt (e st : Nat) (fl : List Packet) (lost : Bool) : Keeps (Chip.EdgeAt e st fl) (showEdge e lost) := by
  rw [showEdge_eq]
  refine Keeps.forM (fun d c h => ?_) _
  obtain ⟨v, hrun⟩ := showEdgeOn_run e lost d c
  rw [hrun]
  exact (h.wr fun x side hs => (regKey_lostEdges_ne_state d x side hs).symm).wr (OffEdges.detour d).state

/-- On its own die, an edge is shown as asked. -/
theorem showEdgeOn_same {e : Nat} (he : e < 10) (lost : Bool) (d : Nat) (c : Chip) :
    bit (((showEdgeOn e lost d).run c).2.rd R.MESH_STATUS_LOST_EDGES (dieOff d)) e = lost := by
  obtain ⟨v, hrun⟩ := showEdgeOn_run e lost d c
  rw [hrun, Chip.rd_wr_other ((OffEdges.detour d).lost d), Chip.rd_wr_same, bit_mod (w := R.MESH_STATUS_LOST_EDGES.width) he]
  cases lost
  · exact bit_bitClear_same ..
  · exact bit_bitOr_same ..

theorem showEdgeOn_other {e d x : Nat} (h : x ≠ d) (lost : Bool) (c : Chip) :
    ((showEdgeOn e lost d).run c).2.rd R.MESH_STATUS_LOST_EDGES (dieOff x) = c.rd R.MESH_STATUS_LOST_EDGES (dieOff x) := by
  have hne : regKey R.MESH_STATUS_LOST_EDGES (dieOff x) ≠ regKey R.MESH_STATUS_LOST_EDGES (dieOff d) := by
    simp only [regKey, dieOff]
    omega
  obtain ⟨v, hrun⟩ := showEdgeOn_run e lost d c
  rw [hrun, Chip.rd_wr_other ((OffEdges.detour d).lost x), Chip.rd_wr_other hne]

theorem showEdge_lost {e : Nat} (he : e < 10) (lost : Bool) (c : Chip) : ((showEdge e lost).run c).2.EdgeLost e lost := by
  intro x hx
  have hmem : x ∈ upFrom 0 8 := by
    rw [upFrom_eq_range']
    exact List.mem_range'_1.2 ⟨Nat.zero_le x, by omega⟩
  have hkeep : ∀ d, Keeps (fun c => bit (c.rd R.MESH_STATUS_LOST_EDGES (dieOff x)) e = lost) (showEdgeOn e lost d) := by
    intro d c h
    by_cases hd : x = d
    · rw [hd]
      exact showEdgeOn_same he lost d c
    · rw [showEdgeOn_other hd]
      exact h
  rw [showEdge_eq]
  exact Leads.forM (P := fun _ => True) (fun c _ => showEdgeOn_same he lost x c) (fun _ _ _ _ => trivial) hkeep hmem c trivial

/-! ## Edges fall (R214) -/

/-- The packets in flight but for those at the places listed. -/
def keptInFlight (lost : List Nat) (fl : List Packet) : List Packet :=
  ((upFrom 0 fl.length).zip fl).filterMap fun p => if lost.contains p.1 then none else some p.2

theorem doD2dEdgeDown_open {e st : Nat} (lost : List Nat) (fl : List Packet) (he : e < 10) (hst : st = edgeUp ∨ st = edgeDegraded) :
    Leads (Chip.EdgeAt e st fl) (doD2dEdgeDown e lost) fun d => d.EdgeAt e edgeTraining (keptInFlight lost fl) ∧ d.EdgeLost e true := by
  have hat := Chip.EdgeAt.allowsEdge e edgeTraining fl
  have hlost := Chip.EdgeLost.allowsEdge e true
  have hshown : Leads (Chip.EdgeAt e edgeTraining fl) (showEdge e true) fun d => d.EdgeAt e edgeTraining fl ∧ d.EdgeLost e true :=
    fun c h => ⟨showEdge_edgeAt e _ fl true c h, showEdge_lost he true c⟩
  have hrecords : Leads (fun d => d.EdgeAt e edgeTraining fl ∧ d.EdgeLost e true) (edgeRecords e)
      fun d => d.EdgeAt e edgeTraining fl ∧ d.EdgeLost e true :=
    fun c h => ⟨hat.edgeRecords e c h.1, hlost.edgeRecords e c h.2⟩
  refine Leads.get fun c h => ⟨_, h, ?_⟩
  rw [if_pos (show c.edgeState e = edgeUp ∨ c.edgeState e = edgeDegraded by rw [h.state]; exact hst)]
  refine Leads.bind ((Chip.EdgeAt.allowsEdge e st fl).bumpEdge (by simp [edgeFlds]) e 1) fun _ => ?_
  refine Leads.bind (wrEdge_state (by decide)) fun _ => ?_
  refine Leads.bind (hat.wrEdge (by simp [edgeFlds]) e 0) fun _ => Leads.bind (hat.wrEdge (by simp [edgeFlds]) e 0) fun _ => ?_
  refine Leads.bind hshown fun _ => Leads.bind hrecords fun _ => ?_
  rintro c ⟨h, hl⟩
  exact ⟨⟨h.calm, congrArg (keptInFlight lost) h.flight, h.state⟩, hl⟩

/-! ## Training (R214) -/

/-- The state in which a training leaves an edge whose modules come up. -/
def trainedState (modules slow : Nat) : Nat := if modules % 16 = 15 ∧ slow % 16 = 0 then edgeUp else edgeDegraded

theorem doD2dTrainingDone_fails {e modules n : Nat} (slow us lanes : Nat) (fl : List Packet) (hm : modules % 16 = 0) :
    Leads (fun c => c.EdgeAt e edgeTraining fl ∧ (Tbl.get noEdge c.edges e).fails = n) (doD2dTrainingDone e modules slow us lanes)
      (Chip.EdgeAt e (if 2 ≤ n then edgeFailed else edgeTraining) fl) := by
  have hat := fun st => Chip.EdgeAt.allowsEdge e st fl
  refine Leads.get fun c ⟨h, hn⟩ => ⟨_, h, ?_⟩
  rw [if_pos h.state]
  refine Leads.bind ((hat _).bumpEdge (by simp [edgeFlds]) e 1) fun _ => ?_
  refine Leads.bind ((hat _).wrEdge (by simp [edgeFlds]) e _) fun _ => ?_
  rw [if_pos hm, ← hn]
  split
  · exact Leads.bind (wrEdge_state (by decide)) fun _ => (hat _).setEdges _
  · exact (hat _).setEdges _

theorem doD2dTrainingDone_up {e modules : Nat} {job : Bool} (slow us lanes : Nat) (fl : List Packet) (he : e < 10)
    (hm : modules % 16 ≠ 0) :
    Leads (fun c => c.EdgeAt e edgeTraining fl ∧ c.jobRuns = job) (doD2dTrainingDone e modules slow us lanes)
      fun d => d.EdgeAt e (trainedState modules slow) fl ∧ (job = false → d.EdgeLost e false) := by
  have hat := fun st => Chip.EdgeAt.allowsEdge e st fl
  have hst : trainedState modules slow < 8 := by
    unfold trainedState
    split <;> decide
  refine Leads.get fun c ⟨h, hj⟩ => ⟨_, h, ?_⟩
  rw [if_pos h.state]
  refine Leads.bind ((hat _).bumpEdge (by simp [edgeFlds]) e 1) fun _ => ?_
  refine Leads.bind ((hat _).wrEdge (by simp [edgeFlds]) e _) fun _ => ?_
  rw [if_neg hm, hj]
  refine Leads.bind ((hat _).wrEdge (by simp [edgeFlds]) e _) fun _ => Leads.bind ((hat _).wrEdge (by simp [edgeFlds]) e _) fun _ => ?_
  refine Leads.bind ((hat _).wrEdge (by simp [edgeFlds]) e _) fun _ => Leads.bind ((hat _).wrEdge (by simp [edgeFlds]) e _) fun _ => ?_
  refine Leads.bind (wrEdge_state hst) fun _ => ?_
  cases job
  · exact Leads.bind ((hat _).setEdges _) fun _ d h => ⟨showEdge_edgeAt e _ fl false d h, fun _ => showEdge_lost he false d⟩
  · exact fun d h => ⟨(hat _).setEdges _ d h, nofun⟩

/-! ## Retraining (R215) -/

theorem trainEdge_trains (e st : Nat) (fl : List Packet) : Leads (Chip.EdgeAt e st fl) (trainEdge e) (Chip.EdgeAt e edgeTraining fl) := by
  have hat := fun st => Chip.EdgeAt.allowsEdge e st fl
  exact Leads.bind Keeps.get fun c => Leads.bind (Keeps.whenM (Keeps.bind ((hat st).bumpEdge (by simp [edgeFlds]) e 1) fun _ =>
    (hat st).edgeRecords e)) fun _ => Leads.bind (wrEdge_state (by decide)) fun _ =>
    Leads.bind ((hat _).wrEdge (by simp [edgeFlds]) e 0) fun _ => Leads.bind ((hat _).setEdges _) fun _ => showEdge_edgeAt e _ fl true

theorem retrainEdge_idle {src die side e : Nat} {c : Chip} (hj : c.jobRuns = false) (he : edgeAt die side = some e) :
    (retrainEdge src die side).run c = (trainEdge e).run c := by
  rw [retrainEdge, CM.get_bind, hj, he]
  rfl

theorem retrainEdge_job {src die side : Nat} {c : Chip} (hj : c.jobRuns = true) :
    (retrainEdge src die side).run c = (clampEvent src 0 (R.D2D_CTRL_RETRAIN.addr + edgeOff die side)).run c := by
  rw [retrainEdge, CM.get_bind, hj]
  rfl

/-- The fields of a clamp event. -/
def clampFlds : List Fld := [R.FAULT_CLAMP_SRC_VALID, R.FAULT_CLAMP_SRC_SESSION, R.FAULT_CLAMP_SRC_SOURCE, R.FAULT_CLAMP_ADDR_WHERE]

theorem regKey_state_ne_clamp {f : Fld} (d side : Nat) (hf : f ∈ clampFlds) :
    regKey R.D2D_STATUS_STATE (edgeOff d side) ≠ regKey f 0 := by
  simp only [clampFlds, List.mem_cons, List.not_mem_nil, or_false] at hf
  rcases hf with rfl | rfl | rfl | rfl <;> simp only [regKey, edgeOff, dieOff, R.D2D_STATUS_STATE, R.FAULT_CLAMP_SRC_VALID,
    R.FAULT_CLAMP_SRC_SESSION, R.FAULT_CLAMP_SRC_SOURCE, R.FAULT_CLAMP_ADDR_WHERE] <;> omega

/-- A clamp event of the management port is counted, and leaves the edges' states alone. -/
theorem clampEvent_counts {e st : Nat} {fl : List Packet} (place n : Nat) :
    Leads (fun c => c.EdgeAt e st fl ∧ c.rd R.FAULT_CLAMP_COUNT (4 * srcMgmt) = n) (clampEvent srcMgmt 0 place)
      fun d => d.EdgeAt e st fl ∧ d.rd R.FAULT_CLAMP_COUNT (4 * srcMgmt) = min (n + 1) (2 ^ 32 - 1) := by
  rintro c ⟨h, hn⟩
  have hclamp {f : Fld} (v : Nat) (hf : f ∈ clampFlds) {d : Chip} (hd : d.EdgeAt e st fl) : (d.wr f 0 v).EdgeAt e st fl :=
    hd.wr fun x side _ => regKey_state_ne_clamp x side hf
  have hcount : (c.bump R.FAULT_CLAMP_COUNT (4 * srcMgmt) 1).EdgeAt e st fl := by
    refine h.wr fun x side _ => ?_
    simp only [regKey, edgeOff, dieOff, R.D2D_STATUS_STATE, R.FAULT_CLAMP_COUNT, srcMgmt]
    omega
  refine ⟨hclamp _ (by simp [clampFlds]) (hclamp _ (by simp [clampFlds]) (hclamp _ (by simp [clampFlds])
    (hclamp _ (by simp [clampFlds]) hcount))), ?_⟩
  simp only [clampEvent, CM.run_seq, bumpM_run, wrM_run]
  rw [Chip.rd_wr_other (by decide), Chip.rd_wr_other (by decide), Chip.rd_wr_other (by decide), Chip.rd_wr_other (by decide),
    Chip.bump, Chip.rd_wr_same, hn]
  exact Nat.mod_eq_of_lt (Nat.lt_of_le_of_lt (Nat.min_le_right ..) (by decide))

/-! ## The statement's clauses, each by what its command does -/

section
variable {s : State} {e : Nat} (hr : s.chip.runs = true) (hc : s.chip.calm = true)
include hr hc

theorem d2dEdgeDown_completes (he : e < 10) (lost : List Nat) (h : s.chip.edgeState e = edgeUp ∨ s.chip.edgeState e = edgeDegraded) :
    Completes (.d2dEdgeDown e lost) s fun d => d.edgeState e = edgeTraining ∧ d.EdgeLost e true ∧
      d.flight = keptInFlight lost s.chip.flight :=
  act_leads hr (doD2dEdgeDown_open lost s.chip.flight he h) ⟨hc, rfl, rfl⟩ (fun _ h => h.1.calm)
    fun _ _ _ h => ⟨h.1.state, h.2, h.1.flight⟩

theorem d2dTrainingDone_fails {x : EdgeTrained} (h : s.chip.edgeState e = edgeTraining) (hm : x.modules % 16 = 0) :
    Completes (.d2dTrainingDone e x) s fun d =>
      d.edgeState e = if 2 ≤ (Tbl.get noEdge s.chip.edges e).fails then edgeFailed else edgeTraining :=
  act_leads hr (doD2dTrainingDone_fails x.slow x.us x.lanes s.chip.flight hm) ⟨⟨hc, rfl, h⟩, rfl⟩ (fun _ h => h.calm)
    fun _ _ _ h => h.state

theorem d2dTrainingDone_up {x : EdgeTrained} (he : e < 10) (h : s.chip.edgeState e = edgeTraining) (hm : x.modules % 16 ≠ 0) :
    Completes (.d2dTrainingDone e x) s fun d => d.edgeState e = trainedState x.modules x.slow ∧
      (s.chip.jobRuns = false → d.EdgeLost e false) :=
  act_leads hr (doD2dTrainingDone_up x.slow x.us x.lanes s.chip.flight he hm) ⟨⟨hc, rfl, h⟩, rfl⟩ (fun _ h => h.1.calm)
    fun _ _ _ h => ⟨h.1.state, h.2⟩

theorem d2dRetrain_idle {die side : Nat} (hat : edgeAt die side = some e) (hj : s.chip.jobRuns = false) :
    Completes (.d2dRetrain die side) s fun d => d.edgeState e = edgeTraining := by
  have htrain : Leads (fun c => c.EdgeAt e (s.chip.edgeState e) s.chip.flight ∧ c.jobRuns = false) (retrainEdge srcMgmt die side)
      (Chip.EdgeAt e edgeTraining s.chip.flight) := fun c h => by
    rw [retrainEdge_idle h.2 hat]
    exact trainEdge_trains e _ _ c h.1
  exact act_leads hr htrain ⟨⟨hc, rfl, rfl⟩, hj⟩ (fun _ h => h.calm) fun _ _ _ h => h.state

theorem d2dRetrain_job (die side : Nat) (hj : s.chip.jobRuns = true) : Completes (.d2dRetrain die side) s fun d =>
    d.rd R.FAULT_CLAMP_COUNT (4 * srcMgmt) = min (s.chip.rd R.FAULT_CLAMP_COUNT (4 * srcMgmt) + 1) (2 ^ 32 - 1) ∧
    d.edgeState e = s.chip.edgeState e := by
  have hclamps : Leads (fun c => (c.EdgeAt e (s.chip.edgeState e) s.chip.flight ∧
      c.rd R.FAULT_CLAMP_COUNT (4 * srcMgmt) = s.chip.rd R.FAULT_CLAMP_COUNT (4 * srcMgmt)) ∧ c.jobRuns = true)
      (retrainEdge srcMgmt die side) fun d => d.EdgeAt e (s.chip.edgeState e) s.chip.flight ∧
      d.rd R.FAULT_CLAMP_COUNT (4 * srcMgmt) = min (s.chip.rd R.FAULT_CLAMP_COUNT (4 * srcMgmt) + 1) (2 ^ 32 - 1) := fun c h => by
    rw [retrainEdge_job h.2]
    exact clampEvent_counts _ _ c h.1
  exact act_leads hr hclamps ⟨⟨⟨hc, rfl, rfl⟩, rfl⟩, hj⟩ (fun _ h => h.1.calm) fun _ _ _ h => ⟨h.2, h.1.state⟩

end

/-- A training leaves an edge UP where all four modules came up at full speed, and else DEGRADED. -/
theorem trainedState_full {modules slow : Nat} (hm : modules % 16 = 15) (hs : slow % 16 = 0) :
    trainedState modules slow = edgeUp := if_pos ⟨hm, hs⟩

theorem trainedState_partial {modules slow : Nat} (h : modules % 16 ≠ 15 ∨ slow % 16 ≠ 0) :
    trainedState modules slow = edgeDegraded := if_neg fun ⟨hm, hs⟩ => h.elim (· hm) (· hs)

/-- Settles O37, each clause by what its command does. -/
theorem edgesTrainAndFail : Obligations.EdgesTrainAndFail := by
  unfold Obligations.EdgesTrainAndFail
  intro s e hr hc he
  refine ⟨?down, fun x h => ⟨?full, ?partly, ?fails⟩, fun die side hat => ⟨?idle, ?job⟩⟩
  case down => exact fun lost h => d2dEdgeDown_completes hr hc he lost h
  case full =>
    intro hm hs
    rw [← trainedState_full hm hs]
    exact d2dTrainingDone_up hr hc he h (by omega)
  case partly =>
    intro hm hpart
    obtain ⟨d, hd, hstate, -⟩ := d2dTrainingDone_up hr hc he h hm
    exact ⟨d, hd, hstate.trans (trainedState_partial hpart)⟩
  case fails => exact fun hm => d2dTrainingDone_fails hr hc h hm
  case idle => exact fun hj => d2dRetrain_idle hr hc hat hj
  case job => exact fun hj => d2dRetrain_job hr hc die side hj

end Sys2Proof.Machine
end

section
/-! Settles the statement on what goes before a step: the close of an empty admission, deliveries, the post of the start and a tag
wrap, and from it each clause. -/
namespace Sys2Proof.Machine

/-! ## The post of the start (R210), the tag wrap (R146) -/

theorem doStepStartPost_run {c : Chip} (hs : c.stepping = true) (hn : c.seq.next.isSome = true) (hh : c.holdCause = 0) :
    doStepStartPost.run c = ((), { c with seq := { c.seq with posted := true } }) := by
  rw [doStepStartPost, CM.get_bind, if_pos (by simp [hs, hn, hh])]
  rfl

theorem doTagwrapDone_run {t : Nat} {c : Chip} (h : c.flag R.SPAD_STATUS_TAGWRAP (tileOff t) = true) (hw : (c.tile t).wrapWait = []) :
    (doTagwrapDone t).run c = ((), ((c.onTile t fun x => { x with tags := [], tagSplit := [] }).wr
      R.SPAD_STATUS_TAGWRAP (tileOff t) 0).wr R.SPAD_GEN_COUNTER_GEN (tileOff t) 0) := by
  have hcleared : c.onTile t (fun x => { x with tags := [], tagSplit := [], wrapWait := [] }) =
      c.onTile t fun x => { x with tags := [], tagSplit := [] } := by
    simp only [Chip.onTile, hw]
  rw [doTagwrapDone, CM.get_bind, if_pos h, hw]
  simp only [CM.run_seq, onTileM_run, hcleared]
  rfl

/-! ## Deliveries (R299, R300, R320, R333) -/

/-- What the package holds of the next step with a delivery more. -/
def Serving.holding (v : Serving) (m : PkgMsg) : Serving :=
  match m with
  | .batch b => { v with batchIn := some b }
  | .params k rs => { v with paramsIn := some (k, rs) }
  | .results k rs => { v with resultsIn := some (k, rs) }

theorem holdDelivery_run (m : PkgMsg) (c : Chip) : (holdDelivery m).run c = ((), { c with serving := c.serving.holding m }) := rfl

theorem receiveAll_one {h : Hdr} {b : FlitBody} {c : Chip} (ht : c.takesFlit h b = true) :
    (receiveAll [h] b).run c = (true, c.received h) := by
  rw [receiveAll, CM.run_bind, receiveFlit_takes ht]
  rfl

theorem Chip.received_serving (c : Chip) (h : Hdr) : (c.received h).serving = c.serving := by
  unfold Chip.received
  cases h.corrected <;> rfl

/-- A delivery of the package's own is held. -/
theorem doDeliver_own (m : PkgMsg) (c : Chip) : (doDeliver [] m).run c = ((), { c with serving := c.serving.holding m }) := rfl

/-- A delivery of one good flit is taken and held. -/
theorem doDeliver_flit {h : Hdr} {m : PkgMsg} {c : Chip} (ht : c.takesFlit h (.pkg m) = true) :
    (doDeliver [h] m).run c = ((), { c.received h with serving := c.serving.holding m }) := by
  rw [doDeliver, CM.run_bind, receiveAll_one ht, whenM_true, holdDelivery_run, Chip.received_serving]

section
variable {s : State} (hr : s.chip.runs = true) (hc : s.chip.calm = true)
include hr hc

theorem deliver_own (m : PkgMsg) : ∃ d, act .normal (doDeliver [] m) s = .next { s with chip := d } ∧
    d.quiet = ({ s.chip with serving := s.chip.serving.holding m } : Chip).quiet :=
  act_makes hr hc (doDeliver_own m { s.chip with sent := [] })

theorem deliver_flit {h : Hdr} {m : PkgMsg} (ht : s.chip.takesFlit h (.pkg m) = true) :
    ∃ d, act .normal (doDeliver [h] m) s = .next { s with chip := d } ∧
      d.quiet = ({ s.chip.received h with serving := s.chip.serving.holding m } : Chip).quiet :=
  act_makes hr ((Chip.received_calm s.chip h).trans hc)
    ((doDeliver_flit (c := { s.chip with sent := [] }) ht).trans (by rw [Chip.received_sent]))

end

/-! ## The close of an empty admission (R295, R296, R299, R320) -/

/-- What the package serves, with nothing that waits for the reactions. -/
structure Chip.Serves (v : Serving) (c : Chip) : Prop where
  calm : c.calm = true
  serving : c.serving = v

theorem reachBeat_serves (v : Serving) (b : Nat) : Keeps (Chip.Serves v) (reachBeat b) :=
  Keeps.bind Keeps.get fun _ => Keeps.ite (Keeps.bind (Keeps.modify fun _ h => ⟨h.calm, h.serving⟩) fun _ =>
    Keeps.wrM fun _ h => ⟨h.calm, h.serving⟩) (Keeps.pure ())

theorem enqueue_serves (v : Serving) (f : Flit) : Keeps (Chip.Serves v) (enqueue f) := by
  refine Keeps.bind Keeps.get fun c => ?_
  split
  · exact Keeps.pure ()
  · exact Keeps.modify fun _ h => ⟨h.calm, h.serving⟩

theorem toPackages_serves (v : Serving) (m : PkgMsg) : Keeps (Chip.Serves v) (toPackages m) :=
  Keeps.bind Keeps.get fun _ => Keeps.forM (fun _ => enqueue_serves v _) _

theorem onServing_serves (v : Serving) (f : Serving → Serving) : Leads (Chip.Serves v) (onServing f) (Chip.Serves (f v)) :=
  fun _ h => ⟨h.calm, congrArg f h.serving⟩

theorem closeEnds_empty {c : Chip} (h : c.serving.requests = []) (step : Nat) : (closeEnds step).run c = ((), c) := by
  simp only [closeEnds, CM.get_bind, CM.run_seq, h, forM_nil, CM.run_pure]

theorem mapRequests_empty {c : Chip} (h : c.serving.requests = []) (f : Nat → Request → Request) : (mapRequests f).run c = ((), c) := by
  have hsame : { c.serving with requests := Tbl.mapVals f c.serving.requests } = c.serving := by
    rw [h, Tbl.mapVals, ← h]
  rw [mapRequests, onServing, CM.run_modify, hsame]

theorem Chip.inOrder_empty {c : Chip} (h : c.serving.requests = []) : c.inOrder = [] := by
  rw [Chip.inOrder, h, sortBy]

/-- The close of a step's admission is under way at a head that has no request. -/
structure Chip.Closing (step : Nat) (orders : List Order) (c : Chip) : Prop where
  calm : c.calm = true
  requests : c.serving.requests = []
  closed : c.serving.closed = some step
  orders : c.serving.orders = orders

/-- The batch of a step has been closed with no slot: it carries the orders placed, of which none is left. -/
structure Chip.ClosedEmpty (step : Nat) (orders : List Order) (c : Chip) : Prop where
  calm : c.calm = true
  closed : c.serving.closed = some step
  taken : c.serving.orders = []
  batch : ∃ gen, c.serving.batchIn = some ⟨step, gen, [], orders⟩

/-- What leaves the serving state alone leaves the closed batch alone. -/
theorem Chip.ClosedEmpty.of_serves {m : CM Unit} {step : Nat} {orders : List Order} (hm : ∀ v, Keeps (Chip.Serves v) m) :
    Keeps (Chip.ClosedEmpty step orders) m := fun c h => by
  obtain ⟨hcalm, hserving⟩ := hm c.serving c ⟨h.calm, rfl⟩
  exact ⟨hcalm, by rw [hserving]; exact h.closed, by rw [hserving]; exact h.taken, by rw [hserving]; exact h.batch⟩

section
variable {step : Nat} {orders : List Order}

theorem closeEnds_closing : Keeps (Chip.Closing step orders) (closeEnds step) := fun c h => by
  rw [closeEnds_empty h.requests]
  exact h

theorem mapRequests_closing (f : Nat → Request → Request) : Keeps (Chip.Closing step orders) (mapRequests f) := fun c h => by
  rw [mapRequests_empty h.requests]
  exact h

/-- With no request, the close changes what is served in the first step alone, up to the batch that it makes: each loop over
requests is empty, and what is queued toward the other packages leaves the serving state alone. -/
theorem doAdmissionClose_empty {v : Serving} (hreq : v.requests = []) (hstep : v.closed ≠ some step) :
    Leads (fun c => c.Serves v ∧ c.admits = true ∧ (c.rd R.SEQ_STEP_STEP + 1) % 2 ^ 32 = step) doAdmissionClose
      (Chip.ClosedEmpty step v.orders) := by
  refine Leads.get fun c ⟨h, ha, hnext⟩ => ⟨_, h, ?_⟩
  dsimp only
  have hopen : (!c.admits || c.serving.closed == some step) ≠ true := by simp [ha, h.serving, hstep]
  rw [hnext, if_neg hopen]
  refine Leads.bind (reachBeat_serves v _) fun _ => Leads.bind (Q := Chip.Closing step v.orders) ?begin fun _ => ?_
  case begin => exact fun d h => ⟨h.calm, (congrArg (·.requests) h.serving).trans hreq, rfl, congrArg (·.orders) h.serving⟩
  refine Leads.bind closeEnds_closing fun _ => Leads.get fun c h => ⟨_, h, ?_⟩
  refine Leads.bind (Q := Chip.Closing step v.orders) (fun d h => ⟨h.calm, h.requests, h.closed, h.orders⟩) fun _ => ?_
  refine Leads.bind (mapRequests_closing _) fun _ => Leads.get fun c h => ⟨_, h, ?_⟩
  rw [h.requests, forM_nil, pure_bind]
  refine Leads.get fun c h => ⟨_, h, ?_⟩
  simp only [Chip.inOrder_empty h.requests, foldM_, pure_bind]
  refine Leads.bind (mapRequests_closing _) fun _ => Leads.get fun c h => ⟨_, h, ?_⟩
  refine Leads.bind (Q := Chip.ClosedEmpty step v.orders) ?batch fun _ => ?_
  case batch => exact fun d g => ⟨g.calm, g.closed, rfl, _, by rw [← h.orders]; rfl⟩
  refine Leads.bind (Chip.ClosedEmpty.of_serves fun v => toPackages_serves v _) fun _ => ?_
  split
  · exact fun d g => ⟨g.calm, g.closed, g.taken, g.batch⟩
  · exact Chip.ClosedEmpty.of_serves fun v => enqueue_serves v _

end

section
variable {s : State} (hr : s.chip.runs = true) (hc : s.chip.calm = true)
include hr hc

theorem admissionClose_completes (ha : s.chip.admits = true)
    (hclosed : s.chip.serving.closed ≠ some ((s.chip.rd R.SEQ_STEP_STEP + 1) % 2 ^ 32)) (hreq : s.chip.serving.requests = []) :
    Completes .admissionClose s fun t => t.serving.closed = some ((s.chip.rd R.SEQ_STEP_STEP + 1) % 2 ^ 32) ∧
      t.serving.orders = [] ∧
      ∃ gen, t.serving.batchIn = some ⟨(s.chip.rd R.SEQ_STEP_STEP + 1) % 2 ^ 32, gen, [], s.chip.serving.orders⟩ :=
  act_leads hr (doAdmissionClose_empty hreq hclosed) ⟨⟨hc, rfl⟩, ha, rfl⟩ (fun _ h => h.calm)
    fun _ _ _ h => ⟨h.closed, h.taken, h.batch⟩

theorem stepStartPost_becomes (hs : s.chip.stepping = true) (hn : s.chip.seq.next.isSome = true) (hh : s.chip.holdCause = 0) :
    Becomes .stepStartPost s { s.chip with seq := { s.chip.seq with posted := true } } :=
  act_makes hr hc (doStepStartPost_run (c := { s.chip with sent := [] }) hs hn hh)

end

theorem tagwrapDone_becomes {s : State} {t : Nat} (hr : s.chip.runs = true)
    (h : s.chip.flag R.SPAD_STATUS_TAGWRAP (tileOff t) = true) (hw : (s.chip.tile t).wrapWait = []) : Becomes (.tagwrapDone t) s
      (((s.chip.onTile t fun x => { x with tags := [], tagSplit := [] }).wr R.SPAD_STATUS_TAGWRAP (tileOff t) 0).wr
        R.SPAD_GEN_COUNTER_GEN (tileOff t) 0) :=
  take_becomes hr (by rw [doTagwrapDone_run (c := { s.chip with sent := [] }) h hw]; rfl)

/-- Settles O19, each clause by what its command does. -/
theorem stepPreparationEvents : Obligations.StepPreparationEvents := by
  unfold Obligations.StepPreparationEvents
  intro s hr hc
  refine ⟨?post, ?close, ?batch, ?params, ?results, ?batchFlit, ?paramsFlit, ?resultsFlit, ?wrap⟩
  case post => exact fun hs hn hh => stepStartPost_becomes hr hc hs hn hh
  case close => exact fun ha hclosed hreq _ => admissionClose_completes hr hc ha hclosed hreq
  case batch => exact fun b => deliver_own hr hc (.batch b)
  case params => exact fun k rs => deliver_own hr hc (.params k rs)
  case results => exact fun k rs => deliver_own hr hc (.results k rs)
  case batchFlit => exact fun _ _ ht => deliver_flit hr hc ht
  case paramsFlit => exact fun _ _ _ ht => deliver_flit hr hc ht
  case resultsFlit => exact fun _ _ _ ht => deliver_flit hr hc ht
  case wrap => exact fun _ h hw => tagwrapDone_becomes hr h hw

end Sys2Proof.Machine
end

section
/-! SUPPORT. The lane groups of the torus ports: where their registers stand, and what writing one of them, or a link, leaves
alone. -/
namespace Sys2Proof.Machine

/-! ## Two fields of one window -/

/-- The place of a field within its window. -/
def Fld.place (f : Fld) : Nat := f.addr * 64 + f.lsb

theorem regKey_eq_place (f : Fld) (o : Nat) : regKey f o = f.place + 64 * o := by
  simp only [regKey, Fld.place]
  omega

theorem regKey_ne_of_place {f g : Fld} (h : f.place ≠ g.place) (o : Nat) : regKey f o ≠ regKey g o := by
  simp only [regKey_eq_place]
  omega

/-- A field reads as before once another of its window is written. -/
theorem Chip.rd_wr_window {f g : Fld} (h : g.place ≠ f.place) (c : Chip) (o v : Nat) : (c.wr f o v).rd g o = c.rd g o :=
  Chip.rd_wr_other (regKey_ne_of_place h o) c v

/-- What a counter of 32 bits shows after an event, where it wraps and where it stays at its largest value. -/
theorem Chip.rd_bump_wraps {f : Fld} (hw : f.wraps = true) (c : Chip) (o n : Nat) :
    (c.bump f o n).rd f o = (c.rd f o + n) % 2 ^ f.width := by
  rw [Chip.bump, Chip.rd_wr_same, Fld.count, if_pos hw, Nat.mod_mod]

theorem Chip.rd_bump_stays {f : Fld} (hw : f.wraps = false) (c : Chip) (o n : Nat) :
    (c.bump f o n).rd f o = min (c.rd f o + n) (2 ^ f.width - 1) := by
  rw [Chip.bump, Chip.rd_wr_same, Fld.count, hw, if_neg Bool.false_ne_true]
  exact Nat.mod_eq_of_lt (Nat.lt_of_le_of_lt (Nat.min_le_right ..) (Nat.sub_lt (Nat.two_pow_pos _) Nat.one_pos))

/-! ## Links -/

theorem onLink_withLink (g : Nat) (f : Link → Link) (c : Chip) : (onLink g f).run c = ((), c.withLink g (f (c.link g))) := rfl

@[simp] theorem Chip.wr_link (c : Chip) (f : Fld) (o v g : Nat) : (c.wr f o v).link g = c.link g := rfl
@[simp] theorem Chip.bump_link (c : Chip) (f : Fld) (o n g : Nat) : (c.bump f o n).link g = c.link g := rfl
@[simp] theorem Chip.withLink_rd (c : Chip) (g : Nat) (l : Link) (f : Fld) (o : Nat) : (c.withLink g l).rd f o = c.rd f o := rfl
@[simp] theorem Chip.withLink_link (c : Chip) (g : Nat) (l : Link) : (c.withLink g l).link g = l := Tbl.get_put_same ..

theorem Chip.withLink_link_other {g h : Nat} (hg : h ≠ g) (c : Chip) (l : Link) : (c.withLink g l).link h = c.link h :=
  Tbl.get_put_other hg ..

/-! ## What waits for the reactions, and tiles -/

@[simp] theorem Chip.wr_calm (c : Chip) (f : Fld) (o v : Nat) : (c.wr f o v).calm = c.calm := rfl
@[simp] theorem Chip.bump_calm (c : Chip) (f : Fld) (o n : Nat) : (c.bump f o n).calm = c.calm := rfl
@[simp] theorem Chip.withLink_calm (c : Chip) (g : Nat) (l : Link) : (c.withLink g l).calm = c.calm := rfl

@[simp] theorem Chip.onTile_calm (c : Chip) (t : Nat) (f : Tile → Tile) : (c.onTile t f).calm = c.calm := rfl
@[simp] theorem Chip.wr_tile (c : Chip) (f : Fld) (o v t : Nat) : (c.wr f o v).tile t = c.tile t := rfl

end Sys2Proof.Machine
end

section
/-! SUPPORT. Lane groups: which register fields an operation on a group writes, and what it makes of the group's state and link;
triggers of the event recorder and clamp events leave them alone. -/
namespace Sys2Proof.Machine

/-! ## Where the registers of a lane group and of its port stand (R249) -/

/-- A field of a lane group's window. -/
def Fld.inGroup (f : Fld) : Bool :=
  decide (R.TORUS_GRP_STATE_STATE.addr ≤ f.addr ∧ f.addr < R.TORUS_GRP_STATE_STATE.addr + 0x80 ∧ f.lsb < 64)

/-- The fields that show what the groups of a port are. -/
def portFlds : List Fld := [R.TORUS_PORT_STATUS_DEFINED, R.TORUS_PORT_STATUS_UP, R.TORUS_PORT_STATUS_WIDE]

theorem Fld.inGroup_iff {f : Fld} : f.inGroup = true ↔ 0xa000100 ≤ f.addr ∧ f.addr < 0xa000180 ∧ f.lsb < 64 := decide_eq_true_iff

/-- The windows of two groups stand apart. -/
theorem regKey_groups_ne {f f' : Fld} (hf : f.inGroup = true) (hf' : f'.inGroup = true) {g h : Nat} (hg : h ≠ g) :
    regKey f (lgOff h) ≠ regKey f' (lgOff g) := by
  rw [Fld.inGroup_iff] at hf hf'
  simp only [regKey, lgOff, grpOff]
  omega

theorem regKey_group_ne_port {f f' : Fld} (hf : f.inGroup = true) (hf' : f' ∈ portFlds) (g p : Nat) :
    regKey f (lgOff g) ≠ regKey f' (grpOff p 0) := by
  rw [Fld.inGroup_iff] at hf
  simp only [portFlds, List.mem_cons, List.not_mem_nil, or_false] at hf'
  rcases hf' with rfl | rfl | rfl <;> simp only [regKey, lgOff, grpOff, R.TORUS_PORT_STATUS_DEFINED, R.TORUS_PORT_STATUS_UP,
    R.TORUS_PORT_STATUS_WIDE] <;> omega

theorem regKey_laser_ne_group {f : Fld} (hf : f.inGroup = true) (p g : Nat) :
    regKey R.TORUS_PORT_STATUS_LASER_LOW (grpOff p 0) ≠ regKey f (lgOff g) := by
  rw [Fld.inGroup_iff] at hf
  simp only [regKey, lgOff, grpOff, R.TORUS_PORT_STATUS_LASER_LOW]
  omega

/-- The keys of the fields `fs` of a group, and of what its port shows. -/
def groupKeys (fs : List Fld) (g k : Nat) : Prop :=
  (∃ f ∈ fs, k = regKey f (lgOff g)) ∨ ∃ f ∈ portFlds, k = regKey f (grpOff (g / 4) 0)

/-- A field of a group's window that is none of `fs`. -/
def Fld.apartFrom (f : Fld) (fs : List Fld) : Bool := f.inGroup && fs.all fun f' => decide (f.place ≠ f'.place)

theorem not_groupKeys_same {f : Fld} {fs : List Fld} (h : f.apartFrom fs = true) (g : Nat) : ¬groupKeys fs g (regKey f (lgOff g)) := by
  simp only [Fld.apartFrom, Bool.and_eq_true, List.all_eq_true, decide_eq_true_eq] at h
  rintro (⟨f', hf', he⟩ | ⟨f', hf', he⟩)
  · exact regKey_ne_of_place (h.2 f' hf') _ he
  · exact regKey_group_ne_port h.1 hf' _ _ he

theorem not_groupKeys_other {f : Fld} {fs : List Fld} (hf : f.inGroup = true) (hfs : fs.all Fld.inGroup = true) {g h : Nat} (hg : h ≠ g) :
    ¬groupKeys fs g (regKey f (lgOff h)) := by
  rintro (⟨f', hf', he⟩ | ⟨f', hf', he⟩)
  · exact regKey_groups_ne hf (List.all_eq_true.1 hfs f' hf') hg he
  · exact regKey_group_ne_port hf hf' _ _ he

/-- The register fields below those of the torus ports. -/
theorem not_groupKeys_below {f : Fld} {o : Nat} {fs : List Fld} (h : regKey f o < regKey R.TORUS_PORT_STATUS_UP 0)
    (hfs : fs.all Fld.inGroup = true) (g : Nat) : ¬groupKeys fs g (regKey f o) := by
  simp only [regKey, R.TORUS_PORT_STATUS_UP] at h
  rintro (⟨f', hf', he⟩ | ⟨f', hf', he⟩)
  · have hin := Fld.inGroup_iff.1 (List.all_eq_true.1 hfs f' hf')
    simp only [regKey] at he
    omega
  · simp only [portFlds, List.mem_cons, List.not_mem_nil, or_false] at hf'
    rcases hf' with rfl | rfl | rfl <;> simp only [regKey, R.TORUS_PORT_STATUS_DEFINED, R.TORUS_PORT_STATUS_UP,
      R.TORUS_PORT_STATUS_WIDE] at he <;> omega

/-! ## Effects on register fields alone -/

/-- The part `d` differs from `c` in register fields alone. -/
def Chip.sameButRegs (c d : Chip) : Prop := ∃ rs, d = { c with regs := rs }

theorem Chip.sameButRegs_refl (c : Chip) : c.sameButRegs c := ⟨_, rfl⟩

theorem wrM_sameButRegs {c : Chip} (f : Fld) (o v : Nat) : Keeps c.sameButRegs (wrM f o v) := by
  rintro _ ⟨_, rfl⟩
  exact ⟨_, rfl⟩

theorem bumpM_sameButRegs {c : Chip} (f : Fld) (o n : Nat) : Keeps c.sameButRegs (bumpM f o n) := by
  rintro _ ⟨_, rfl⟩
  exact ⟨_, rfl⟩

theorem Chip.sameButRegs.calm {c d : Chip} (h : c.sameButRegs d) : d.calm = c.calm := by
  obtain ⟨_, rfl⟩ := h
  rfl

/-! ## A group's state (R244) -/

theorem wrM_groupMods {fs : List Fld} {f : Fld} (hf : f ∈ fs) (g v : Nat) : Mods (groupKeys fs g) (wrM f (lgOff g) v) :=
  Mods.wrM (.inl ⟨f, hf, rfl⟩)

theorem onLink_mods {P : Nat → Prop} (g : Nat) (f : Link → Link) : Mods P (onLink g f) := Mods.modify fun _ => rfl

theorem showPort_mods (fs : List Fld) (g : Nat) : Mods (groupKeys fs g) (showPort (g / 4)) :=
  Mods.bind Mods.get fun _ => Mods.bind (Mods.wrM (.inr ⟨_, by simp [portFlds], rfl⟩)) fun _ =>
    Mods.bind (Mods.wrM (.inr ⟨_, by simp [portFlds], rfl⟩)) fun _ => Mods.wrM (.inr ⟨_, by simp [portFlds], rfl⟩)

theorem setGrpState_mods (g st : Nat) : Mods (groupKeys [R.TORUS_GRP_STATE_STATE] g) (setGrpState g st) :=
  Mods.bind (wrM_groupMods (by simp) g st) fun _ => showPort_mods _ g

/-- A group's state is written, and shown by its port; nothing but register fields changes. -/
theorem setGrpState_sameButRegs {c : Chip} (g st : Nat) : Keeps c.sameButRegs (setGrpState g st) :=
  Keeps.bind (wrM_sameButRegs _ _ _) fun _ => Keeps.bind Keeps.get fun _ => Keeps.bind (wrM_sameButRegs _ _ _) fun _ =>
    Keeps.bind (wrM_sameButRegs _ _ _) fun _ => wrM_sameButRegs _ _ _

@[simp] theorem setGrpState_link (g st h : Nat) (c : Chip) : ((setGrpState g st).run c).2.link h = c.link h := by
  obtain ⟨_, hd⟩ := setGrpState_sameButRegs g st c c.sameButRegs_refl
  rw [hd]
  rfl

theorem setGrpState_grpState {st : Nat} (hst : st < 8) (g : Nat) (c : Chip) : ((setGrpState g st).run c).2.grpState g = st := by
  rw [setGrpState, CM.run_seq, Chip.grpState, (showPort_mods [] g).rd (not_groupKeys_same (by decide) g), wrM_run, Chip.rd_wr_same]
  exact Nat.mod_eq_of_lt hst

theorem setGrpState_rd {f : Fld} (hf : f.apartFrom [R.TORUS_GRP_STATE_STATE] = true) (g st : Nat) (c : Chip) :
    ((setGrpState g st).run c).2.rd f (lgOff g) = c.rd f (lgOff g) := (setGrpState_mods g st).rd (not_groupKeys_same hf g) c

/-! ## Training (R223, R244) -/

/-- The state in which a group begins to train: without light it stays DOWN. -/
def Chip.trained (c : Chip) (g : Nat) : Nat := if c.lit g then grpTraining else grpDown

theorem Chip.trained_lt (c : Chip) (g : Nat) : c.trained g < 8 := by
  unfold Chip.trained
  split <;> decide

/-- A field of a group's window says nothing of the light. -/
theorem Chip.wr_trained {f : Fld} (hf : f.inGroup = true) (c : Chip) (g h v : Nat) : (c.wr f (lgOff g) v).trained h = c.trained h := by
  simp only [Chip.trained, Chip.lit, Chip.rd_wr_other (regKey_laser_ne_group hf _ _)]
  rfl

theorem Chip.bump_trained {f : Fld} (hf : f.inGroup = true) (c : Chip) (g h n : Nat) : (c.bump f (lgOff g) n).trained h = c.trained h :=
  Chip.wr_trained hf ..

theorem Chip.withLink_trained (c : Chip) (g h : Nat) (l : Link) : (c.withLink g l).trained h = c.trained h := rfl

/-- A link that begins to train keeps its queue, the count of its key's use, and its failed trainings. -/
def Link.training (l : Link) : Link := { noLink with queue := l.queue, count := l.count, trainFails := l.trainFails }

theorem trainGroup_run (g : Nat) (c : Chip) : (trainGroup g).run c = (setGrpState g (c.trained g)).run
    ((c.wr R.TORUS_GRP_PEER_VALID (lgOff g) 0).withLink g (c.link g).training) := by
  simp only [trainGroup, CM.get_bind, CM.run_seq, wrM_run, onLink_withLink, Chip.wr_link, Chip.trained, Link.training]

/-- The fields that a training writes as it begins. -/
def trainFlds : List Fld := [R.TORUS_GRP_STATE_STATE, R.TORUS_GRP_PEER_VALID]

theorem trainGroup_mods (g : Nat) : Mods (groupKeys trainFlds g) (trainGroup g) :=
  Mods.bind Mods.get fun _ => Mods.bind (wrM_groupMods (by simp [trainFlds]) g 0) fun _ => Mods.bind (onLink_mods g _) fun _ =>
    Mods.bind (wrM_groupMods (by simp [trainFlds]) g _) fun _ => showPort_mods _ g

theorem trainGroup_rd {f : Fld} (hf : f.apartFrom trainFlds = true) (g : Nat) (c : Chip) :
    ((trainGroup g).run c).2.rd f (lgOff g) = c.rd f (lgOff g) := (trainGroup_mods g).rd (not_groupKeys_same hf g) c

theorem trainGroup_grpState (g : Nat) (c : Chip) : ((trainGroup g).run c).2.grpState g = c.trained g := by
  rw [trainGroup_run, setGrpState_grpState (Chip.trained_lt c g)]

theorem trainGroup_link (g : Nat) (c : Chip) : ((trainGroup g).run c).2.link g = (c.link g).training := by
  rw [trainGroup_run, setGrpState_link, Chip.withLink_link]

theorem trainGroup_link_other {g h : Nat} (hg : h ≠ g) (c : Chip) : ((trainGroup g).run c).2.link h = c.link h := by
  rw [trainGroup_run, setGrpState_link, Chip.withLink_link_other hg, Chip.wr_link]

/-! ## What operations on groups leave alone -/

/-- The part `d` differs from `c` in register fields, links and event records alone. -/
def Chip.onlyGroups (c d : Chip) : Prop := ∃ rs ls rec, d = { c with regs := rs, links := ls, recorders := rec }

theorem Chip.onlyGroups_refl (c : Chip) : c.onlyGroups c := ⟨_, _, _, rfl⟩

theorem Chip.onlyGroups.calm {c d : Chip} (h : c.onlyGroups d) : d.calm = c.calm := by
  obtain ⟨_, _, _, rfl⟩ := h
  rfl

theorem Chip.onlyGroups.wr {c d : Chip} (h : c.onlyGroups d) (f : Fld) (o v : Nat) : c.onlyGroups (d.wr f o v) := by
  obtain ⟨_, _, _, rfl⟩ := h
  exact ⟨_, _, _, rfl⟩

theorem onLink_onlyGroups {c : Chip} (g : Nat) (f : Link → Link) : Keeps c.onlyGroups (onLink g f) := by
  rintro _ ⟨_, _, _, rfl⟩
  exact ⟨_, _, _, rfl⟩

theorem Chip.onlyGroups.of_sameButRegs {m : CM Unit} (hm : ∀ d, Keeps (Chip.sameButRegs d) m) (c : Chip) : Keeps c.onlyGroups m := by
  rintro d ⟨_, _, _, hd⟩
  obtain ⟨_, hrun⟩ := hm d d d.sameButRegs_refl
  rw [hrun, hd]
  exact ⟨_, _, _, rfl⟩

theorem trainGroup_onlyGroups {c : Chip} (g : Nat) : Keeps c.onlyGroups (trainGroup g) :=
  Keeps.bind Keeps.get fun _ => Keeps.bind (Keeps.wrM fun _ h => h.wr ..) fun _ => Keeps.bind (onLink_onlyGroups g _) fun _ =>
    Chip.onlyGroups.of_sameButRegs (fun _ => setGrpState_sameButRegs g _) c

/-! ## Triggers (R450), clamp events (R423) -/

/-- A trigger is recorded, or counted as lost. -/
theorem takeRecord_mods (d cls : Nat) (detail : List Nat) :
    Mods (· = regKey R.EVR_TRIG_LOST_COUNT (dieOff d)) (takeRecord d cls detail) :=
  Mods.bind Mods.get fun _ => Mods.ite (Mods.pure ()) (Mods.ite (Mods.bumpM rfl) (Mods.modify fun _ => rfl))

theorem takeRecord_run (d cls : Nat) (detail : List Nat) (c : Chip) : ∃ rs rec, (takeRecord d cls detail).run c =
    ((), { c with regs := rs, recorders := rec }) := by
  simp only [takeRecord, takeRecordSev, CM.get_bind]
  split
  · exact ⟨_, _, rfl⟩
  · split <;> exact ⟨_, _, rfl⟩

theorem regKey_group_ne_trigLost {f : Fld} (hf : f.inGroup = true) (g d : Nat) :
    regKey f (lgOff g) ≠ regKey R.EVR_TRIG_LOST_COUNT (dieOff d) := by
  rw [Fld.inGroup_iff] at hf
  simp only [regKey, lgOff, grpOff, dieOff, R.EVR_TRIG_LOST_COUNT]
  omega

/-- The keys of a clamp event of a source. -/
def clampKeys (src k : Nat) : Prop := k = regKey R.FAULT_CLAMP_COUNT (4 * src) ∨ ∃ f ∈ clampFlds, k = regKey f 0

theorem clampEvent_mods (src session place : Nat) : Mods (clampKeys src) (clampEvent src session place) := by
  refine Mods.bind (Mods.bumpM (.inl rfl)) fun _ => Mods.bind (Mods.wrM (.inr ⟨_, ?_, rfl⟩)) fun _ =>
    Mods.bind (Mods.wrM (.inr ⟨_, ?_, rfl⟩)) fun _ => Mods.bind (Mods.wrM (.inr ⟨_, ?_, rfl⟩)) fun _ => Mods.wrM (.inr ⟨_, ?_, rfl⟩)
  all_goals simp [clampFlds]

theorem clampEvent_sameButRegs {c : Chip} (src session place : Nat) : Keeps c.sameButRegs (clampEvent src session place) :=
  Keeps.bind (bumpM_sameButRegs _ _ _) fun _ => Keeps.bind (wrM_sameButRegs _ _ _) fun _ => Keeps.bind (wrM_sameButRegs _ _ _) fun _ =>
    Keeps.bind (wrM_sameButRegs _ _ _) fun _ => wrM_sameButRegs _ _ _

/-- A clamp event is counted against its source, of which there are six. -/
theorem clampEvent_count {src : Nat} (hsrc : src < 6) (session place : Nat) (c : Chip) :
    ((clampEvent src session place).run c).2.rd R.FAULT_CLAMP_COUNT (4 * src) =
      min (c.rd R.FAULT_CLAMP_COUNT (4 * src) + 1) (2 ^ 32 - 1) := by
  have hne {f : Fld} (hf : f ∈ clampFlds) : regKey R.FAULT_CLAMP_COUNT (4 * src) ≠ regKey f 0 := by
    simp only [clampFlds, List.mem_cons, List.not_mem_nil, or_false] at hf
    rcases hf with rfl | rfl | rfl | rfl <;> simp only [regKey, R.FAULT_CLAMP_COUNT, R.FAULT_CLAMP_SRC_VALID,
      R.FAULT_CLAMP_SRC_SESSION, R.FAULT_CLAMP_SRC_SOURCE, R.FAULT_CLAMP_ADDR_WHERE] <;> omega
  simp only [clampEvent, CM.run_seq, bumpM_run, wrM_run]
  rw [Chip.rd_wr_other (hne (by simp [clampFlds])), Chip.rd_wr_other (hne (by simp [clampFlds])),
    Chip.rd_wr_other (hne (by simp [clampFlds])), Chip.rd_wr_other (hne (by simp [clampFlds])), Chip.rd_bump_stays rfl]
  rfl

theorem not_clampKeys_group {f : Fld} (hf : f.inGroup = true) {src g : Nat} (hg : g < 32) : ¬clampKeys src (regKey f (lgOff g)) := by
  rw [Fld.inGroup_iff] at hf
  rintro (he | ⟨f', hf', he⟩)
  · simp only [regKey, lgOff, grpOff, R.FAULT_CLAMP_COUNT] at he
    omega
  · simp only [clampFlds, List.mem_cons, List.not_mem_nil, or_false] at hf'
    rcases hf' with rfl | rfl | rfl | rfl <;> simp only [regKey, lgOff, grpOff, R.FAULT_CLAMP_SRC_VALID,
      R.FAULT_CLAMP_SRC_SESSION, R.FAULT_CLAMP_SRC_SOURCE, R.FAULT_CLAMP_ADDR_WHERE] at he <;> omega

end Sys2Proof.Machine
end

section
/-! Settles the statement on torus flits for the package: what a tile's port does with a packet that has arrived on its die, what the
package does with a flit of its job, and from it each clause. -/
namespace Sys2Proof.Machine

theorem Chip.received_tile (c : Chip) (h : Hdr) (t : Nat) : (c.received h).tile t = c.tile t := by
  unfold Chip.received
  cases h.corrected <;> rfl

theorem Chip.received_tiles (c : Chip) (h : Hdr) : (c.received h).tiles = c.tiles := by
  unfold Chip.received
  cases h.corrected <;> rfl

theorem Chip.received_tack (c : Chip) (h : Hdr) : (c.received h).tack = c.tack := by
  unfold Chip.received
  cases h.corrected <;> rfl

theorem Chip.received_copyParts (c : Chip) (h : Hdr) : (c.received h).copyParts = c.copyParts := by
  unfold Chip.received
  cases h.corrected <;> rfl

theorem Chip.received_seq (c : Chip) (h : Hdr) : (c.received h).seq = c.seq := by
  unfold Chip.received
  cases h.corrected <;> rfl

theorem Chip.received_downDone (c : Chip) (h : Hdr) : (c.received h).downDone = c.downDone := by
  unfold Chip.received
  cases h.corrected <;> rfl

theorem Chip.received_shardIn (c : Chip) (h : Hdr) : (c.received h).shardIn = c.shardIn := by
  unfold Chip.received
  cases h.corrected <;> rfl

/-! ## Packets at a tile's port (R151, R217, R230) -/

/-- A packet of a tile's die is at its port at once, held by nobody off the die. -/
theorem carry_here {p : Packet} {die : Nat} {c : Chip} (hn : p.dest.node = c.node) (hd : p.dest.die = die) :
    (carry die p).run c = (reachDie 8 p).run c := by
  rw [carry, CM.get_bind, if_neg (not_not_intro hn), if_pos hd]

theorem showFill_run (t : Nat) (c : Chip) :
    (showFill t).run c = ((), c.wr R.SPAD_STATUS_DELIV_FILL (tileOff t) (c.tile t).buffer.length) := rfl

/-- A tile with the end of a packet's origin marked at its receive of a tag, where that goes on. -/
def Tile.endMarked (x : Tile) (tag : Nat) (origin : Place) : Tile :=
  x.onRecv tag fun q => if q.done then q else { q with ends := q.ends ++ [origin] }

/-- A tile with lines more in its delivery buffer. -/
def Tile.taking (x : Tile) (ls : List Buffered) : Tile := { x with buffer := x.buffer ++ ls }

/-- The lines that a packet of this body brings to a tile's delivery buffer. -/
def Packet.buffered (p : Packet) (holder slot tag first : Nat) (direct : Bool) (gen : Nat) (data : List (List Nat)) : List Buffered :=
  ((upFrom first data.length).zip data).map fun e => ⟨slot, tag, e.1, gen, direct, p.src, p.index, p.total, p.replay, holder, e.2⟩

section
variable {p : Packet} {t : Nat} {c : Chip} (ht : p.dest.die * 48 + p.dest.tile = t) (hst : c.tileState t ≠ tileShelved)
  (hrep : c.replayNow ≤ p.replay)
include ht hst hrep

/-- A tile in service takes the lines of a packet of this run or a later one into its delivery buffer. -/
theorem reachDie_lines {holder slot tag first gen : Nat} {direct : Bool} {data : List (List Nat)}
    (hb : p.body = .lines slot tag first direct gen data) : 
    (reachDie holder p).run c = (showFill t).run (c.onTile t (·.taking (p.buffered holder slot tag first direct gen data))) := by
  have hnew : (c.jobRuns && decide (p.replay < c.replayNow)) = false := by simp [Nat.not_lt.2 hrep]
  simp only [reachDie, hb, reachTile, CM.get_bind, ht, hst, if_false, hnew, Bool.false_eq_true, CM.run_seq, onTileM_run]
  rfl

/-- A tile in service marks the end of a packet's origin. -/
theorem reachDie_endMark {holder tag : Nat} (hb : p.body = .endMark tag) :
    (reachDie holder p).run c = ((), c.onTile t (·.endMarked tag p.src)) := by
  have hnew : (c.jobRuns && decide (p.replay < c.replayNow)) = false := by simp [Nat.not_lt.2 hrep]
  simp only [reachDie, hb, reachTile, CM.get_bind, ht, hst, if_false, hnew, Bool.false_eq_true, onTileM_run]
  rfl

end

/-! ## The lines of a copy (R230) -/

theorem Tbl.length_insert_le {α : Type} (x : Nat) (v : α) (m : Map α) : (Tbl.insert x v m).length ≤ m.length + 1 := by
  induction m with
  | nil => exact Nat.le_refl _
  | cons e t ih =>
    rw [Tbl.insert]
    split
    · exact Nat.le_refl _
    · split
      · exact Nat.le_succ _
      · exact Nat.succ_le_succ ih

/-- A table has at most one entry more for each insertion. -/
theorem Tbl.length_inserts_le {α : Type} (es : List (Nat × α)) (m : Map α) :
    (es.foldl (fun m e => Tbl.insert e.1 e.2 m) m).length ≤ m.length + es.length := by
  induction es generalizing m with
  | nil => exact Nat.le_refl _
  | cons e t ih =>
    have hstep := Tbl.length_insert_le e.1 e.2 m
    have hrest := ih (Tbl.insert e.1 e.2 m)
    simp only [List.foldl_cons, List.length_cons]
    omega

/-- The lines of a copy's first flit, by their numbers. -/
def numberedLines (line : Nat) (lines : List (List Nat)) : Map (List Nat) :=
  ((upFrom line lines.length).zip lines).foldl (fun m e => Tbl.insert e.1 e.2 m) []

theorem numberedLines_length_le (line : Nat) (lines : List (List Nat)) : (numberedLines line lines).length ≤ lines.length := by
  have h := Tbl.length_inserts_le ((upFrom line lines.length).zip lines) []
  simpa [numberedLines, upFrom_eq_range'] using h

/-! ## Flits of the package's job (R230, R231) -/

/-- The lines that a DATA flit brings to the delivery buffer of its tile, under the generation `gen`. -/
def Delivery.buffered (dl : Delivery) (o : Origin) (line gen : Nat) (lines : List (List Nat)) : List Buffered :=
  ((upFrom line lines.length).zip lines).map fun e =>
    ⟨dl.slot, dl.tag, e.1, gen, decide (dl.slot ≠ 0), o.src, o.index, o.total, dl.replay, 8, e.2⟩

theorem ofJob_run {h : Hdr} {c : Chip} (hs : 2 ≤ c.rd R.SEQ_STATE_STATE) (hj : h.job = c.rd R.SEQ_JOB_JOB) :
    (ofJob h).run c = (true, c) := by
  rw [ofJob, CM.get_bind, if_pos ⟨hs, hj⟩, CM.run_pure]

/-- What a command does with a flit of the package's job that it takes. -/
def onJobFlit (h : Hdr) (b : FlitBody) (m : CM Unit) : CM Unit := do
  let mine ← receiveFlit h b
  if mine then do
    let ok ← ofJob h
    if ok then m else pure ()
  else pure ()

/-- The effect of a flit of the package's job is that of its own part in the part as it has received the flit. -/
theorem onJobFlit_run {h : Hdr} {b : FlitBody} {c : Chip} (m : CM Unit) (ht : c.takesFlit h b = true)
    (hs : 2 ≤ (c.received h).rd R.SEQ_STATE_STATE) (hj : h.job = (c.received h).rd R.SEQ_JOB_JOB) :
    (onJobFlit h b m).run c = m.run (c.received h) := by
  rw [onJobFlit, CM.run_bind, receiveFlit_takes ht, if_pos rfl, CM.run_bind, ofJob_run hs hj]
  rfl

section
variable {h : Hdr} {dl : Delivery} {c : Chip} (hs : 2 ≤ (c.received h).rd R.SEQ_STATE_STATE)
  (hj : h.job = (c.received h).rd R.SEQ_JOB_JOB)
include hs hj

/-- The lines of a copy are held while some have not come. -/
theorem doCopy_waits {o : Origin} {idx line : Nat} {r : CopyRec} {lines : List (List Nat)}
    (ht : c.takesFlit h (.copy dl o idx line r lines) = true) (hl : lines.length < o.total) (hp : c.copyParts = []) :
    (doCopy h dl o idx line r lines).run c =
      ((), { c.received h with copyParts := [⟨dl, o, idx, r, numberedLines line lines⟩] }) := by
  have hmore : ¬o.total ≤ (numberedLines line lines).length :=
    Nat.not_le.2 (Nat.lt_of_le_of_lt (numberedLines_length_le line lines) hl)
  refine (onJobFlit_run _ ht hs hj).trans ?_
  rw [CM.get_bind, Chip.received_copyParts, hp]
  change (if o.total ≤ (numberedLines line lines).length then _ else _ : CM Unit).run _ = _
  rw [if_neg hmore, CM.run_modify, Chip.received_copyParts, hp]
  rfl

variable (hd : dl.die = shareDie (h.port * 4 + h.group))
  (hst : (c.received h).tileState (dl.die * 48 + dl.tile) ≠ tileShelved) (hrep : (c.received h).replayNow ≤ dl.replay)
include hd hst hrep

/-- Lines for a slot of a tile on the die of the group's share come straight into the tile's delivery buffer. -/
theorem doData_run {o : Origin} {line : Nat} {lines : List (List Nat)} (ht : c.takesFlit h (.data dl o line lines) = true) :
    (doData h dl o line lines).run c = (showFill (dl.die * 48 + dl.tile)).run
      ((c.received h).onTile (dl.die * 48 + dl.tile) (·.taking (dl.buffered o line
        ((c.received h).rd R.SPAD_SLOT_GEN_GEN (slotOff (dl.die * 48 + dl.tile) dl.slot)) lines))) := by
  refine (onJobFlit_run _ ht hs hj).trans ?_
  rw [CM.get_bind]
  dsimp only
  rw [fromStation, carry_here (by rfl) hd, reachDie_lines (by rfl) hst hrep (by rfl)]
  rfl

/-- What such lines change: the tile's delivery buffer, and not its scratchpad. -/
theorem doData_buffers {o : Origin} {line : Nat} {lines : List (List Nat)} (ht : c.takesFlit h (.data dl o line lines) = true) :
    let d := ((doData h dl o line lines).run c).2
    d.calm = c.calm ∧ (d.tile (dl.die * 48 + dl.tile)).buffer = (c.tile (dl.die * 48 + dl.tile)).buffer ++ dl.buffered o line
      ((c.received h).rd R.SPAD_SLOT_GEN_GEN (slotOff (dl.die * 48 + dl.tile) dl.slot)) lines ∧
    (d.tile (dl.die * 48 + dl.tile)).mem = (c.tile (dl.die * 48 + dl.tile)).mem := by
  have htile := Chip.tile_onTile (c.received h) (dl.die * 48 + dl.tile) (·.taking (dl.buffered o line
    ((c.received h).rd R.SPAD_SLOT_GEN_GEN (slotOff (dl.die * 48 + dl.tile) dl.slot)) lines))
  rw [doData_run hs hj hd hst hrep ht, showFill_run, ← Chip.received_tile c h, ← Chip.received_calm c h]
  dsimp only
  rw [Chip.wr_calm, Chip.onTile_calm, Chip.wr_tile, htile]
  exact ⟨rfl, rfl, rfl⟩

/-- An end marker for a tile on the die of the group's share comes straight to the receive of its tag. -/
theorem doEnd_run {origin : Place} {n : Nat} (ht : c.takesFlit h (.endMark dl origin n) = true) :
    (doEnd h dl origin n).run c = ((), (c.received h).onTile (dl.die * 48 + dl.tile) (·.endMarked dl.tag origin)) := by
  refine (onJobFlit_run _ ht hs hj).trans ?_
  rw [CM.get_bind, fromStation, carry_here (by rfl) hd, reachDie_endMark (by rfl) hst hrep (by rfl)]
  rfl

end

/-- An acknowledgement record whose send waits at the tile becomes the send's acknowledgement. -/
theorem ackdToTack_run {q : AckdRec} {e : Outstanding} {c : Chip} (h : (c.tile (q.die * 48 + q.tile)).sends.find? (fun e =>
      decide (e.dest.node ≠ c.node) && decide (Tbl.get 0 (c.tile (q.die * 48 + q.tile)).sendTag
        (c.rd R.TILE_STATE_BANK (tileOff (q.die * 48 + q.tile)) * 16384 + e.index) = q.tag)) = some e) :
    (ackdToTack q).run c = ((), { c with tack := c.tack ++ [.ack ⟨⟨c.node, q.die, q.tile⟩, e.dest, e.index, q.tag, q.step, q.replay⟩] }) := by
  rw [ackdToTack, CM.get_bind]
  simp only [h]
  rfl

/-- A DONE of the run that goes on travels down the tree. -/
theorem doPegFlit_done {h : Hdr} {m : PegMsg} {c : Chip} (ht : c.takesFlit h (.peg m) = true) (hs : (c.received h).stepping = true)
    (hn : c.seq.next = none) (hstep : m.step = (c.received h).rd R.SEQ_STEP_STEP)
    (hrep : m.replay = (c.received h).rd R.FAULT_STATUS_REPLAY) (hd : m.done = true) :
    (doPegFlit h m).run c = ((), { c.received h with downDone := c.downDone ++ [(4, 0)] }) := by
  have hgoes : (!(c.received h).stepping || (c.received h).seq.next.isSome || decide (m.step ≠ (c.received h).rd R.SEQ_STEP_STEP ∨
      m.replay ≠ (c.received h).rd R.FAULT_STATUS_REPLAY)) = false := by
    simp [hs, Chip.received_seq, hn, hstep, hrep]
  rw [doPegFlit, CM.run_bind, receiveFlit_takes ht, if_pos rfl, CM.get_bind, hgoes, if_neg Bool.false_ne_true, if_pos hd,
    CM.run_modify, Chip.received_downDone]

/-! ## SHARD fragments (R347) -/

/-- The bytes of a fragment's stream that have come before it. -/
def Chip.shardSoFar (c : Chip) (g : Nat) (f : ShardFrag) : List Nat := if f.offset = 0 then [] else Tbl.get [] c.shardIn g

section
variable {h : Hdr} {f : ShardFrag} {c : Chip} (ht : c.takesFlit h (.shard f) = true)
include ht

theorem doShardFlit_broken (ho : (c.shardSoFar (h.port * 4 + h.group) f).length ≠ f.offset) :
    (doShardFlit h f).run c = ((), { c.received h with shardIn := Tbl.erase (h.port * 4 + h.group) c.shardIn }) := by
  unfold Chip.shardSoFar at ho
  rw [doShardFlit, CM.run_bind, receiveFlit_takes ht, if_pos rfl, CM.get_bind, Chip.received_shardIn]
  simp only [if_pos ho, CM.run_modify, Chip.received_shardIn]

theorem doShardFlit_short (ho : (c.shardSoFar (h.port * 4 + h.group) f).length = f.offset)
    (hl : (c.shardSoFar (h.port * 4 + h.group) f ++ f.bytes).length < 32) :
    (doShardFlit h f).run c = ((), { c.received h with
      shardIn := Tbl.put [] c.shardIn (h.port * 4 + h.group) (c.shardSoFar (h.port * 4 + h.group) f ++ f.bytes) }) := by
  unfold Chip.shardSoFar at ho hl ⊢
  rw [doShardFlit, CM.run_bind, receiveFlit_takes ht, if_pos rfl, CM.get_bind, Chip.received_shardIn]
  simp only [ho, ne_eq, not_true_eq_false, if_false, Nat.not_le.2 hl, false_and, CM.run_modify, Chip.received_shardIn]

end

/-! ## The statement's clauses, each by what its command does -/

section
variable {s : State} {h : Hdr} (hr : s.chip.runs = true) (hc : s.chip.calm = true)
include hr hc

theorem shardFlit_broken {f : ShardFrag} (ht : s.chip.takesFlit h (.shard f) = true)
    (ho : (s.chip.shardSoFar (h.port * 4 + h.group) f).length ≠ f.offset) : Becomes (.shardFlit h f) s
      { s.chip.received h with shardIn := Tbl.erase (h.port * 4 + h.group) s.chip.shardIn } :=
  act_makes hr ((Chip.received_calm s.chip h).trans hc)
    ((doShardFlit_broken (c := { s.chip with sent := [] }) ht ho).trans (by rw [Chip.received_sent]))

theorem shardFlit_short {f : ShardFrag} (ht : s.chip.takesFlit h (.shard f) = true)
    (ho : (s.chip.shardSoFar (h.port * 4 + h.group) f).length = f.offset)
    (hl : (s.chip.shardSoFar (h.port * 4 + h.group) f ++ f.bytes).length < 32) : Becomes (.shardFlit h f) s
      { s.chip.received h with
        shardIn := Tbl.put [] s.chip.shardIn (h.port * 4 + h.group) (s.chip.shardSoFar (h.port * 4 + h.group) f ++ f.bytes) } :=
  act_makes hr ((Chip.received_calm s.chip h).trans hc)
    ((doShardFlit_short (c := { s.chip with sent := [] }) ht ho hl).trans (by rw [Chip.received_sent]; rfl))

theorem pegFlit_done {m : PegMsg} (ht : s.chip.takesFlit h (.peg m) = true) (hs : (s.chip.received h).stepping = true)
    (hn : s.chip.seq.next = none) (hstep : m.step = (s.chip.received h).rd R.SEQ_STEP_STEP)
    (hrep : m.replay = (s.chip.received h).rd R.FAULT_STATUS_REPLAY) (hd : m.done = true) :
    Becomes (.peg h m) s { s.chip.received h with downDone := s.chip.downDone ++ [(4, 0)] } := by
  refine act_makes hr ((Chip.received_calm s.chip h).trans hc) ((doPegFlit_done (c := { s.chip with sent := [] }) ht ?_ hn ?_ ?_ hd).trans ?_)
  all_goals rw [Chip.received_sent]
  · exact hs
  · exact hstep
  · exact hrep

end

section
variable {s : State} {h : Hdr} {dl : Delivery} (hs : 2 ≤ (s.chip.received h).rd R.SEQ_STATE_STATE)
  (hj : h.job = (s.chip.received h).rd R.SEQ_JOB_JOB) (hr : s.chip.runs = true) (hc : s.chip.calm = true)
include hs hj hr hc

theorem copy_waits {o : Origin} {idx line : Nat} {r : CopyRec} {lines : List (List Nat)}
    (ht : s.chip.takesFlit h (.copy dl o idx line r lines) = true) (hl : lines.length < o.total) (hp : s.chip.copyParts = []) :
    Completes (.copy h dl o idx line r lines) s fun d => ∃ m, d.copyParts = [⟨dl, o, idx, r, m⟩] ∧ d.tiles = s.chip.tiles := by
  have hrun := doCopy_waits (c := { s.chip with sent := [] }) (by rw [Chip.received_sent]; exact hs)
    (by rw [Chip.received_sent]; exact hj) ht hl hp
  rw [Chip.received_sent] at hrun
  exact act_effect hr (congrArg Prod.snd hrun) ((Chip.received_calm s.chip h).trans hc)
    fun _ _ => ⟨_, rfl, Chip.received_tiles s.chip h⟩

theorem ackd_becomes {q : AckdRec} {e : Outstanding} (ht : s.chip.takesFlit h (.ackd [q]) = true)
    (he : (s.chip.tile (q.die * 48 + q.tile)).sends.find? (fun e => decide (e.dest.node ≠ (s.chip.received h).node) &&
      decide (Tbl.get 0 (s.chip.tile (q.die * 48 + q.tile)).sendTag
        ((s.chip.received h).rd R.TILE_STATE_BANK (tileOff (q.die * 48 + q.tile)) * 16384 + e.index) = q.tag)) = some e) :
    Becomes (.ackd h [q]) s { s.chip.received h with tack := s.chip.tack ++
      [.ack ⟨⟨(s.chip.received h).node, q.die, q.tile⟩, e.dest, e.index, q.tag, q.step, q.replay⟩] } := by
  have hrun : (doAckd h [q]).run { s.chip with sent := [] } = (ackdToTack q).run { s.chip.received h with sent := [] } := by
    rw [← Chip.received_sent]
    exact onJobFlit_run (b := .ackd [q]) (forM_ [q] ackdToTack) ht (by rw [Chip.received_sent]; exact hs)
      (by rw [Chip.received_sent]; exact hj)
  rw [← Chip.received_tile s.chip h] at he
  rw [ackdToTack_run (c := { s.chip.received h with sent := [] }) he] at hrun
  refine act_makes hr ((Chip.received_calm s.chip h).trans hc) (hrun.trans ?_)
  rw [← Chip.received_tack s.chip h]
  rfl

variable (hd : dl.die = shareDie (h.port * 4 + h.group))
  (hst : (s.chip.received h).tileState (dl.die * 48 + dl.tile) ≠ tileShelved) (hrep : (s.chip.received h).replayNow ≤ dl.replay)
include hd hst hrep

theorem data_completes {o : Origin} {line : Nat} {lines : List (List Nat)}
    (ht : s.chip.takesFlit h (.data dl o line lines) = true) : Completes (.data h dl o line lines) s fun d =>
      (d.tile (dl.die * 48 + dl.tile)).buffer = (s.chip.tile (dl.die * 48 + dl.tile)).buffer ++ dl.buffered o line
        ((s.chip.received h).rd R.SPAD_SLOT_GEN_GEN (slotOff (dl.die * 48 + dl.tile) dl.slot)) lines ∧
      (d.tile (dl.die * 48 + dl.tile)).mem = (s.chip.tile (dl.die * 48 + dl.tile)).mem := by
  have hsent := Chip.received_sent s.chip h
  obtain ⟨hcalm, hbuffer, hmem⟩ := doData_buffers (c := { s.chip with sent := [] }) (by rw [hsent]; exact hs)
    (by rw [hsent]; exact hj) hd (by rw [hsent]; exact hst) (by rw [hsent]; exact hrep) ht
  rw [hsent] at hbuffer
  exact act_effect hr rfl (hcalm.trans hc) fun _ _ => ⟨hbuffer, hmem⟩

theorem endMark_completes {origin : Place} {n : Nat} (ht : s.chip.takesFlit h (.endMark dl origin n) = true) :
    Completes (.endMark h dl origin n) s fun d =>
      d.tile (dl.die * 48 + dl.tile) = (s.chip.tile (dl.die * 48 + dl.tile)).endMarked dl.tag origin := by
  have hsent := Chip.received_sent s.chip h
  have hrun := doEnd_run (c := { s.chip with sent := [] }) (by rw [hsent]; exact hs) (by rw [hsent]; exact hj) hd
    (by rw [hsent]; exact hst) (by rw [hsent]; exact hrep) ht
  rw [hsent] at hrun
  have htile := Chip.tile_onTile { s.chip.received h with sent := [] } (dl.die * 48 + dl.tile) (·.endMarked dl.tag origin)
  rw [← Chip.received_tile s.chip h]
  exact act_effect hr (congrArg Prod.snd hrun) ((Chip.received_calm s.chip h).trans hc) fun _ _ => htile

end

/-- Settles O40, each clause by what its command does. -/
theorem torusFlitsAreTaken : Obligations.TorusFlitsAreTaken := by
  unfold Obligations.TorusFlitsAreTaken
  intro s h hr hc
  refine ⟨fun hs hj => ⟨?data, ?copy, ?endMark, ?ackd⟩, ?peg, fun f ht => ⟨?broken, ?short⟩⟩
  case data =>
    intro dl o line lines ht hd hslot hst hrep
    have hdirect : decide (dl.slot ≠ 0) = true := decide_eq_true hslot
    have hdone := data_completes hs hj hr hc hd hst hrep ht
    simp only [Delivery.buffered, hdirect] at hdone
    exact hdone
  case copy => exact fun dl o idx line r lines ht hl hp => copy_waits hs hj hr hc ht hl hp
  case endMark => exact fun dl origin n ht hd hst hrep => endMark_completes hs hj hr hc hd hst hrep ht
  case ackd => exact fun q e ht he => ackd_becomes hs hj hr hc ht he
  case peg => exact fun m ht hs hn hstep hrep hd => pegFlit_done hr hc ht hs hn hstep hrep hd
  case broken => exact fun ho => shardFlit_broken hr hc ht ho
  case short => exact fun ho hl => shardFlit_short hr hc ht ho hl

end Sys2Proof.Machine
end

section
/-! Settles the statement on what a lane group sends, acknowledges and rejects: what a flit boundary and a reception do at a group that
is UP, and from it each clause. -/
namespace Sys2Proof.Machine

/-! ## A flit boundary (R232, R246) -/

/-- The flit that is chosen does not depend on what was sent on the front ports. -/
theorem Chip.roundRobin_sent (c : Chip) (out : List Out) (g : Nat) (l : Link) : ∀ n vl left,
    Chip.roundRobin { c with sent := out } g l n vl left = c.roundRobin g l n vl left
  | 0, _, _ => rfl
  | n + 1, vl, left => by
    simp only [Chip.roundRobin, Chip.roundRobin_sent c out g l n]
    rfl

theorem Chip.chooseFlit_sent (c : Chip) (out : List Out) (g : Nat) (l : Link) :
    Chip.chooseFlit { c with sent := out } g l = c.chooseFlit g l := by
  simp only [Chip.chooseFlit, Chip.roundRobin_sent]

/-- A link that puts a flit on its lanes, or an IDLE flit: its header reports what was due. -/
def Link.onLanes (l : Link) (f : Option Flit) : Link := { l with nak := false, ackDue := false, line := f }

/-- A link that sends a flit of its queue, with the next SEQ, against one credit (R232). -/
def Link.sends (l : Link) (f : Flit) (turn left : Nat) : Link :=
  { l with
    queue := dropFirst (fun q => decide (q = f)) l.queue, unacked := l.unacked ++ [(l.txSeq, f)]
    txSeq := (l.txSeq + 1) % 4096, credit := setNth (nth 0 l.credit f.vl - 1) l.credit f.vl, turn := turn, left := left
    count := l.count + 1, nak := false, ackDue := false, line := some f }

/-- The part once it has noted how long an urgent flit of a group has waited (R232). -/
def Chip.waitNoted (c : Chip) (g wait : Nat) (b : FlitBody) : Chip :=
  if b.urgent then
    c.wr R.TORUS_GRP_VL0_WAIT_MAX (lgOff g) (max (c.rd R.TORUS_GRP_VL0_WAIT_MAX (lgOff g)) (min wait 65535))
  else c

theorem Chip.waitNoted_txCount (c : Chip) (g wait : Nat) (b : FlitBody) :
    (c.waitNoted g wait b).rd R.TORUS_GRP_FLITS_TX_COUNT (lgOff g) = c.rd R.TORUS_GRP_FLITS_TX_COUNT (lgOff g) := by
  unfold Chip.waitNoted
  split
  · exact Chip.rd_wr_window (by decide) ..
  · rfl

theorem Chip.waitNoted_calm (c : Chip) (g wait : Nat) (b : FlitBody) : (c.waitNoted g wait b).calm = c.calm := by
  unfold Chip.waitNoted
  split <;> rfl

/-- The part once a group has sent a flit: the wait noted, the flit counted, the send key's use shown (R247). -/
def Chip.flitSent (c : Chip) (g wait : Nat) (l : Link) (f : Flit) (turn left : Nat) : Chip :=
  (((c.waitNoted g wait f.body).bump R.TORUS_GRP_FLITS_TX_COUNT (lgOff g) 1).withLink g (l.sends f turn left)).wr
    R.TORUS_GRP_ENC_CTR_COUNT_HI (lgOff g) ((l.count + 1) / 2 ^ 24)

theorem Chip.flitSent_link (c : Chip) (g wait : Nat) (l : Link) (f : Flit) (turn left : Nat) :
    (c.flitSent g wait l f turn left).link g = l.sends f turn left := by
  rw [Chip.flitSent, Chip.wr_link, Chip.withLink_link]

theorem Chip.flitSent_txCount (c : Chip) (g wait : Nat) (l : Link) (f : Flit) (turn left : Nat) :
    (c.flitSent g wait l f turn left).rd R.TORUS_GRP_FLITS_TX_COUNT (lgOff g) =
      (c.rd R.TORUS_GRP_FLITS_TX_COUNT (lgOff g) + 1) % 2 ^ 32 := by
  rw [Chip.flitSent, Chip.rd_wr_window (by decide), Chip.withLink_rd, Chip.rd_bump_wraps rfl, Chip.waitNoted_txCount]
  rfl

theorem Chip.flitSent_calm (c : Chip) (g wait : Nat) (l : Link) (f : Flit) (turn left : Nat) :
    (c.flitSent g wait l f turn left).calm = c.calm := by
  rw [Chip.flitSent, Chip.wr_calm, Chip.withLink_calm, Chip.bump_calm, Chip.waitNoted_calm]

section
variable {port group g wait : Nat} {l : Link} {c : Chip} (hg : port * 4 + group = g) (hup : c.grpState g = grpUp)
  (hl : (c.link g).payCredit = l)
include hg hup hl

theorem doFlitTime_resends {n : Nat} {f : Flit} {rest : List (Nat × Flit)} (hres : l.resend = (n, f) :: rest) (hvl : f.vl ≠ 0) :
    (doFlitTime port group wait).run c =
      ((), (c.bump R.TORUS_GRP_RETRIES_COUNT (lgOff g) 1).withLink g ({ l with resend := rest }.onLanes (some f))) := by
  rw [doFlitTime, CM.get_bind]
  simp only [hg, hup, hl, hres, hvl, ne_eq, not_true_eq_false, if_false, CM.run_seq, bumpM_run, decide_false, whenM_false, CM.run_pure,
    onLink_withLink, Link.onLanes]

variable (hres : l.resend = []) (hroom : l.unacked.length < 2048) (hjoin : l.rejoin = false)
include hres hroom hjoin

theorem doFlitTime_idles (hf : c.chooseFlit g l = none) : (doFlitTime port group wait).run c = ((), c.withLink g (l.onLanes none)) := by
  rw [doFlitTime, CM.get_bind]
  simp only [hg, hup, hl, hres, hf, hjoin, Nat.not_le.2 hroom, ne_eq, not_true_eq_false, if_false, Bool.false_eq_true, or_self,
    onLink_withLink, Link.onLanes]

theorem doFlitTime_sends {f : Flit} {turn left : Nat} (hf : c.chooseFlit g l = some (f, turn, left))
    (henc : c.flag R.TORUS_GRP_STATE_ENC (lgOff g) = false) :
    (doFlitTime port group wait).run c = ((), c.flitSent g wait l f turn left) := by
  have hwait : (whenM f.body.urgent do
      let m ← rdM R.TORUS_GRP_VL0_WAIT_MAX (lgOff g)
      wrM R.TORUS_GRP_VL0_WAIT_MAX (lgOff g) (max m (min wait 65535))).run c = ((), c.waitNoted g wait f.body) := by
    rw [whenM_run, Chip.waitNoted]
    split <;> rfl
  rw [doFlitTime, CM.get_bind]
  simp only [hg, hup, hl, hres, hf, hjoin, henc, Nat.not_le.2 hroom, ne_eq, not_true_eq_false, if_false, Bool.false_eq_true, or_self,
    CM.run_seq, hwait, bumpM_run, onLink_withLink, wrM_run, CM.run_pure, Chip.flitSent, Link.sends]

end

/-! ## Reception (R229, R246) -/

section
variable {g : Nat} {c : Chip} (hup : c.grpState g = grpUp)
include hup

theorem doAckReport_due {port group : Nat} (hg : port * 4 + group = g) (hdue : (c.link g).ackDue = true) :
    (doAckReport port group).run c = ((), c.withLink g ((c.link g).payCredit.onLanes none)) := by
  rw [doAckReport, CM.get_bind]
  simp only [hg, hup, hdue, decide_true, Bool.and_self, if_true, onLink_withLink, Link.onLanes]

theorem doIdle_run {h : Hdr} (hg : h.port * 4 + h.group = g) (hnak : h.nak = false) (hcor : h.corrected = false) :
    (doIdle h).run c = ((), c.withLink g { c.link g with
      unacked := (c.link g).unacked.filter fun u => !seqUpTo u.1 h.ack
      resend := (c.link g).resend.filter fun u => !seqUpTo u.1 h.ack
      credit := setNth (nth 0 (c.link g).credit h.cvl + h.cred) (c.link g).credit h.cvl }) := by
  rw [doIdle, CM.get_bind]
  simp only [hg, hup, hcor, if_true, whenM_false, CM.run_seq, CM.run_pure, takeHeader_run hnak]
  rfl

/-- The part once a group has rejected a flit, which may have failed its tag. -/
def Chip.flitRejected (c : Chip) (g : Nat) (auth : Bool) : Chip :=
  if auth && c.flag R.TORUS_GRP_STATE_ENC (lgOff g) then
    (c.bump R.TORUS_GRP_NAKS_COUNT (lgOff g) 1).bump R.TORUS_GRP_AUTH_FAIL_COUNT (lgOff g) 1
  else c.bump R.TORUS_GRP_NAKS_COUNT (lgOff g) 1

omit hup in
theorem Chip.flitRejected_link (c : Chip) (g : Nat) (auth : Bool) : (c.flitRejected g auth).link g = c.link g := by
  unfold Chip.flitRejected
  split <;> rfl

omit hup in
theorem Chip.flitRejected_calm (c : Chip) (g : Nat) (auth : Bool) : (c.flitRejected g auth).calm = c.calm := by
  unfold Chip.flitRejected
  split <;> rfl

omit hup in
theorem Chip.flitRejected_sent (c : Chip) (g : Nat) (auth : Bool) :
    Chip.flitRejected { c with sent := [] } g auth = { c.flitRejected g auth with sent := [] } := by
  unfold Chip.flitRejected
  change (if auth && c.flag R.TORUS_GRP_STATE_ENC (lgOff g) then _ else _ : Chip) = _
  split <;> rfl

theorem doCorruptFlit_run {port group : Nat} (hg : port * 4 + group = g) (auth : Bool) :
    (doCorruptFlit port group auth).run c = ((), (c.flitRejected g auth).withLink g { c.link g with nak := true }) := by
  have hcount : (whenM (auth && c.flag R.TORUS_GRP_STATE_ENC (lgOff g)) (bumpM R.TORUS_GRP_AUTH_FAIL_COUNT (lgOff g))).run
      (c.bump R.TORUS_GRP_NAKS_COUNT (lgOff g) 1) = ((), c.flitRejected g auth) := by
    rw [whenM_run, Chip.flitRejected]
    split <;> rfl
  rw [doCorruptFlit, CM.get_bind]
  simp only [hg, hup, if_true, CM.run_seq, bumpM_run, hcount, onLink_withLink, Chip.flitRejected_link]

end

/-! ## The statement's clauses, each by what its command does -/

section
variable {s : State} {g : Nat} (hr : s.chip.runs = true) (hc : s.chip.calm = true) (hup : s.chip.grpState g = grpUp)
include hr hc hup

theorem idle_becomes {h : Hdr} (hg : h.port * 4 + h.group = g) (hnak : h.nak = false) (hcor : h.corrected = false) :
    Becomes (.idle h) s (s.chip.withLink g { s.chip.link g with
      unacked := (s.chip.link g).unacked.filter fun u => !seqUpTo u.1 h.ack
      resend := (s.chip.link g).resend.filter fun u => !seqUpTo u.1 h.ack
      credit := setNth (nth 0 (s.chip.link g).credit h.cvl + h.cred) (s.chip.link g).credit h.cvl }) :=
  act_makes hr hc (doIdle_run (c := { s.chip with sent := [] }) hup hg hnak hcor)

variable {port group : Nat} (hg : port * 4 + group = g)
include hg

theorem ackReport_becomes (hdue : (s.chip.link g).ackDue = true) : Becomes (.ackReport port group) s
    (s.chip.withLink g ((s.chip.link g).payCredit.onLanes none)) :=
  act_makes hr hc (doAckReport_due (c := { s.chip with sent := [] }) hup hg hdue)

theorem corruptFlit_becomes (auth : Bool) : Becomes (.corruptFlit port group auth) s
    ((s.chip.flitRejected g auth).withLink g { s.chip.link g with nak := true }) := by
  refine act_makes hr ((Chip.flitRejected_calm ..).trans hc) ?_
  rw [doCorruptFlit_run (c := { s.chip with sent := [] }) hup hg, Chip.flitRejected_sent]
  rfl

variable {wait : Nat} {l : Link} (hl : (s.chip.link g).payCredit = l)
include hl

theorem flitTime_resends {n : Nat} {f : Flit} {rest : List (Nat × Flit)} (hres : l.resend = (n, f) :: rest) (hvl : f.vl ≠ 0) :
    Becomes (.flitTime port group wait) s
      ((s.chip.bump R.TORUS_GRP_RETRIES_COUNT (lgOff g) 1).withLink g ({ l with resend := rest }.onLanes (some f))) :=
  act_makes hr hc (doFlitTime_resends (c := { s.chip with sent := [] }) hg hup hl hres hvl)

variable (hres : l.resend = []) (hroom : l.unacked.length < 2048) (hjoin : l.rejoin = false)
include hres hroom hjoin

theorem flitTime_idles (hf : s.chip.chooseFlit g l = none) : Becomes (.flitTime port group wait) s (s.chip.withLink g (l.onLanes none)) :=
  act_makes hr hc (doFlitTime_idles (c := { s.chip with sent := [] }) hg hup hl hres hroom hjoin ((Chip.chooseFlit_sent ..).trans hf))

theorem flitTime_sends {f : Flit} {turn left : Nat} (hf : s.chip.chooseFlit g l = some (f, turn, left))
    (henc : s.chip.flag R.TORUS_GRP_STATE_ENC (lgOff g) = false) : Completes (.flitTime port group wait) s fun d =>
      d.link g = l.sends f turn left ∧
      d.rd R.TORUS_GRP_FLITS_TX_COUNT (lgOff g) = (s.chip.rd R.TORUS_GRP_FLITS_TX_COUNT (lgOff g) + 1) % 2 ^ 32 := by
  have hrun := doFlitTime_sends (wait := wait) (c := { s.chip with sent := [] }) hg hup hl hres hroom hjoin
    ((Chip.chooseFlit_sent ..).trans hf) henc
  exact act_effect hr (congrArg Prod.snd hrun) ((Chip.flitSent_calm ..).trans hc) fun _ _ =>
    ⟨Chip.flitSent_link { s.chip with sent := [] } g wait l f turn left,
      Chip.flitSent_txCount { s.chip with sent := [] } g wait l f turn left⟩

end

/-- Settles O39, each clause by what its command does. -/
theorem laneGroupsSendAndAcknowledge : Obligations.LaneGroupsSendAndAcknowledge := by
  unfold Obligations.LaneGroupsSendAndAcknowledge
  intro s port group wait hr hc
  dsimp only
  generalize hg : port * 4 + group = g
  generalize hl : (s.chip.link g).payCredit = l
  intro hup
  refine ⟨?resends, ?sends, ?idles, ?ackReport, ?idle, ?corrupt⟩
  case resends => exact fun n f rest hres hvl => flitTime_resends hr hc hup hg hl hres hvl
  case sends => exact fun f turn left hres hroom hjoin hf henc => flitTime_sends hr hc hup hg hl hres hroom hjoin hf henc
  case idles => exact fun hres hroom hjoin hf => flitTime_idles hr hc hup hg hl hres hroom hjoin hf
  case ackReport =>
    intro hdue
    rw [← hl]
    exact ackReport_becomes hr hc hup hg hdue
  case idle =>
    rintro h rfl rfl hnak hcor
    exact idle_becomes hr hc hup hg hnak hcor
  case corrupt => exact fun auth => corruptFlit_becomes hr hc hup hg auth

end Sys2Proof.Machine
end

section
/-! Settles the statement on the training of lane groups: what leaving UP, a TRAIN flit, the end of a training and an ordered
retraining do at a group, and from it each clause. -/
namespace Sys2Proof.Machine

/-! ## Leaving UP (R246) -/

theorem linkRecord_mods (die kind port group state owner job : Nat) :
    Mods (· = regKey R.EVR_TRIG_LOST_COUNT (dieOff die)) (linkRecord die kind port group state owner job) :=
  takeRecord_mods _ _ _

theorem linkRecord_leaves (die kind port group state owner job : Nat) (c : Chip) :
    let d := ((linkRecord die kind port group state owner job).run c).2
    d.calm = c.calm ∧ d.links = c.links := by
  obtain ⟨_, _, hrun⟩ := takeRecord_run die 10 ([kind, port, group, state, owner, 0] ++ leBytes 2 job) c
  rw [linkRecord, hrun]
  exact ⟨rfl, rfl⟩

/-- The part once a group has left UP and trains again. -/
def Chip.fallen (c : Chip) (g : Nat) : Chip :=
  let d := ((trainGroup g).run (c.bump R.TORUS_GRP_DOWNS_COUNT (lgOff g) 1)).2
  d.withLink g { d.link g with trainFails := 0 }

theorem Chip.fallen_grpState (c : Chip) (g : Nat) : (c.fallen g).grpState g = c.trained g := by
  rw [Chip.fallen, Chip.grpState, Chip.withLink_rd, ← Chip.grpState, trainGroup_grpState, Chip.bump_trained (by decide)]

theorem Chip.fallen_downs (c : Chip) (g : Nat) : (c.fallen g).rd R.TORUS_GRP_DOWNS_COUNT (lgOff g) =
    min (c.rd R.TORUS_GRP_DOWNS_COUNT (lgOff g) + 1) (2 ^ 32 - 1) := by
  rw [Chip.fallen, Chip.withLink_rd, trainGroup_rd (by decide), Chip.rd_bump_stays rfl]
  rfl

theorem Chip.fallen_link (c : Chip) (g : Nat) :
    (c.fallen g).link g = { noLink with queue := (c.link g).queue, count := (c.link g).count } := by
  rw [Chip.fallen, Chip.withLink_link, trainGroup_link, Chip.bump_link]
  rfl

theorem Chip.fallen_link_other {g h : Nat} (hg : h ≠ g) (c : Chip) : (c.fallen g).link h = c.link h := by
  rw [Chip.fallen, Chip.withLink_link_other hg, trainGroup_link_other hg, Chip.bump_link]

theorem Chip.fallen_jobRuns (c : Chip) (g : Nat) : (c.fallen g).jobRuns = c.jobRuns := by
  have hkey : regKey R.SEQ_STATE_STATE 0 ≠ regKey R.TORUS_GRP_DOWNS_COUNT (lgOff g) := by
    simp only [regKey, R.SEQ_STATE_STATE, R.TORUS_GRP_DOWNS_COUNT]
    omega
  have hbelow : ¬groupKeys trainFlds g (regKey R.SEQ_STATE_STATE 0) := not_groupKeys_below (by decide) rfl g
  simp only [Chip.jobRuns, Chip.fallen, Chip.withLink_rd, (trainGroup_mods g).rd hbelow, Chip.bump_rd_other hkey]

theorem Chip.fallen_onlyGroups (c : Chip) (g : Nat) : c.onlyGroups (c.fallen g) :=
  onLink_onlyGroups g (fun l => { l with trainFails := 0 }) _
    (trainGroup_onlyGroups g _ (c.onlyGroups_refl.wr R.TORUS_GRP_DOWNS_COUNT (lgOff g) _))

/-- A group of a package with no job leaves UP: a record of it is taken, and no fault raised. -/
theorem groupDown_idle {g : Nat} {c : Chip} (hup : c.grpState g = grpUp) (hj : c.jobRuns = false) : (groupDown g).run c =
    (linkRecord (shareDie g) 0 (g / 4) (g % 4) ((c.fallen g).grpState g) ((c.fallen g).grpOwner g)
      ((c.fallen g).rd R.TORUS_GRP_STATE_JOB (lgOff g))).run (c.fallen g) := by
  have hfall : (onLink g fun l => { l with trainFails := 0 }).run ((trainGroup g).run (c.bump R.TORUS_GRP_DOWNS_COUNT (lgOff g) 1)).2 =
      ((), c.fallen g) := onLink_withLink ..
  rw [groupDown, CM.get_bind, if_pos hup, CM.run_seq, bumpM_run, CM.run_seq, CM.run_seq, hfall, CM.get_bind, CM.run_seq,
    Chip.fallen_jobRuns, hj, Bool.and_false, whenM_false]
  generalize (linkRecord _ _ _ _ _ _ _).run (c.fallen g) = y
  rfl

/-- What it leaves: the group trains or waits for light, the fall counted, its link fresh but for its queue. -/
theorem groupDown_leaves {g : Nat} {c : Chip} (hup : c.grpState g = grpUp) (hj : c.jobRuns = false) :
    let d := ((groupDown g).run c).2
    d.calm = c.calm ∧ d.grpState g = c.trained g ∧
    d.rd R.TORUS_GRP_DOWNS_COUNT (lgOff g) = min (c.rd R.TORUS_GRP_DOWNS_COUNT (lgOff g) + 1) (2 ^ 32 - 1) ∧
    d.links = (c.fallen g).links := by
  rw [groupDown_idle hup hj]
  generalize (c.fallen g).grpState g = st
  generalize (c.fallen g).grpOwner g = owner
  generalize (c.fallen g).rd R.TORUS_GRP_STATE_JOB (lgOff g) = job
  have hrd {f : Fld} (hf : f.inGroup = true) := (linkRecord_mods (shareDie g) 0 (g / 4) (g % 4) st owner job).rd
    (f := f) (o := lgOff g) (regKey_group_ne_trigLost hf g (shareDie g)) (c.fallen g)
  obtain ⟨hcalm, hlinks⟩ := linkRecord_leaves (shareDie g) 0 (g / 4) (g % 4) st owner job (c.fallen g)
  exact ⟨hcalm.trans (c.fallen_onlyGroups g).calm, (hrd (by decide)).trans (c.fallen_grpState g),
    (hrd (by decide)).trans (c.fallen_downs g), hlinks⟩

/-! ## Training (R244, R245) -/

/-- What it leaves to write and show a group's state. -/
theorem setGrpState_leaves {st : Nat} (hst : st < 8) (g : Nat) (c : Chip) :
    let d := ((setGrpState g st).run c).2
    d.calm = c.calm ∧ d.grpState g = st ∧
    (∀ {f : Fld}, f.apartFrom [R.TORUS_GRP_STATE_STATE] = true → d.rd f (lgOff g) = c.rd f (lgOff g)) ∧ ∀ h, d.link h = c.link h :=
  ⟨(setGrpState_sameButRegs g st c c.sameButRegs_refl).calm, setGrpState_grpState hst g c, fun hf => setGrpState_rd hf g st c,
    fun h => setGrpState_link g st h c⟩

section
variable {port group g : Nat} {c : Chip} (hg : port * 4 + group = g) (hst : c.grpState g = grpTraining)
include hg hst

theorem doTrain_run (m : TrainMsg) (received stamp hold : Nat) : (doTrain port group m received stamp hold).run c =
    ((), c.withLink g { c.link g with
      peer := some m
      echoes := if m.echo && decide ((c.link g).echoes.length < 64) then (c.link g).echoes ++ [(received - stamp - hold) / 2]
        else (c.link g).echoes }) := by
  rw [doTrain, CM.get_bind]
  simp only [hg, if_pos hst, onLink_withLink]

/-- The part that shows a group's peer, and its latency. -/
def Chip.peerShown (c : Chip) (g : Nat) (m : TrainMsg) (lat : Nat) : Chip :=
  ((((c.wr R.TORUS_GRP_PEER_VALID (lgOff g) 1).wr R.TORUS_GRP_PEER_PEER_GROUP (lgOff g) m.group).wr R.TORUS_GRP_PEER_PEER_PORT
    (lgOff g) m.port).wr R.TORUS_GRP_PEER_PEER_NODE (lgOff g) m.node).wr R.TORUS_GRP_LAT_LAT (lgOff g) lat

/-- A training that deskews and agrees: the group shows its peer, has no failed training, and is UP. -/
theorem doTorusTrainingDone_up {m : TrainMsg} (hp : (c.link g).peer = some m) (ha : c.trainAgrees g = true)
    (hk : c.keySpent g = false) : ∃ lat l, l.trainFails = 0 ∧ (doTorusTrainingDone port group true).run c =
      (setGrpState g grpUp).run ((c.peerShown g m lat).withLink g l) := by
  refine ⟨min 65535 (divRne (meanEcho (c.link g).echoes * 100) 256),
    { c.link g with trainFails := 0, rejoin := decide (c.grpOwner g = ownerOwn) && c.jobRuns },
    rfl, ?_⟩
  rw [doTorusTrainingDone, CM.get_bind]
  simp only [hg, if_pos hst, ha, hk, Bool.not_false, Bool.and_self, if_true, hp, CM.run_seq, wrM_run, onLink_withLink, Chip.wr_link]
  rfl

/-- A training that fails is counted; the third one in a row ends the group. -/
theorem doTorusTrainingDone_fails : ∃ l, l.trainFails = (c.link g).trainFails + 1 ∧ (doTorusTrainingDone port group false).run c =
    (whenM (decide (3 ≤ (c.link g).trainFails + 1)) (setGrpState g grpFailed)).run (c.withLink g l) := by
  refine ⟨{ c.link g with trainFails := (c.link g).trainFails + 1, echoes := [], peer := none }, rfl, ?_⟩
  rw [doTorusTrainingDone, CM.get_bind]
  simp only [hg, if_pos hst, Bool.false_and, Bool.false_eq_true, if_false, CM.run_seq, onLink_withLink]

end

theorem Chip.peerShown_calm (c : Chip) (g : Nat) (m : TrainMsg) (lat : Nat) : (c.peerShown g m lat).calm = c.calm := by
  simp only [Chip.peerShown, Chip.wr_calm]

theorem Chip.peerShown_node (c : Chip) (g : Nat) (m : TrainMsg) (lat : Nat) :
    (c.peerShown g m lat).rd R.TORUS_GRP_PEER_PEER_NODE (lgOff g) = m.node % 2 ^ 12 := by
  rw [Chip.peerShown, Chip.rd_wr_window (by decide), Chip.rd_wr_same]
  rfl

theorem Chip.peerShown_valid (c : Chip) (g : Nat) (m : TrainMsg) (lat : Nat) :
    (c.peerShown g m lat).rd R.TORUS_GRP_PEER_VALID (lgOff g) = 1 := by
  rw [Chip.peerShown, Chip.rd_wr_window (by decide), Chip.rd_wr_window (by decide), Chip.rd_wr_window (by decide),
    Chip.rd_wr_window (by decide), Chip.rd_wr_same]
  rfl

/-! ## An ordered retraining (R244, R423) -/

/-- The part as a group that an order retrains begins to train: leaving UP is counted, and no failed training is held against it. -/
def Chip.retrained (c : Chip) (g : Nat) : Chip :=
  let d := if c.grpState g = grpUp then c.bump R.TORUS_GRP_DOWNS_COUNT (lgOff g) 1 else c
  d.withLink g { d.link g with trainFails := 0 }

theorem Chip.retrained_trained (c : Chip) (g : Nat) : (c.retrained g).trained g = c.trained g := by
  rw [Chip.retrained, Chip.withLink_trained]
  split
  · exact Chip.bump_trained (by decide) ..
  · rfl

theorem Chip.retrained_onlyGroups (c : Chip) (g : Nat) : c.onlyGroups (c.retrained g) := by
  refine onLink_onlyGroups g (fun l => { l with trainFails := 0 }) _ ?_
  split
  · exact c.onlyGroups_refl.wr ..
  · exact c.onlyGroups_refl

section
variable {port group g : Nat} {c : Chip} (hg : port * 4 + group = g)
include hg

theorem doGroupRetrain_trains (hst : c.grpState g ≠ grpUnused) (hj : c.carriesJob g = false) (src : Nat) :
    (doGroupRetrain src port group).run c = (trainGroup g).run (c.retrained g) := by
  have hno : ¬(c.grpState g = grpUnused ∨ c.carriesJob g = true) := by simp [hst, hj]
  have hdown : (whenM (decide (c.grpState g = grpUp)) (bumpM R.TORUS_GRP_DOWNS_COUNT (lgOff g))).run c =
      ((), if c.grpState g = grpUp then c.bump R.TORUS_GRP_DOWNS_COUNT (lgOff g) 1 else c) := by
    rw [whenM_run]
    simp only [decide_eq_true_eq, bumpM_run]
    split <;> rfl
  rw [doGroupRetrain, CM.get_bind]
  simp only [hg, if_neg hno, CM.run_seq, hdown, onLink_withLink, Chip.retrained]

theorem doGroupRetrain_clamps (hst : c.grpState g = grpUnused ∨ c.carriesJob g = true) (src : Nat) :
    (doGroupRetrain src port group).run c = (clampEvent src 0 (R.TORUS_GRP_CTRL_RETRAIN.addr + lgOff g)).run c := by
  rw [doGroupRetrain, CM.get_bind]
  simp only [hg, if_pos hst]

end

/-! ## The statement's clauses, each by what its command does -/

section
variable {s : State} {port group g : Nat} (hr : s.chip.runs = true) (hc : s.chip.calm = true) (hg : port * 4 + group = g)
include hr hc hg

theorem torusGroupDown_trains (hup : s.chip.grpState g = grpUp) (hj : s.chip.jobRuns = false) :
    Completes (.torusGroupDown port group) s fun d => d.grpState g = s.chip.trained g ∧
      d.rd R.TORUS_GRP_DOWNS_COUNT (lgOff g) = min (s.chip.rd R.TORUS_GRP_DOWNS_COUNT (lgOff g) + 1) (2 ^ 32 - 1) ∧
      d.link g = { noLink with queue := (s.chip.link g).queue, count := (s.chip.link g).count } ∧
      ∀ h, h ≠ g → d.link h = s.chip.link h := by
  subst hg
  obtain ⟨hcalm, hstate, hdowns, hlinks⟩ := groupDown_leaves (c := { s.chip with sent := [] }) hup hj
  exact act_effect hr rfl (hcalm.trans hc) fun _ _ => ⟨hstate, hdowns, (congrArg (Tbl.get noLink · _) hlinks).trans (Chip.fallen_link ..),
    fun h hh => (congrArg (Tbl.get noLink · h) hlinks).trans (Chip.fallen_link_other hh _)⟩

theorem train_becomes (hst : s.chip.grpState g = grpTraining) (m : TrainMsg) (received stamp hold : Nat) :
    Becomes (.train port group m received stamp hold) s (s.chip.withLink g { s.chip.link g with
      peer := some m
      echoes := if m.echo && decide ((s.chip.link g).echoes.length < 64) then (s.chip.link g).echoes ++ [(received - stamp - hold) / 2]
        else (s.chip.link g).echoes }) :=
  act_makes hr hc (doTrain_run (c := { s.chip with sent := [] }) hg hst m received stamp hold)

theorem torusTrainingDone_up (hst : s.chip.grpState g = grpTraining) {m : TrainMsg} (hp : (s.chip.link g).peer = some m)
    (ha : s.chip.trainAgrees g = true) (hk : s.chip.keySpent g = false) :
    Completes (.torusTrainingDone port group true) s fun d => d.grpState g = grpUp ∧
      d.rd R.TORUS_GRP_PEER_PEER_NODE (lgOff g) = m.node % 2 ^ 12 ∧ d.flag R.TORUS_GRP_PEER_VALID (lgOff g) = true ∧
      (d.link g).trainFails = 0 := by
  obtain ⟨lat, l, hl, hrun⟩ := doTorusTrainingDone_up (c := { s.chip with sent := [] }) hg hst hp ha hk
  have hcalm : (Chip.peerShown { s.chip with sent := [] } g m lat).calm = true := (Chip.peerShown_calm ..).trans hc
  have hnode := Chip.peerShown_node { s.chip with sent := [] } g m lat
  have hvalid := Chip.peerShown_valid { s.chip with sent := [] } g m lat
  generalize Chip.peerShown { s.chip with sent := [] } g m lat = x at hrun hcalm hnode hvalid
  obtain ⟨hcalm', hstate, hrd, hlinks⟩ := setGrpState_leaves (st := grpUp) (by decide) g (x.withLink g l)
  generalize (setGrpState g grpUp).run (x.withLink g l) = y at hrun hcalm' hstate hrd hlinks
  refine act_effect hr (congrArg Prod.snd hrun) (hcalm'.trans hcalm) fun _ _ =>
    ⟨hstate, (hrd (by decide)).trans hnode, decide_eq_true ((hrd (by decide)).trans hvalid), ?_⟩
  exact (congrArg Link.trainFails ((hlinks g).trans (Chip.withLink_link ..))).trans hl

theorem torusTrainingDone_fails (hst : s.chip.grpState g = grpTraining) : Completes (.torusTrainingDone port group false) s fun d =>
    (d.link g).trainFails = (s.chip.link g).trainFails + 1 ∧
    d.grpState g = if 3 ≤ (s.chip.link g).trainFails + 1 then grpFailed else grpTraining := by
  obtain ⟨x, hx, hrun⟩ := doTorusTrainingDone_fails (c := { s.chip with sent := [] }) hg hst
  by_cases h3 : 3 ≤ (s.chip.link g).trainFails + 1
  · rw [if_pos h3]
    rw [decide_eq_true (by exact h3), whenM_true] at hrun
    obtain ⟨hcalm, hstate, -, hlinks⟩ := setGrpState_leaves (st := grpFailed) (by decide) g (Chip.withLink { s.chip with sent := [] } g x)
    generalize (setGrpState g grpFailed).run _ = y at hrun hcalm hstate hlinks
    exact act_effect hr (congrArg Prod.snd hrun) (hcalm.trans hc) fun _ _ =>
      ⟨(congrArg Link.trainFails ((hlinks g).trans (Chip.withLink_link ..))).trans hx, hstate⟩
  · rw [if_neg h3]
    rw [decide_eq_false (by exact h3), whenM_false] at hrun
    exact act_effect hr (congrArg Prod.snd hrun) hc fun _ _ => ⟨(congrArg Link.trainFails (Chip.withLink_link ..)).trans hx, hst⟩

theorem groupRetrain_trains (hst : s.chip.grpState g ≠ grpUnused) (hj : s.chip.carriesJob g = false) :
    Completes (.groupRetrain port group) s fun d => d.grpState g = s.chip.trained g := by
  have hrun := doGroupRetrain_trains (c := { s.chip with sent := [] }) hg hst hj srcMgmt
  have hcalm := (trainGroup_onlyGroups g _ (Chip.retrained_onlyGroups { s.chip with sent := [] } g)).calm.trans hc
  have hstate := (trainGroup_grpState g _).trans (Chip.retrained_trained { s.chip with sent := [] } g)
  generalize (trainGroup g).run _ = y at hrun hcalm hstate
  exact act_effect hr (congrArg Prod.snd hrun) hcalm fun _ _ => hstate

theorem groupRetrain_clamps (hlt : g < 32) (hst : s.chip.grpState g = grpUnused ∨ s.chip.carriesJob g = true) :
    Completes (.groupRetrain port group) s fun d =>
      d.rd R.FAULT_CLAMP_COUNT (4 * srcMgmt) = min (s.chip.rd R.FAULT_CLAMP_COUNT (4 * srcMgmt) + 1) (2 ^ 32 - 1) ∧
      d.grpState g = s.chip.grpState g ∧ d.links = s.chip.links := by
  have hrun := doGroupRetrain_clamps (c := { s.chip with sent := [] }) hg hst srcMgmt
  generalize R.TORUS_GRP_CTRL_RETRAIN.addr + lgOff g = place at hrun
  have hcount := clampEvent_count (src := srcMgmt) (by decide) 0 place { s.chip with sent := [] }
  have hstate := (clampEvent_mods srcMgmt 0 place).rd
    (not_clampKeys_group (f := R.TORUS_GRP_STATE_STATE) (by decide) hlt) { s.chip with sent := [] }
  obtain ⟨_, hd⟩ := clampEvent_sameButRegs srcMgmt 0 place { s.chip with sent := [] } (Chip.sameButRegs_refl _)
  have hcalm : ((clampEvent srcMgmt 0 place).run { s.chip with sent := [] }).2.calm = s.chip.calm := by rw [hd]; rfl
  have hlinks : ((clampEvent srcMgmt 0 place).run { s.chip with sent := [] }).2.links = s.chip.links := by rw [hd]
  clear hd
  generalize (clampEvent srcMgmt 0 place).run _ = y at hrun hcount hstate hcalm hlinks
  exact act_effect hr (congrArg Prod.snd hrun) (hcalm.trans hc) fun _ _ => ⟨hcount, hstate, hlinks⟩

end

/-- Settles O38, each clause by what its command does. -/
theorem laneGroupsTrain : Obligations.LaneGroupsTrain := by
  unfold Obligations.LaneGroupsTrain
  intro s port group hr hc hport hgroup
  dsimp only
  have hlt : port * 4 + group < 32 := by omega
  generalize hg : port * 4 + group = g at hlt ⊢
  refine ⟨?down, ?train, ?up, ?fails, ?retrains, ?clamps⟩
  case down => exact torusGroupDown_trains hr hc hg
  case train => exact fun m received stamp hold hst => train_becomes hr hc hg hst m received stamp hold
  case up => exact fun m hst hp ha hk => torusTrainingDone_up hr hc hg hst hp ha hk
  case fails => exact torusTrainingDone_fails hr hc hg
  case retrains => exact groupRetrain_trains hr hc hg
  case clamps => exact groupRetrain_clamps hr hc hg hlt

end Sys2Proof.Machine
end

section
/-! SUPPORT. Control messages in turn: how one is heard, what its dispatch starts from, and what an answer on the control stream
changes. -/
namespace Sys2Proof.Machine

/-! ## Hearing a control message in turn (R284, R285) -/

/-- A control stream whose next message has come: its ACK counts, and the arrival is to be acknowledged. -/
def Stream.turned (x : Stream) (i : TnpIn) : Stream :=
  { x.acked i.ack with ackDue := true, rxNext := (x.rxNext + 1) % 2 ^ 32 }

/-- The part from which a control message is acted on. -/
def Chip.turned (c : Chip) (i : TnpIn) : Chip := { c with serving := { c.serving with control := c.serving.control.turned i } }

/-- Nothing waits for the reactions, and the control stream, to `p`, holds no message beyond the next. -/
structure Chip.CanAnswer (p : Peer) (c : Chip) : Prop where
  calm : c.calm = true
  peer : c.serving.orch = some p
  held : c.serving.control.held = []

theorem Chip.CanAnswer.of_sameButRegs {p : Peer} {c d : Chip} (h : c.CanAnswer p) (hd : c.sameButRegs d) : d.CanAnswer p := by
  obtain ⟨_, rfl⟩ := hd
  exact ⟨h.calm, h.peer, h.held⟩

theorem Chip.CanAnswer.of_onlyGroups {p : Peer} {c d : Chip} (h : c.CanAnswer p) (hd : c.onlyGroups d) : d.CanAnswer p := by
  obtain ⟨_, _, _, rfl⟩ := hd
  exact ⟨h.calm, h.peer, h.held⟩

/-- What it says that a control message is in turn. -/
theorem Chip.controlTurn_facts {c : Chip} {i : TnpIn} {typ : Nat} (h : c.controlTurn i typ = true) :
    i.session = ctrlSession ∧ c.flag R.SEC_ZEROISE_ACTIVE = false ∧ c.flag R.FRONT_STATUS_LINK_UP (frontOff i.src.front) = true ∧
    c.tagPasses typ i.tenant i.tagOk = true ∧ c.serving.orch = some i.src ∧ i.seq = c.serving.control.rxNext ∧
    c.serving.control.held = [] := by
  simp only [Chip.controlTurn, Chip.inTurn, Chip.hears, Bool.and_eq_true, decide_eq_true_eq, Bool.not_eq_true'] at h
  obtain ⟨⟨hs, hz⟩, ⟨hup, htag⟩, hstream⟩ := h
  rw [hs, Chip.stream, if_pos rfl] at hstream
  cases ho : c.serving.orch with
  | none => simp [ho] at hstream
  | some p =>
    simp only [ho, Option.map_some, Bool.and_eq_true, decide_eq_true_eq, List.isEmpty_iff] at hstream
    obtain ⟨⟨rfl, hseq⟩, hheld⟩ := hstream
    exact ⟨hs, hz, hup, htag, rfl, hseq, hheld⟩

/-- The part from which a command acts on a control message that is in turn. -/
def State.orderPart (s : State) (i : TnpIn) : Chip := Chip.turned { s.chip with sent := [] } i

theorem State.orderPart_canAnswer {s : State} {i : TnpIn} {typ : Nat} (h : s.chip.controlTurn i typ = true) (hc : s.chip.calm = true) :
    (s.orderPart i).CanAnswer i.src := by
  obtain ⟨-, -, -, -, hpeer, -, hheld⟩ := Chip.controlTurn_facts h
  exact ⟨hc, hpeer, hheld⟩

theorem takeStream_inTurn {c : Chip} {i : TnpIn} {typ : Nat} (h : c.controlTurn i typ = true) (b : TnpBody) :
    (takeStream ctrlSession i b).run c = (do dispatch i b; drainHeld ctrlSession 65 : CM Unit).run (c.turned i) := by
  obtain ⟨-, -, -, -, hpeer, hseq, -⟩ := Chip.controlTurn_facts h
  have hstream : c.stream ctrlSession = some (i.src, c.serving.control) := by rw [Chip.stream, if_pos rfl, hpeer]; rfl
  have hahead : (c.serving.control.rxNext + 2 ^ 32 - c.serving.control.rxNext) % 2 ^ 32 = 0 := by omega
  rw [takeStream, CM.get_bind, hstream]
  dsimp only [Stream.acked]
  rw [hseq]
  refine (congrArg (fun m : CM Unit => m.run c) (if_pos hahead)).trans ?_
  rfl

/-- An order in turn is dispatched, and the stream's held messages then drain. -/
theorem receive_order {c : Chip} {i : TnpIn} {b : TnpBody} (h : c.controlTurn i b.typ = true) (hlo : 0x40 ≤ b.typ) (hhi : b.typ < 0x60) :
    (receive i b).run c = (do dispatch i b; drainHeld ctrlSession 65 : CM Unit).run (c.turned i) := by
  obtain ⟨hs, hz, hup, htag, hpeer, -, -⟩ := Chip.controlTurn_facts h
  have hkey : (tagKey b.typ i.tenant).isNone = false := by
    cases hk : tagKey b.typ i.tenant with
    | none => simp [Chip.tagPasses, hk] at htag
    | some k => rfl
  have htake : (takeControl i b).run c = (takeStream ctrlSession i b).run c := by
    unfold takeControl
    rw [CM.get_bind]
    dsimp only
    rw [if_neg (not_not_intro hs), hz, Bool.false_and, if_neg Bool.false_ne_true, CM.run_seq, hpeer, Option.isNone_some, whenM_false,
      CM.run_pure, CM.get_bind, hpeer, decide_eq_true rfl, whenM_true]
  rw [← takeStream_inTurn h b, ← htake, receive, CM.get_bind, hup, hkey, htag]
  simp only [Bool.not_true, Bool.false_eq_true, if_false]
  split
  case h_6 => rw [if_pos hlo]
  all_goals simp only [TnpBody.typ] at hlo hhi
  all_goals omega

theorem drainHeld_empty {c : Chip} (h : c.serving.control.held = []) (n : Nat) : (drainHeld ctrlSession (n + 1)).run c = ((), c) := by
  rw [drainHeld, CM.get_bind, Chip.stream, if_pos rfl]
  cases c.serving.orch with
  | none => rfl
  | some p =>
    rw [Option.map_some]
    dsimp only
    rw [h]
    rfl

/-! ## Answers (R284, R285) -/

/-- The keys of what a front port shows as a message leaves it (R279). -/
def frontKeys (f k : Nat) : Prop :=
  k = regKey R.FRONT_FRAMES_TX (frontOff f) ∨ k = regKey R.FRONT_STATUS_PN_WARN (frontOff f) ∨ k = regKey R.FRONT_STATUS_PN_END (frontOff f)

theorem sendTnp_mods (p : Peer) (m : Tnp) : Mods (frontKeys p.front) (sendTnp p m) := by
  refine Mods.bind Mods.get fun _ => Mods.ite (Mods.bind (Mods.modify fun _ => rfl) fun _ => Mods.bind (Mods.bumpM (.inl rfl)) fun _ =>
    Mods.bind Mods.get fun _ => Mods.ite ?_ (Mods.pure ())) (Mods.pure ())
  exact Mods.bind (Mods.modify fun _ => rfl) fun _ => Mods.bind (Mods.whenM (Mods.wrM (.inr (.inl rfl)))) fun _ =>
    Mods.whenM (Mods.wrM (.inr (.inr rfl)))

/-- The part `d` comes from `c` by sending a message on the control stream, to `p`. -/
structure Chip.Sends (p : Peer) (c d : Chip) : Prop where
  only : ∃ control rs pn out g, d = { c with
    serving := { c.serving with control := control }, regs := rs, txPn := pn, sent := out, mgmt := g }
  held : d.serving.control.held = c.serving.control.held
  rd : ∀ {f : Fld} {o : Nat}, ¬frontKeys p.front (regKey f o) → d.rd f o = c.rd f o

theorem Chip.Sends.calm {p : Peer} {c d : Chip} (h : c.Sends p d) : d.calm = c.calm := by
  obtain ⟨_, _, _, _, _, rfl⟩ := h.only
  rfl

theorem Chip.Sends.settled {p : Peer} {c d : Chip} (h : c.Sends p d) (g : Mgmt) (out : List Out) :
    c.Sends p { d with mgmt := g, sent := out } := by
  obtain ⟨⟨_, _, _, _, _, rfl⟩, hheld, hrd⟩ := h
  exact ⟨⟨_, _, _, _, _, rfl⟩, hheld, fun hk => hrd hk⟩

theorem Chip.Sends.request {p : Peer} {c d : Chip} (h : c.Sends p d) (x : Nat) : d.request x = c.request x := by
  obtain ⟨_, _, _, _, _, rfl⟩ := h.only
  rfl

theorem Chip.Sends.orders {p : Peer} {c d : Chip} (h : c.Sends p d) : d.serving.orders = c.serving.orders := by
  obtain ⟨_, _, _, _, _, rfl⟩ := h.only
  rfl

theorem Chip.Sends.tenants {p : Peer} {c d : Chip} (h : c.Sends p d) :
    d.serving.tenantNext = c.serving.tenantNext ∧ d.serving.tenants = c.serving.tenants := by
  obtain ⟨_, _, _, _, _, rfl⟩ := h.only
  exact ⟨rfl, rfl⟩

theorem Chip.Sends.loads {p : Peer} {c d : Chip} (h : c.Sends p d) : d.loads = c.loads := by
  obtain ⟨_, _, _, _, _, rfl⟩ := h.only
  rfl

theorem sendStream_sends {c : Chip} {p : Peer} (hp : c.serving.orch = some p) (tenant request : Nat) (b : TnpBody) :
    let d := ((sendStream ctrlSession tenant request b).run c).2
    c.Sends p d ∧ d.said ctrlSession request b := by
  have hstream : c.stream ctrlSession = some (p, c.serving.control) := by rw [Chip.stream, if_pos rfl, hp]; rfl
  have hrun : (sendStream ctrlSession tenant request b).run c = (sendTnp p (c.controlTnp tenant request b)).run
      ((setStream ctrlSession (c.serving.control.sending (c.controlTnp tenant request b))).run c).2 := by
    rw [sendStream, CM.get_bind, hstream]
    rfl
  have hrd {f : Fld} {o : Nat} (hk : ¬frontKeys p.front (regKey f o)) :
      ((sendStream ctrlSession tenant request b).run c).2.rd f o = c.rd f o := by
    rw [hrun]
    exact (sendTnp_mods p _).rd hk _
  obtain ⟨rs, pn, out, hsend⟩ := sendStream_control hp tenant request b
  refine ⟨⟨⟨_, rs, pn, out, c.mgmt, congrArg Prod.snd hsend⟩, ?_, hrd⟩, ?_⟩
  · rw [hsend]
    rfl
  · rw [hsend]
    exact ⟨p, _, _, congrArg (Option.map _) hp, Stream.sending_getLast .., rfl, rfl⟩

/-! ## Completion -/

section
variable {s : State} {i : TnpIn} {b : TnpBody} {post : Chip → Prop} (hr : s.chip.runs = true)
  (ht : s.chip.controlTurn i b.typ = true) (hlo : 0x40 ≤ b.typ) (hhi : b.typ < 0x60)
include ht hlo hhi

/-- An order in turn makes what its dispatch makes, where no message then waits in the stream. -/
theorem receive_order_run {d : Chip} (hd : ((dispatch i b).run (s.orderPart i)).2 = d) (hheld : d.serving.control.held = []) :
    ((receive i b).run { s.chip with sent := [] }).2 = d := by
  rw [receive_order (c := { s.chip with sent := [] }) ht hlo hhi, ← State.orderPart, CM.run_seq, hd, drainHeld_empty hheld]

include hr

/-- An order in turn completes with the part that its dispatch makes, where nothing then waits. -/
theorem order_completes {d : Chip} (hd : ((dispatch i b).run (s.orderPart i)).2 = d) (hc : d.calm = true)
    (hheld : d.serving.control.held = []) (hp : ∀ g out, post { d with mgmt := g, sent := out }) :
    ∃ e, act .normal (receive i b) s = .next { s with chip := e } ∧ post e :=
  act_effect hr (receive_order_run ht hlo hhi hd hheld) hc hp

/-- An order whose dispatch ends with an answer, from a part `x`, completes with what the answer leaves of it. -/
theorem order_answers {typ st : Nat} {x : Chip} (hx : x.CanAnswer i.src)
    (hrun : (dispatch i b).run (s.orderPart i) = (answer i typ st).run x)
    (hp : ∀ d, x.Sends i.src d → post d) : ∃ e, act .normal (receive i b) s = .next { s with chip := e } ∧
      e.said ctrlSession i.request (.status typ st none) ∧ post e := by
  obtain ⟨hs, -⟩ := Chip.controlTurn_facts ht
  obtain ⟨hsends, hsaid⟩ := sendStream_sends hx.peer i.tenant i.request (.status typ st none)
  rw [answer, hs] at hrun
  generalize (sendStream ctrlSession i.tenant i.request (.status typ st none)).run x = y at hrun hsends hsaid
  exact order_completes hr ht hlo hhi (congrArg Prod.snd hrun) (hsends.calm.trans hx.calm) (hsends.held.trans hx.held) fun g out =>
    ⟨hsaid, hp _ (hsends.settled g out)⟩

end

end Sys2Proof.Machine
end

section
/-! SUPPORT. Transit groups: what an order's fields are read as, what joining and freeing a group make of its registers. -/
namespace Sys2Proof.Machine

/-! ## The fields of an order (R423) -/

/-- The part once a field of an order is read: a clamp event, if it was too large. -/
def Chip.fieldRead (c : Chip) (typ hi v : Nat) : Chip := ((whenM (decide (hi < v)) (clampEvent srcOrch 0 typ)).run c).2

theorem orderField_bind {β : Type} (typ hi v : Nat) (k : Nat → CM β) (c : Chip) :
    (orderField typ hi v >>= k).run c = (k (min hi v)).run (c.fieldRead typ hi v) := rfl

theorem Chip.fieldRead_sameButRegs {c d : Chip} (h : c.sameButRegs d) (typ hi v : Nat) : c.sameButRegs (d.fieldRead typ hi v) :=
  Keeps.whenM (clampEvent_sameButRegs srcOrch 0 typ) d h

theorem Chip.fieldRead_rd {f : Fld} {o : Nat} (hk : ¬clampKeys srcOrch (regKey f o)) (c : Chip) (typ hi v : Nat) :
    (c.fieldRead typ hi v).rd f o = c.rd f o := (Mods.whenM (clampEvent_mods srcOrch 0 typ)).rd hk c

/-! ## What a group's registers show -/

/-- A group's fields have these values. -/
def Chip.shows (c : Chip) (g : Nat) (l : List (Fld × Nat)) : Prop := ∀ e ∈ l, c.rd e.1 (lgOff g) = e.2

theorem Chip.shows.of_rd {c d : Chip} {g : Nat} {l : List (Fld × Nat)} (h : c.shows g l)
    (hrd : ∀ e ∈ l, d.rd e.1 (lgOff g) = c.rd e.1 (lgOff g)) : d.shows g l := fun e he => (hrd e he).trans (h e he)

theorem Chip.trained_of_rd {c d : Chip} {g : Nat}
    (h : d.rd R.TORUS_PORT_STATUS_LASER_LOW (grpOff (g / 4) 0) = c.rd R.TORUS_PORT_STATUS_LASER_LOW (grpOff (g / 4) 0)) :
    d.trained g = c.trained g := by
  have hlit : d.lit g = c.lit g := by simp only [Chip.lit, h]
  rw [Chip.trained, Chip.trained, hlit]

/-- The light of a port stands in no field of a group, nor among what its port shows of them. -/
theorem not_groupKeys_laser {fs : List Fld} (hfs : fs.all Fld.inGroup = true) (g p : Nat) :
    ¬groupKeys fs g (regKey R.TORUS_PORT_STATUS_LASER_LOW (grpOff p 0)) := by
  rintro (⟨f', hf', he⟩ | ⟨f', hf', he⟩)
  · exact regKey_laser_ne_group (List.all_eq_true.1 hfs f' hf') p g he
  · simp only [portFlds, List.mem_cons, List.not_mem_nil, or_false] at hf'
    rcases hf' with rfl | rfl | rfl <;> simp only [regKey, grpOff, R.TORUS_PORT_STATUS_DEFINED, R.TORUS_PORT_STATUS_UP,
      R.TORUS_PORT_STATUS_WIDE, R.TORUS_PORT_STATUS_LASER_LOW] at he <;> omega

/-! ## A group of a transit (R240) -/

/-- The fields that joining a group writes. -/
def joinFlds : List Fld := [R.TORUS_GRP_STATE_OWNER, R.TORUS_GRP_STATE_JOB, R.TORUS_GRP_STATE_LANES8, R.TORUS_GRP_STATE_ENC,
  R.TORUS_GRP_LAT_LAT_MAX, R.TORUS_GRP_WEIGHTS_W1, R.TORUS_GRP_WEIGHTS_W2, R.TORUS_GRP_WEIGHTS_W3, R.TORUS_GRP_TRANSIT_VALID,
  R.TORUS_GRP_TRANSIT_PORT_OUT, R.TORUS_GRP_TRANSIT_GROUP_OUT, R.TORUS_GRP_STATE_STATE, R.TORUS_GRP_PEER_VALID]

/-- What a joined group shows: its job, lanes and encryption, and where its flits go on. -/
def joinVals (out group job : Nat) (wide enc : Bool) (st : Nat) : List (Fld × Nat) :=
  [(R.TORUS_GRP_STATE_OWNER, ownerTransit), (R.TORUS_GRP_STATE_JOB, job), (R.TORUS_GRP_STATE_LANES8, b2n wide),
   (R.TORUS_GRP_STATE_ENC, b2n enc), (R.TORUS_GRP_TRANSIT_VALID, 1), (R.TORUS_GRP_TRANSIT_PORT_OUT, out),
   (R.TORUS_GRP_TRANSIT_GROUP_OUT, group), (R.TORUS_GRP_STATE_STATE, st)]

theorem joinVals_inGroup (out group job : Nat) (wide enc : Bool) (st : Nat) :
    (joinVals out group job wide enc st).all (·.1.inGroup) = true := by
  simp only [joinVals, List.all_cons, List.all_nil]
  decide

theorem trainGroup_groupMods {fs : List Fld} (hfs : ∀ f ∈ trainFlds, f ∈ fs) (g : Nat) : Mods (groupKeys fs g) (trainGroup g) :=
  (trainGroup_mods g).mono fun _ hk => hk.imp_left fun ⟨f, hf, he⟩ => ⟨f, hfs f hf, he⟩

theorem joinGroup_mods {port group g : Nat} (hg : port * 4 + group = g) (out job lanes : Nat) (enc : Bool) :
    Mods (groupKeys joinFlds g) (joinGroup port out group job lanes enc) := by
  have hw {f : Fld} (hf : f ∈ joinFlds) (v : Nat) := wrM_groupMods hf g v
  subst hg
  refine Mods.bind ?_ fun _ => ?_
  · iterate 9 refine Mods.bind (hw (by simp [joinFlds]) _) fun _ => ?_
    exact Mods.bind (onLink_mods _ _) fun _ => trainGroup_groupMods (by simp [trainFlds, joinFlds]) _
  · iterate 2 refine Mods.bind (hw (by simp [joinFlds]) _) fun _ => ?_
    exact hw (by simp [joinFlds]) _

theorem joinGroup_onlyGroups {c : Chip} (port out group job lanes : Nat) (enc : Bool) :
    Keeps c.onlyGroups (joinGroup port out group job lanes enc) := by
  have hw (f : Fld) (o v : Nat) : Keeps c.onlyGroups (wrM f o v) := Keeps.wrM fun _ h => h.wr ..
  refine Keeps.bind ?_ fun _ => Keeps.bind (hw _ _ _) fun _ => Keeps.bind (hw _ _ _) fun _ => hw _ _ _
  iterate 9 refine Keeps.bind (hw _ _ _) fun _ => ?_
  exact Keeps.bind (onLink_onlyGroups _ _) fun _ => trainGroup_onlyGroups _

/-- The part once a group's definition is written, before it trains. -/
def Chip.defined (c : Chip) (g : Nat) (d : GroupDef) : Chip :=
  Chip.withLink ((((((((((c.wr R.TORUS_GRP_STATE_OWNER (lgOff g) d.owner).wr R.TORUS_GRP_STATE_JOB (lgOff g) d.job).wr
    R.TORUS_GRP_STATE_LANES8 (lgOff g) (b2n d.wide)).wr R.TORUS_GRP_STATE_ENC (lgOff g) (b2n d.enc)).wr
    R.TORUS_GRP_LAT_LAT_MAX (lgOff g) d.latMax).wr R.TORUS_GRP_WEIGHTS_W1 (lgOff g) d.w1).wr
    R.TORUS_GRP_WEIGHTS_W2 (lgOff g) d.w2).wr R.TORUS_GRP_WEIGHTS_W3 (lgOff g) d.w3).wr
    R.TORUS_GRP_TRANSIT_VALID (lgOff g) 0)) g { noLink with count := (c.link g).count }

theorem defineGroup_run (g : Nat) (d : GroupDef) (c : Chip) : (defineGroup g d).run c = (trainGroup g).run (c.defined g d) := by
  simp only [defineGroup, CM.run_seq, wrM_run, onLink_withLink, Chip.wr_link, Chip.defined]

theorem Chip.defined_trained (c : Chip) (g : Nat) (d : GroupDef) : (c.defined g d).trained g = c.trained g := by
  simp (disch := decide) only [Chip.defined, Chip.withLink_trained, Chip.wr_trained]

theorem b2n_lt (b : Bool) : b2n b < 2 := by cases b <;> decide

theorem joinGroup_shows {port group g : Nat} (hg : port * 4 + group = g) {out job lanes : Nat} (hout : out < 8) (hgroup : group < 4)
    (hjob : job < 4096) (enc : Bool) (c : Chip) :
    ((joinGroup port out group job lanes enc).run c).2.shows g (joinVals out group job (decide (lanes = 8)) enc (c.trained g)) := by
  intro e he
  simp only [joinVals, List.mem_cons, List.not_mem_nil, or_false] at he
  simp only [joinGroup, CM.run_seq, wrM_run, defineGroup_run, hg]
  rcases he with rfl | rfl | rfl | rfl | rfl | rfl | rfl | rfl
  all_goals dsimp only
  case inr.inr.inr.inr.inr.inr.inr =>
    rw [Chip.rd_wr_window (by decide), Chip.rd_wr_window (by decide), Chip.rd_wr_window (by decide)]
    exact (trainGroup_grpState g _).trans (Chip.defined_trained c g _)
  all_goals simp (disch := decide) only [Chip.rd_wr_window, Chip.rd_wr_same, trainGroup_rd, Chip.defined, Chip.withLink_rd]
  · rfl
  · exact Nat.mod_eq_of_lt hjob
  · exact Nat.mod_eq_of_lt (b2n_lt _)
  · exact Nat.mod_eq_of_lt (b2n_lt _)
  · rfl
  · exact Nat.mod_eq_of_lt hout
  · exact Nat.mod_eq_of_lt hgroup

/-- Once both groups are joined, each shows the other. -/
theorem joinGroups_show {p q group g h : Nat} (hg : p * 4 + group = g) (hh : q * 4 + group = h) (hgh : g ≠ h) (hp : p < 8) (hq : q < 8)
    (hgroup : group < 4) {job : Nat} (hjob : job < 4096) (lanes : Nat) (enc : Bool) (c : Chip) :
    let d := ((do joinGroup p q group job lanes enc; joinGroup q p group job lanes enc : CM Unit).run c).2
    c.onlyGroups d ∧ d.shows g (joinVals q group job (decide (lanes = 8)) enc (c.trained g)) ∧
      d.shows h (joinVals p group job (decide (lanes = 8)) enc (c.trained h)) := by
  have hfirst := joinGroup_shows hg hq hgroup hjob (lanes := lanes) enc c
  have htrained : ((joinGroup p q group job lanes enc).run c).2.trained h = c.trained h :=
    Chip.trained_of_rd ((joinGroup_mods hg q job lanes enc).rd (not_groupKeys_laser rfl g (h / 4)) c)
  have honly := joinGroup_onlyGroups p q group job lanes enc c c.onlyGroups_refl
  rw [CM.run_seq]
  generalize ((joinGroup p q group job lanes enc).run c).2 = x at hfirst htrained honly
  refine ⟨joinGroup_onlyGroups q p group job lanes enc x honly, hfirst.of_rd fun e he => ?_,
    htrained ▸ joinGroup_shows hh hp hgroup hjob enc x⟩
  exact (joinGroup_mods hh p job lanes enc).rd (not_groupKeys_other (List.all_eq_true.1 (joinVals_inGroup ..) e he) rfl hgh) x

/-! ## The check of a transit order (R313) -/

theorem Chip.groupFree_of_rd {c d : Chip} (hseq : d.seq = c.seq)
    (hrd : ∀ {f : Fld} {g : Nat}, f.inGroup = true → g < 32 → d.rd f (lgOff g) = c.rd f (lgOff g))
    {port g : Nat} (hg : port * 4 + g < 32) : d.groupFree port g = c.groupFree port g := by
  have howner {h : Nat} (hh : h < 32) : d.grpOwner h = c.grpOwner h := hrd (by decide) hh
  have hwide : d.flag R.TORUS_GRP_STATE_LANES8 (lgOff (port * 4 + g / 2 * 2)) =
      c.flag R.TORUS_GRP_STATE_LANES8 (lgOff (port * 4 + g / 2 * 2)) := by
    rw [Chip.flag, hrd (by decide) (by omega), Chip.flag]
  rw [Chip.groupFree, Chip.groupFree, howner hg, howner (by omega), hwide, hseq]

/-- The check of a transit order reads nothing but the groups' registers, the accepted list and the keys. -/
theorem Chip.transitFail_of_rd {c d : Chip} (hseq : d.seq = c.seq) (hkeys : d.keys = c.keys)
    (hrd : ∀ {f : Fld} {g : Nat}, f.inGroup = true → g < 32 → d.rd f (lgOff g) = c.rd f (lgOff g)) {dim group : Nat} (hdim : dim ≤ 2)
    (hgroup : group ≤ 3) (lanes : Nat) (enc : Bool) : d.transitFail dim group lanes enc = c.transitFail dim group lanes enc := by
  have hkeyed (p g : Nat) : d.linkKeyed p g = c.linkKeyed p g := by simp only [Chip.linkKeyed, Chip.key, hkeys]
  have hspan {p n : Nat} (hp : p ≤ 5) : (spanGroups group n).all (d.groupFree p) = (spanGroups group n).all (c.groupFree p) := by
    rw [Bool.eq_iff_iff, List.all_eq_true, List.all_eq_true]
    refine forall₂_congr fun g hg => ?_
    have : g ≤ 4 := by
      unfold spanGroups at hg
      split at hg <;> simp only [List.mem_cons, List.not_mem_nil, or_false] at hg <;> omega
    rw [Chip.groupFree_of_rd hseq hrd (by omega)]
  unfold Chip.transitFail
  dsimp only [List.all]
  rw [hspan (show 2 * dim ≤ 5 by omega), hspan (show 2 * dim + 1 ≤ 5 by omega), hkeyed, hkeyed]

/-! ## A group freed (R240, R243) -/

def freeFlds : List Fld := [R.TORUS_GRP_STATE_OWNER, R.TORUS_GRP_STATE_JOB, R.TORUS_GRP_TRANSIT_VALID, R.TORUS_GRP_STATE_STATE]

/-- What RELEASE does at a group: one of a transit becomes FREE. -/
def releaseGroup (g : Nat) : CM Unit := do
  let c ← get
  whenM (decide (c.grpOwner g = ownerTransit)) (freeGroup g)

theorem freeGroup_mods (g : Nat) : Mods (groupKeys freeFlds g) (freeGroup g) := by
  iterate 3 refine Mods.bind (wrM_groupMods (by simp [freeFlds]) g _) fun _ => ?_
  exact Mods.bind (onLink_mods g _) fun _ => (setGrpState_mods g _).mono fun _ hk =>
    hk.imp_left fun ⟨f, hf, he⟩ => ⟨f, by simp_all [freeFlds], he⟩

theorem freeGroup_onlyGroups {c : Chip} (g : Nat) : Keeps c.onlyGroups (freeGroup g) := by
  iterate 3 refine Keeps.bind (Keeps.wrM fun _ h => h.wr ..) fun _ => ?_
  exact Keeps.bind (onLink_onlyGroups g _) fun _ => Chip.onlyGroups.of_sameButRegs (fun _ => setGrpState_sameButRegs g _) c

theorem freeGroup_frees (g : Nat) (c : Chip) : ((freeGroup g).run c).2.shows g
    [(R.TORUS_GRP_STATE_OWNER, ownerFree), (R.TORUS_GRP_STATE_STATE, grpUnused)] := by
  intro e he
  simp only [List.mem_cons, List.not_mem_nil, or_false] at he
  simp only [freeGroup, CM.run_seq, wrM_run, onLink_withLink]
  rcases he with rfl | rfl
  · simp (disch := decide) only [setGrpState_rd, Chip.withLink_rd, Chip.rd_wr_window, Chip.rd_wr_same]
    rfl
  · exact setGrpState_grpState (by decide) g _

theorem releaseGroup_mods (g : Nat) : Mods (groupKeys freeFlds g) (releaseGroup g) :=
  Mods.bind Mods.get fun _ => Mods.whenM (freeGroup_mods g)

theorem releaseGroup_onlyGroups {c : Chip} (g : Nat) : Keeps c.onlyGroups (releaseGroup g) :=
  Keeps.bind Keeps.get fun _ => Keeps.whenM (freeGroup_onlyGroups g)

/-- What a group shows once its transit, if it is in one, is released. -/
def Chip.releasedVals (c : Chip) (g : Nat) : List (Fld × Nat) :=
  if c.grpOwner g = ownerTransit then [(R.TORUS_GRP_STATE_OWNER, ownerFree), (R.TORUS_GRP_STATE_STATE, grpUnused)]
  else [(R.TORUS_GRP_STATE_OWNER, c.grpOwner g), (R.TORUS_GRP_STATE_STATE, c.grpState g)]

theorem Chip.releasedVals_inGroup (c : Chip) (g : Nat) : (c.releasedVals g).all (·.1.inGroup) = true := by
  unfold Chip.releasedVals
  split <;> (simp only [List.all_cons, List.all_nil]; decide)

theorem releaseGroup_shows (g : Nat) (c : Chip) : ((releaseGroup g).run c).2.shows g (c.releasedVals g) := by
  rw [releaseGroup, CM.get_bind, Chip.releasedVals, whenM_run]
  by_cases h : c.grpOwner g = ownerTransit
  · rw [if_pos h, if_pos (decide_eq_true h)]
    exact freeGroup_frees g c
  · rw [if_neg h, decide_eq_false h, if_neg Bool.false_ne_true]
    intro e he
    simp only [List.mem_cons, List.not_mem_nil, or_false] at he
    rcases he with rfl | rfl <;> rfl

theorem releaseGroups_show {g h : Nat} (hgh : g ≠ h) (c : Chip) :
    let d := ((do releaseGroup g; releaseGroup h : CM Unit).run c).2
    c.onlyGroups d ∧ d.shows g (c.releasedVals g) ∧ d.shows h (c.releasedVals h) := by
  have hfirst := releaseGroup_shows g c
  have hrd {f : Fld} (hf : f.inGroup = true) : ((releaseGroup g).run c).2.rd f (lgOff h) = c.rd f (lgOff h) :=
    (releaseGroup_mods g).rd (not_groupKeys_other hf rfl hgh.symm) c
  have honly := releaseGroup_onlyGroups g c c.onlyGroups_refl
  rw [CM.run_seq]
  generalize ((releaseGroup g).run c).2 = x at hfirst hrd honly
  have hvals : x.releasedVals h = c.releasedVals h := by
    have howner : x.grpOwner h = c.grpOwner h := hrd (by decide)
    have hstate : x.grpState h = c.grpState h := hrd (by decide)
    rw [Chip.releasedVals, howner, hstate, Chip.releasedVals]
  refine ⟨releaseGroup_onlyGroups h x honly, hfirst.of_rd fun e he => ?_, hvals ▸ releaseGroup_shows h x⟩
  exact (releaseGroup_mods h).rd (not_groupKeys_other (List.all_eq_true.1 (c.releasedVals_inGroup g) e he) rfl hgh) x

end Sys2Proof.Machine
end

section
/-! Settles the statement on the orchestrator's other orders: what each does once it is in turn, and from it each clause. -/
namespace Sys2Proof.Machine

/-! ## What an order leaves as its answer is due -/

theorem not_frontKeys_group {f : Fld} (hf : f.inGroup = true) {g : Nat} (hg : g < 32) (front : Nat) :
    ¬frontKeys front (regKey f (lgOff g)) := by
  rw [Fld.inGroup_iff] at hf
  simp only [frontKeys, regKey, lgOff, grpOff, frontOff, R.FRONT_FRAMES_TX, R.FRONT_STATUS_PN_WARN, R.FRONT_STATUS_PN_END]
  omega

theorem Chip.Sends.shows {p : Peer} {c d : Chip} (h : c.Sends p d) {g : Nat} (hg : g < 32) {l : List (Fld × Nat)}
    (hl : l.all (·.1.inGroup) = true) (hs : c.shows g l) : d.shows g l :=
  hs.of_rd fun e he => h.rd (not_frontKeys_group (List.all_eq_true.1 hl e he) hg p.front)

/-! ## TRANSIT and RELEASE (R240) -/

/-- The part once an order's dimension and group are read. -/
def Chip.spanRead (c : Chip) (typ dim group : Nat) : Chip := (c.fieldRead typ 2 dim).fieldRead typ 3 group

theorem Chip.spanRead_sameButRegs (c : Chip) (typ dim group : Nat) : c.sameButRegs (c.spanRead typ dim group) :=
  Chip.fieldRead_sameButRegs (Chip.fieldRead_sameButRegs c.sameButRegs_refl ..) ..

theorem Chip.spanRead_rd {f : Fld} {o : Nat} (hk : ¬clampKeys srcOrch (regKey f o)) (c : Chip) (typ dim group : Nat) :
    (c.spanRead typ dim group).rd f o = c.rd f o := (Chip.fieldRead_rd hk ..).trans (Chip.fieldRead_rd hk ..)

theorem not_clampKeys_laser (src : Nat) {p : Nat} (hp : p < 8) : ¬clampKeys src (regKey R.TORUS_PORT_STATUS_LASER_LOW (grpOff p 0)) := by
  rintro (he | ⟨f', hf', he⟩)
  · simp only [regKey, grpOff, R.FAULT_CLAMP_COUNT, R.TORUS_PORT_STATUS_LASER_LOW] at he
    omega
  · simp only [clampFlds, List.mem_cons, List.not_mem_nil, or_false] at hf'
    rcases hf' with rfl | rfl | rfl | rfl <;> simp only [regKey, grpOff, R.TORUS_PORT_STATUS_LASER_LOW, R.FAULT_CLAMP_SRC_VALID,
      R.FAULT_CLAMP_SRC_SESSION, R.FAULT_CLAMP_SRC_SOURCE, R.FAULT_CLAMP_ADDR_WHERE] at he <;> omega

theorem Chip.spanRead_trained (c : Chip) (typ dim group : Nat) {g : Nat} (hg : g < 32) :
    (c.spanRead typ dim group).trained g = c.trained g :=
  Chip.trained_of_rd (Chip.spanRead_rd (not_clampKeys_laser _ (by omega)) ..)

theorem Chip.spanRead_transitFail (c : Chip) (typ dim group : Nat) {dm gr : Nat} (hdm : dm ≤ 2) (hgr : gr ≤ 3) (lanes : Nat) (enc : Bool) :
    (c.spanRead typ dim group).transitFail dm gr lanes enc = c.transitFail dm gr lanes enc := by
  have hrd {f : Fld} {g : Nat} (hf : f.inGroup = true) (hg : g < 32) : (c.spanRead typ dim group).rd f (lgOff g) = c.rd f (lgOff g) :=
    Chip.spanRead_rd (not_clampKeys_group hf hg) ..
  obtain ⟨rs, hsame⟩ := c.spanRead_sameButRegs typ dim group
  exact Chip.transitFail_of_rd (by rw [hsame]) (by rw [hsame]) hrd hdm hgr lanes enc

theorem doTransit_refused {i : TnpIn} {job dim group lanes e : Nat} {enc : Bool} {c : Chip}
    (h : c.transitFail (min 2 dim) (min 3 group) lanes enc = some e) :
    (doTransit i job dim group lanes enc).run c = (answer i 0x44 e).run (c.spanRead 0x44 dim group) := by
  rw [doTransit, orderField_bind, orderField_bind, CM.get_bind, ← Chip.spanRead,
    Chip.spanRead_transitFail _ _ _ _ (Nat.min_le_left ..) (Nat.min_le_left ..), h]

/-- The two ends of a transit are joined, each to the other. -/
def joinEnds (job dim group lanes : Nat) (enc : Bool) : CM Unit := do
  joinGroup (2 * dim) (2 * dim + 1) group job lanes enc
  joinGroup (2 * dim + 1) (2 * dim) group job lanes enc

theorem doTransit_joins {i : TnpIn} {job dim group lanes : Nat} {enc : Bool} {c : Chip}
    (h : c.transitFail (min 2 dim) (min 3 group) lanes enc = none) : (doTransit i job dim group lanes enc).run c =
      (answer i 0x44 0).run ((joinEnds (job % 4096) (min 2 dim) (min 3 group) lanes enc).run (c.spanRead 0x44 dim group)).2 := by
  rw [doTransit, orderField_bind, orderField_bind, CM.get_bind, ← Chip.spanRead,
    Chip.spanRead_transitFail _ _ _ _ (Nat.min_le_left ..) (Nat.min_le_left ..), h]
  simp only [joinEnds, CM.run_seq]

/-- What a group of a transit shows, field by field. -/
theorem Chip.shows.joined {d : Chip} {g out group job st : Nat} {wide enc : Bool} (h : d.shows g (joinVals out group job wide enc st)) :
    d.grpOwner g = ownerTransit ∧ d.rd R.TORUS_GRP_STATE_JOB (lgOff g) = job ∧ d.flag R.TORUS_GRP_STATE_LANES8 (lgOff g) = wide ∧
    d.flag R.TORUS_GRP_STATE_ENC (lgOff g) = enc ∧ d.flag R.TORUS_GRP_TRANSIT_VALID (lgOff g) = true ∧
    d.rd R.TORUS_GRP_TRANSIT_PORT_OUT (lgOff g) = out ∧ d.rd R.TORUS_GRP_TRANSIT_GROUP_OUT (lgOff g) = group ∧ d.grpState g = st := by
  have hflag (b : Bool) : decide (b2n b = 1) = b := by cases b <;> rfl
  simp only [Chip.shows, joinVals, List.forall_mem_cons] at h
  obtain ⟨howner, hjob, hwide, henc, hvalid, hout, hgroup, hstate, -⟩ := h
  exact ⟨howner, hjob, by rw [Chip.flag, hwide, hflag], by rw [Chip.flag, henc, hflag], decide_eq_true hvalid, hout, hgroup, hstate⟩

theorem doRelease_run (i : TnpIn) (dim group : Nat) (c : Chip) : (doRelease i dim group).run c = (answer i 0x45 0).run
    ((do releaseGroup (2 * min 2 dim * 4 + min 3 group); releaseGroup ((2 * min 2 dim + 1) * 4 + min 3 group) : CM Unit).run
      (c.spanRead 0x45 dim group)).2 := by
  rw [doRelease, orderField_bind, orderField_bind, ← Chip.spanRead]
  rfl

theorem Chip.shows.released {c d : Chip} {g : Nat} (h : d.shows g (c.releasedVals g)) :
    if c.grpOwner g = ownerTransit then d.grpOwner g = ownerFree ∧ d.grpState g = grpUnused
    else d.grpOwner g = c.grpOwner g ∧ d.grpState g = c.grpState g := by
  unfold Chip.releasedVals at h
  split at h <;> simp only [Chip.shows, List.forall_mem_cons] at h
  case isTrue hown => exact (if_pos hown).symm ▸ ⟨h.1, h.2.1⟩
  case isFalse hown => exact (if_neg hown).symm ▸ ⟨h.1, h.2.1⟩

/-! ## The statement's clauses, each by what its command does -/

section
variable {s : State} {i : TnpIn} (hr : s.chip.runs = true) (hc : s.chip.calm = true)
include hr hc

theorem transit_refused {job dim group lanes e : Nat} {enc : Bool} (ht : s.chip.controlTurn i 0x44 = true)
    (h : s.chip.transitFail (min 2 dim) (min 3 group) lanes enc = some e) : Completes (.transit i job dim group lanes enc) s fun d =>
      d.said ctrlSession i.request (.status 0x44 e none) ∧ d.links = s.chip.links := by
  have hx := State.orderPart_canAnswer ht hc
  have hfail : (s.orderPart i).transitFail (min 2 dim) (min 3 group) lanes enc = some e := h
  obtain ⟨_, hsame⟩ := (s.orderPart i).spanRead_sameButRegs 0x44 dim group
  refine order_answers (b := .transit job dim group lanes enc) hr ht (show 0x40 ≤ 0x44 by decide) (show 0x44 < 0x60 by decide)
    (hx.of_sameButRegs ⟨_, hsame⟩) (doTransit_refused hfail) fun d hd => ?_
  obtain ⟨_, _, _, _, _, rfl⟩ := hd.only
  exact (congrArg Chip.links hsame :)

theorem transit_joins {job dim group lanes : Nat} {enc : Bool} (ht : s.chip.controlTurn i 0x44 = true)
    (h : s.chip.transitFail (min 2 dim) (min 3 group) lanes enc = none) : Completes (.transit i job dim group lanes enc) s fun d =>
      d.said ctrlSession i.request (.status 0x44 0 none) ∧
      ∀ p q, (p = 2 * min 2 dim ∧ q = 2 * min 2 dim + 1) ∨ (p = 2 * min 2 dim + 1 ∧ q = 2 * min 2 dim) →
        d.shows (p * 4 + min 3 group)
          (joinVals q (min 3 group) (job % 4096) (decide (lanes = 8)) enc (s.chip.trained (p * 4 + min 3 group))) := by
  have hx := State.orderPart_canAnswer ht hc
  have hfail : (s.orderPart i).transitFail (min 2 dim) (min 3 group) lanes enc = none := h
  have hrun := doTransit_joins (i := i) (job := job) hfail
  have hsame := (s.orderPart i).spanRead_sameButRegs 0x44 dim group
  have htrained {g : Nat} (hg : g < 32) : ((s.orderPart i).spanRead 0x44 dim group).trained g = s.chip.trained g :=
    Chip.spanRead_trained _ _ _ _ hg
  generalize (s.orderPart i).spanRead 0x44 dim group = y at hrun hsame htrained
  have hdim : min 2 dim ≤ 2 := Nat.min_le_left ..
  have hgroup : min 3 group < 4 := by omega
  obtain ⟨honly, hfirst, hsecond⟩ := joinGroups_show (p := 2 * min 2 dim) (q := 2 * min 2 dim + 1) rfl rfl (by omega) (by omega) (by omega)
    hgroup (Nat.mod_lt job (by decide)) lanes enc y
  rw [htrained (by omega)] at hfirst hsecond
  refine order_answers (b := .transit job dim group lanes enc) hr ht (show 0x40 ≤ 0x44 by decide) (show 0x44 < 0x60 by decide)
    ((hx.of_sameButRegs hsame).of_onlyGroups honly) hrun fun d hd p q hpq => ?_
  rcases hpq with ⟨rfl, rfl⟩ | ⟨rfl, rfl⟩
  · exact hd.shows (by omega) (joinVals_inGroup ..) hfirst
  · exact hd.shows (by omega) (joinVals_inGroup ..) hsecond

theorem release_releases {dim group : Nat} (ht : s.chip.controlTurn i 0x45 = true) : Completes (.release i dim group) s fun d =>
    d.said ctrlSession i.request (.status 0x45 0 none) ∧ ∀ p, p = 2 * min 2 dim ∨ p = 2 * min 2 dim + 1 →
      d.shows (p * 4 + min 3 group) (s.chip.releasedVals (p * 4 + min 3 group)) := by
  have hx := State.orderPart_canAnswer ht hc
  have hrun := doRelease_run i dim group (s.orderPart i)
  have hsame := (s.orderPart i).spanRead_sameButRegs 0x45 dim group
  have hvals {g : Nat} (hg : g < 32) :
      ((s.orderPart i).spanRead 0x45 dim group).releasedVals g = s.chip.releasedVals g := by
    have hrd {f : Fld} (hf : f.inGroup = true) :
        ((s.orderPart i).spanRead 0x45 dim group).rd f (lgOff g) = s.chip.rd f (lgOff g) :=
      Chip.spanRead_rd (not_clampKeys_group hf hg) ..
    rw [Chip.releasedVals, Chip.grpOwner, hrd (by decide), Chip.grpState, hrd (by decide)]
    rfl
  generalize (s.orderPart i).spanRead 0x45 dim group = y at hrun hsame hvals
  have hgroup : min 3 group < 4 := by omega
  have hdim : min 2 dim ≤ 2 := Nat.min_le_left ..
  obtain ⟨honly, hfirst, hsecond⟩ := releaseGroups_show (g := 2 * min 2 dim * 4 + min 3 group)
    (h := (2 * min 2 dim + 1) * 4 + min 3 group) (by omega) y
  rw [hvals (by omega)] at hfirst hsecond
  refine order_answers (b := .release dim group) hr ht (show 0x40 ≤ 0x45 by decide) (show 0x45 < 0x60 by decide)
    ((hx.of_sameButRegs hsame).of_onlyGroups honly) hrun fun d hd p hp => ?_
  rcases hp with rfl | rfl
  · exact hd.shows (by omega) (s.chip.releasedVals_inGroup _) hfirst
  · exact hd.shows (by omega) (s.chip.releasedVals_inGroup _) hsecond

end

end Sys2Proof.Machine
end

section
/-! Settles the statement on the orchestrator's other orders: tenants, paging, the replica table and shards, and the statement
itself. -/
namespace Sys2Proof.Machine

/-! ## TENANT (R314) -/

/-- A tenant order within its legal values. -/
def TenantOrder.clamped (o : TenantOrder) : TenantOrder :=
  { o with cls := min 3 o.cls, policy := min 2 o.policy, maxActive := min 65536 o.maxActive, maxContext := max 1 (min 1048576 o.maxContext) }

/-- The part with an order of a tenant for the next admission close. -/
def Chip.tenantWaits (c : Chip) (tenant : Nat) (o : TenantOrder) : Chip :=
  { c with serving := { c.serving with tenantNext := Tbl.insert tenant o c.serving.tenantNext } }

theorem Chip.CanAnswer.tenantWaits {p : Peer} {c : Chip} (h : c.CanAnswer p) (tenant : Nat) (o : TenantOrder) :
    (c.tenantWaits tenant o).CanAnswer p := ⟨h.calm, h.peer, h.held⟩

theorem clampTenant_bind {β : Type} (o : TenantOrder) (k : TenantOrder → CM β) (c : Chip) : ∃ d, c.sameButRegs d ∧
    (clampTenant o >>= k).run c = (k o.clamped).run d := by
  have hclamps (n : Nat) := Keeps.forM (fun _ => clampEvent_sameButRegs (c := c) srcOrch 0 0x46) (upFrom 0 n) c c.sameButRegs_refl
  exact ⟨_, hclamps _, rfl⟩

theorem doTenant_waits (i : TnpIn) (o : TenantOrder) (c : Chip) : ∃ d, c.sameButRegs d ∧
    (doTenant i o).run c = (answer i 0x46 0).run (d.tenantWaits i.tenant o.clamped) := by
  obtain ⟨d, hd, hrun⟩ := clampTenant_bind o (fun r => do
    onServing fun v => { v with tenantNext := Tbl.insert i.tenant r v.tenantNext }
    answer i 0x46 0) c
  exact ⟨d, hd, hrun⟩

/-! ## PAGE_OUT and PAGE_IN (R271, R272, R313) -/

/-- The part with a request moved, and an order of it for the next broadcast. -/
def Chip.paged (c : Chip) (x : Nat) (q : Request) (o : Order) : Chip :=
  { c with serving := { c.serving with orders := c.serving.orders ++ [o], requests := Tbl.insert x q c.serving.requests } }

theorem Chip.paged_request (c : Chip) (x : Nat) (q : Request) (o : Order) : (c.paged x q o).request x = some q :=
  Tbl.find?_insert_same ..

theorem Chip.CanAnswer.paged {p : Peer} {c : Chip} (h : c.CanAnswer p) (x : Nat) (q : Request) (o : Order) :
    (c.paged x q o).CanAnswer p := ⟨h.calm, h.peer, h.held⟩

theorem onRequest_run {c : Chip} {x : Nat} {q : Request} (h : c.request x = some q) (f : Request → Request) :
    (onRequest x f).run c = (putRequest x (f q)).run c := by
  rw [onRequest, CM.get_bind, h]

section
variable {i : TnpIn} {id handle x : Nat} {q : Request} {c : Chip}

theorem doPageOut_elsewhere (h : c.admits = false) : (doPageOut i id handle).run c = (answer i 0x47 0x10).run c := by
  rw [doPageOut, CM.get_bind, h]
  rfl

theorem doPageOut_unknown (h : c.admits = true) (hid : c.requestById id = none) :
    (doPageOut i id handle).run c = (answer i 0x47 0x20).run c := by
  rw [doPageOut, CM.get_bind, h, hid]
  rfl

variable (h : c.admits = true) (hid : c.requestById id = some (x, q))
include h hid

theorem doPageOut_refused (hst : q.state ≠ 2) : (doPageOut i id handle).run c = (answer i 0x47 0x1A).run c := by
  rw [doPageOut, CM.get_bind, h, hid]
  exact congrArg (fun m : CM Unit => m.run c) (if_neg hst)

theorem doPageIn_refused (hst : q.state ≠ 3) : (doPageIn i id).run c = (answer i 0x48 0x1A).run c := by
  rw [doPageIn, CM.get_bind, h, hid]
  exact congrArg (fun m : CM Unit => m.run c) (if_neg hst)

variable (hq : c.request x = some q)
include hq

theorem doPageOut_moves (hst : q.state = 2) : (doPageOut i id handle).run c = (answer i 0x47 0).run
    (c.paged x { q with state := 3 } { noOrder with op := 6, context := x, request := id, handle := handle }) := by
  rw [doPageOut, CM.get_bind, h, hid]
  refine (congrArg (fun m : CM Unit => m.run c) (if_pos hst)).trans ?_
  rw [CM.run_seq, CM.run_seq, onRequest_run (by exact hq)]
  rfl

theorem doPageIn_moves (hst : q.state = 3) : (doPageIn i id).run c = (answer i 0x48 0).run
    (c.paged x { q with state := 2 } { noOrder with op := 7, context := x, request := id }) := by
  rw [doPageIn, CM.get_bind, h, hid]
  refine (congrArg (fun m : CM Unit => m.run c) (if_pos hst)).trans ?_
  rw [CM.run_seq, CM.run_seq, onRequest_run (by exact hq)]
  rfl

end

/-! ## REPLICA (R411) -/

/-- A row names a package of the job that is another and can be reached from here. -/
def Chip.replicaGood (c : Chip) (r : ReplicaRow) : Bool :=
  (c.seq.jobs.any fun e => decide (e.node = r.replica % 4096)) && !decide (r.replica % 4096 = c.node)
    && c.flag R.TORUS_PATH_VALID (4 * (r.replica % 4096))

/-- The replica that a table's last good row for this package names. -/
def Chip.replicaNamed (c : Chip) (rows : List ReplicaRow) : Option ReplicaRow :=
  (rows.filter fun r => c.replicaGood r &&
    decide (r.index = (indexOf (fun e : JobEntry => decide (e.node = c.node)) c.seq.jobs).getD 0)).getLast?

theorem clampEvent_valid (src session place : Nat) (c : Chip) :
    ((clampEvent src session place).run c).2.flag R.FAULT_CLAMP_SRC_VALID = true := by
  refine decide_eq_true ?_
  simp only [clampEvent, CM.run_seq, bumpM_run, wrM_run]
  simp (disch := decide) only [Chip.rd_wr_window, Chip.rd_wr_same]
  rfl

theorem doReplica_idle {job : Nat} {rows : List ReplicaRow} {c : Chip}
    (h : c.rd R.SEQ_STATE_STATE = seqEmpty ∨ c.rd R.SEQ_JOB_JOB ≠ job % 4096) : (doReplica job rows).run c = ((), c) := by
  rw [doReplica, CM.get_bind]
  exact congrArg (fun m : CM Unit => m.run c) (if_pos h)

/-- The part once the rows that are not good are counted, one clamp event for each. -/
def Chip.rowsCounted (c : Chip) (rows : List ReplicaRow) : Chip :=
  ((forM_ (rows.filter fun r => !c.replicaGood r) fun _ => clampEvent srcOrch 0 0x49).run c).2

theorem Chip.rowsCounted_sameButRegs (c : Chip) (rows : List ReplicaRow) : c.sameButRegs (c.rowsCounted rows) :=
  Keeps.forM (fun _ => clampEvent_sameButRegs srcOrch 0 0x49) _ c c.sameButRegs_refl

theorem Chip.rowsCounted_flag {c : Chip} {rows : List ReplicaRow} (h : rows.any (fun r => !c.replicaGood r) = true) :
    (c.rowsCounted rows).flag R.FAULT_CLAMP_SRC_VALID = true := by
  obtain ⟨r, hr, hbad⟩ := List.any_eq_true.1 h
  have hmem : r ∈ rows.filter fun r => !c.replicaGood r := List.mem_filter.2 ⟨hr, hbad⟩
  have hsets (d : Chip) : ((clampEvent srcOrch 0 0x49).run d).2.flag R.FAULT_CLAMP_SRC_VALID = true := clampEvent_valid srcOrch 0 0x49 d
  unfold Chip.rowsCounted
  generalize clampEvent srcOrch 0 0x49 = m at hsets
  exact Leads.forM (P := fun _ => True) (Q := fun d => d.flag R.FAULT_CLAMP_SRC_VALID = true) (t := r) (fun d _ => hsets d)
    (fun _ _ _ _ => trivial) (fun _ d _ => hsets d) hmem c trivial

theorem doReplica_names {job : Nat} {rows : List ReplicaRow} {c : Chip} (hst : c.rd R.SEQ_STATE_STATE ≠ seqEmpty)
    (hjob : c.rd R.SEQ_JOB_JOB = job % 4096) : ((doReplica job rows).run c).2 = { c.rowsCounted rows with
      replicaNext := match c.replicaNamed rows with
        | some r => some ⟨r.replica % 4096, r.crc⟩
        | none => c.replicaNext } := by
  have hbad (r : ReplicaRow) : (!(c.seq.jobs.any fun e => decide (e.node = r.replica % 4096)) || decide (r.replica % 4096 = c.node) ||
      !c.flag R.TORUS_PATH_VALID (4 * (r.replica % 4096))) = !c.replicaGood r := by
    simp only [Chip.replicaGood, Bool.not_and, Bool.not_not]
  have hno : ¬(c.rd R.SEQ_STATE_STATE = seqEmpty ∨ c.rd R.SEQ_JOB_JOB ≠ job % 4096) := by simp [hst, hjob]
  obtain ⟨rs, hsame⟩ := c.rowsCounted_sameButRegs rows
  rw [doReplica, CM.get_bind]
  refine (congrArg (fun m : CM Unit => (m.run c).2) (if_neg hno)).trans ?_
  simp only [hbad, Bool.not_not, CM.run_seq]
  rw [← Chip.rowsCounted, ← Chip.replicaNamed]
  cases c.replicaNamed rows with
  | none =>
    rw [hsame]
    rfl
  | some r => rfl

/-! ## SHARD (R346, R349, R351) -/

theorem not_frontKeys_naks {front : Nat} (h : front < 2) : ¬frontKeys front (regKey R.LOAD_NAKS_COUNT 0) := by
  simp only [frontKeys, regKey, frontOff, R.LOAD_NAKS_COUNT, R.FRONT_FRAMES_TX, R.FRONT_STATUS_PN_WARN, R.FRONT_STATUS_PN_END]
  omega

/-- An object with one more shard. -/
def LoadObj.withShard (l : LoadObj) (h : ShardHdr) (data : List Nat) : LoadObj :=
  { l with got := l.got ++ [h.index], pieces := Tbl.insert h.offset data l.pieces, state := if l.state = 5 then 1 else l.state }

/-- There is room to stage data among what the objects hold (R351). -/
def Chip.stages (c : Chip) (data : List Nat) : Prop :=
  (c.loads.map (·.stagedLines)).foldl (· + ·) 0 + cdiv data.length 32 ≤ ((upFrom 0 8).map fun d => c.regionLines d 6).foldl (· + ·) 0

/-- The part with an object in the place of the one of its number. -/
def Chip.withLoad (c : Chip) (l : LoadObj) : Chip := { c with loads := amend (sameObj l) (fun _ => l) c.loads }

theorem Chip.withLoad_loadOf {c : Chip} {kind obj : Nat} {l m : LoadObj} (h : c.loadOf kind obj = some l) (hk : m.kind = l.kind)
    (ho : m.object = l.object) : (c.withLoad m).loadOf kind obj = some m := by
  have hl := List.find?_some h
  exact find?_amend (by simp [sameObj, hk, ho]) (by simpa [hk, ho] using hl) h

theorem arriveShard_here {h : ShardHdr} {c : Chip} (hdest : h.dest = c.node) (crcOk : Bool) (data : List Nat) :
    (arriveShard h crcOk data).run c = (keepShard h crcOk data).run c := by
  rw [arriveShard, CM.get_bind, if_pos hdest]

theorem keepShard_corrupt (h : ShardHdr) (data : List Nat) (c : Chip) : (keepShard h false data).run c = (corruptShard h).run c := by
  rw [keepShard, CM.get_bind, Bool.not_false, Bool.true_or, if_pos rfl]

theorem workList_waits {l : LoadObj} (h : l.got.length ≠ l.count) : workList l = putLoad l := if_neg h

section
variable {h : ShardHdr} {data : List Nat} {l : LoadObj} {c : Chip}

/-- A good shard of a cutting list that has others missing is held. -/
theorem keepShard_holds (habort : h.abort = false) (hrepair : h.repair = false) (hkind : h.kind = 2)
    (hl : c.loadOf 2 h.object = some l) (hnew : l.got.contains h.index = false) (hleft : l.got.length + 1 < l.count)
    (hindex : h.index < h.count) (hdata : data ≠ []) (hlen : data.length ≤ 1048576) (hroom : c.stages data) :
    (keepShard h true data).run c = (putLoad (l.withShard h data)).run (c.withLoad (l.withShard h data)) := by
  have hgood : ¬((!true || decide (h.kind = 0 ∨ 3 < h.kind ∨
      (h.abort = false ∧ (h.count ≤ h.index ∨ data.isEmpty = true ∨ 1048576 < data.length)))) = true) := by
    simp [hkind, hindex, hdata, hlen]
  have hwait : workList (l.withShard h data) = putLoad (l.withShard h data) :=
    workList_waits (by simp only [LoadObj.withShard, List.length_append, List.length_singleton]; omega)
  have hroom' : ¬((upFrom 0 8).map fun d => c.regionLines d 6).foldl (· + ·) 0 <
      (c.loads.map (·.stagedLines)).foldl (· + ·) 0 + cdiv data.length 32 := Nat.not_lt.2 hroom
  rw [keepShard, CM.get_bind, if_neg hgood]
  simp only [habort, hrepair, hkind, hl, Option.isSome_some, Option.getD_some, Bool.not_true, Bool.false_and, Bool.false_eq_true, if_false,
    hnew, hroom', if_true, CM.run_seq, CM.run_modify]
  rw [← hwait]
  rfl

end

theorem loadEvent_rd {f : Fld} {o : Nat} (hk : ∀ d, regKey f o ≠ regKey R.EVR_TRIG_LOST_COUNT (dieOff d))
    (event kind code object index detail : Nat) (c : Chip) :
    ((loadEvent event kind code object index detail).run c).2.rd f o = c.rd f o := by
  rw [loadEvent, CM.get_bind, CM.run_seq]
  exact (takeRecord_mods _ _ _).rd (hk _) _

theorem corruptShard_foreign {h : ShardHdr} {c : Chip} (hl : c.loadOf h.kind h.object = none) :
    (corruptShard h).run c = (loadEvent 1 h.kind 0 h.object h.index 0).run (c.bump R.LOAD_NAKS_COUNT 0 1) := by
  have hno : ((loadEvent 1 h.kind 0 h.object h.index 0).run (c.bump R.LOAD_NAKS_COUNT 0 1)).2.loadOf h.kind h.object = none := by
    obtain ⟨_, _, hrun⟩ := loadEvent_run 1 h.kind 0 h.object h.index 0 (c.bump R.LOAD_NAKS_COUNT 0 1)
    rw [hrun]
    exact hl
  rw [corruptShard, CM.run_seq, bumpM_run, CM.run_seq, CM.get_bind, nak, hno]
  generalize (loadEvent 1 h.kind 0 h.object h.index 0).run (c.bump R.LOAD_NAKS_COUNT 0 1) = y
  rfl

/-- A corrupt shard of an object that does not load is counted, and an event of it waits to be reported. -/
theorem corruptShard_leaves {h : ShardHdr} {c : Chip} (hl : c.loadOf h.kind h.object = none) :
    let d := ((corruptShard h).run c).2
    d.rd R.LOAD_NAKS_COUNT = min (c.rd R.LOAD_NAKS_COUNT + 1) (2 ^ 32 - 1) ∧ d.loads = c.loads ∧
      d.reports = c.reports ++ [⟨1, h.kind, 0, h.object, h.index, 0⟩] ∧
      d.serving = c.serving ∧ d.notices = c.notices ∧ d.stationOut = c.stationOut ∧ d.ackOut = c.ackOut := by
  have hkey (d : Nat) : regKey R.LOAD_NAKS_COUNT 0 ≠ regKey R.EVR_TRIG_LOST_COUNT (dieOff d) := by
    simp only [regKey, dieOff, R.LOAD_NAKS_COUNT, R.EVR_TRIG_LOST_COUNT]
    omega
  have hcount : ((loadEvent 1 h.kind 0 h.object h.index 0).run (c.bump R.LOAD_NAKS_COUNT 0 1)).2.rd R.LOAD_NAKS_COUNT =
      min (c.rd R.LOAD_NAKS_COUNT + 1) (2 ^ 32 - 1) := by
    rw [loadEvent_rd hkey, Chip.rd_bump_stays rfl]
    rfl
  obtain ⟨_, _, hrun⟩ := loadEvent_run 1 h.kind 0 h.object h.index 0 (c.bump R.LOAD_NAKS_COUNT 0 1)
  rw [corruptShard_foreign hl]
  refine ⟨hcount, ?_⟩
  rw [hrun]
  exact ⟨rfl, rfl, rfl, rfl, rfl, rfl⟩

/-- A load event that waits alone is sent to the peer of the control stream. -/
theorem loadReports_sends {c : Chip} {p : Peer} {r : Report} (hrep : c.reports = [r]) (hev : r.event ≤ 8) (hp : c.serving.orch = some p) :
    let d := (loadReports.run c).2
    Chip.Sends p { c with reports := [] } d ∧ d.said ctrlSession 0 (.report [r]) := by
  obtain ⟨hsends, hsaid⟩ := sendStream_sends (c := { c with reports := [] }) hp 0 0 (.report [r])
  have hflush : loadReports.run c = (sendReports 2).run c := by
    rw [loadReports, CM.get_bind, whenM_run, flushReports, hrep, if_pos (by simpa using hev), CM.get_bind, hp, hrep]
    rfl
  have hsend : (sendReports 2).run c = (sendReports 1).run ((sendStream ctrlSession 0 0 (.report [r])).run { c with reports := [] }).2 := by
    rw [sendReports, CM.get_bind, hrep, if_neg (by simp), CM.run_seq, CM.run_modify, hrep]
    rfl
  rw [hflush, hsend]
  generalize ((sendStream ctrlSession 0 0 (.report [r])).run { c with reports := [] }).2 = y at hsends hsaid
  have hdone : (sendReports 1).run y = ((), y) := by
    obtain ⟨_, _, _, _, _, rfl⟩ := hsends.only
    rw [sendReports, CM.get_bind]
    rfl
  rw [hdone]
  exact ⟨hsends, hsaid⟩

/-! ## The statement's clauses, each by what its command does -/

section
variable {s : State} {i : TnpIn} (hr : s.chip.runs = true) (hc : s.chip.calm = true)
include hr hc

theorem tenant_waits {o : TenantOrder} (ht : s.chip.controlTurn i 0x46 = true) : Completes (.tenant i o) s fun d =>
    d.said ctrlSession i.request (.status 0x46 0 none) ∧ Tbl.find? d.serving.tenantNext i.tenant = some o.clamped ∧
      d.serving.tenants = s.chip.serving.tenants := by
  have hx := State.orderPart_canAnswer ht hc
  obtain ⟨y, hsame, hrun⟩ := doTenant_waits i o (s.orderPart i)
  refine order_answers (b := .tenant o) hr ht (show 0x40 ≤ 0x46 by decide) (show 0x46 < 0x60 by decide)
    ((hx.of_sameButRegs hsame).tenantWaits ..) hrun fun d hd => ?_
  obtain ⟨hnext, htenants⟩ := hd.tenants
  obtain ⟨_, rfl⟩ := hsame
  exact ⟨(congrArg (Tbl.find? · i.tenant) hnext).trans (Tbl.find?_insert_same ..), htenants⟩

section
variable {id handle : Nat} (ht : s.chip.controlTurn i 0x47 = true)
include ht

theorem pageOut_answers {st : Nat} (hrun : (doPageOut i id handle).run (s.orderPart i) = (answer i 0x47 st).run (s.orderPart i)) :
    Completes (.pageOut i id handle) s fun d => d.said ctrlSession i.request (.status 0x47 st none) := by
  obtain ⟨d, hd, hsaid, -⟩ := order_answers (b := .pageOut id handle) (post := fun _ => True) hr ht (show 0x40 ≤ 0x47 by decide)
    (show 0x47 < 0x60 by decide) (State.orderPart_canAnswer ht hc) hrun fun _ _ => trivial
  exact ⟨d, hd, hsaid⟩

theorem pageOut_moves {x : Nat} {q : Request} (ha : s.chip.admits = true) (hid : s.chip.requestById id = some (x, q))
    (hq : s.chip.request x = some q) (hst : q.state = 2) : Completes (.pageOut i id handle) s fun d =>
      d.said ctrlSession i.request (.status 0x47 0 none) ∧ d.request x = some { q with state := 3 } ∧
      d.serving.orders = s.chip.serving.orders ++ [{ noOrder with op := 6, context := x, request := id, handle := handle }] := by
  have hx := State.orderPart_canAnswer ht hc
  have hrun := doPageOut_moves (c := s.orderPart i) (i := i) (handle := handle) ha hid hq hst
  refine order_answers (b := .pageOut id handle) hr ht (show 0x40 ≤ 0x47 by decide) (show 0x47 < 0x60 by decide)
    (hx.paged ..) hrun fun d hd =>
    ⟨(hd.request x).trans (Chip.paged_request ..), hd.orders⟩

end

section
variable {id x : Nat} {q : Request} (ht : s.chip.controlTurn i 0x48 = true) (ha : s.chip.admits = true)
  (hid : s.chip.requestById id = some (x, q))
include ht ha hid

theorem pageIn_refused (hst : q.state ≠ 3) : Completes (.pageIn i id) s fun d =>
    d.said ctrlSession i.request (.status 0x48 0x1A none) := by
  have hrun := doPageIn_refused (c := s.orderPart i) (i := i) ha hid hst
  obtain ⟨d, hd, hsaid, -⟩ := order_answers (b := .pageIn id) (post := fun _ => True) hr ht (show 0x40 ≤ 0x48 by decide)
    (show 0x48 < 0x60 by decide) (State.orderPart_canAnswer ht hc) hrun fun _ _ => trivial
  exact ⟨d, hd, hsaid⟩

theorem pageIn_moves (hq : s.chip.request x = some q) (hst : q.state = 3) : Completes (.pageIn i id) s fun d =>
    d.said ctrlSession i.request (.status 0x48 0 none) ∧ d.request x = some { q with state := 2 } ∧
    d.serving.orders = s.chip.serving.orders ++ [{ noOrder with op := 7, context := x, request := id }] := by
  have hx := State.orderPart_canAnswer ht hc
  have hrun := doPageIn_moves (c := s.orderPart i) (i := i) ha hid hq hst
  refine order_answers (b := .pageIn id) hr ht (show 0x40 ≤ 0x48 by decide) (show 0x48 < 0x60 by decide)
    (hx.paged ..) hrun fun d hd =>
    ⟨(hd.request x).trans (Chip.paged_request ..), hd.orders⟩

end

section
variable {job : Nat} {rows : List ReplicaRow} (ht : s.chip.controlTurn i 0x49 = true)
include ht

theorem replica_idle (h : s.chip.rd R.SEQ_STATE_STATE = seqEmpty ∨ s.chip.rd R.SEQ_JOB_JOB ≠ job % 4096) :
    Completes (.replica i job rows) s fun d => d.replicaNext = s.chip.replicaNext := by
  have hx := State.orderPart_canAnswer ht hc
  have hrun := doReplica_idle (c := s.orderPart i) (rows := rows) h
  exact order_completes (b := .replica job rows) hr ht (show 0x40 ≤ 0x49 by decide) (show 0x49 < 0x60 by decide)
    (congrArg Prod.snd hrun) hx.calm hx.held fun _ _ => rfl

theorem replica_names (hst : s.chip.rd R.SEQ_STATE_STATE ≠ seqEmpty) (hjob : s.chip.rd R.SEQ_JOB_JOB = job % 4096) :
    Completes (.replica i job rows) s fun d =>
      d.replicaNext = (match s.chip.replicaNamed rows with
        | some r => some ⟨r.replica % 4096, r.crc⟩
        | none => s.chip.replicaNext) ∧
      (rows.any (fun r => !s.chip.replicaGood r) = true → d.flag R.FAULT_CLAMP_SRC_VALID = true) := by
  have hx := State.orderPart_canAnswer ht hc
  have hrun := doReplica_names (c := s.orderPart i) (rows := rows) hst hjob
  have hflag := Chip.rowsCounted_flag (c := s.orderPart i) (rows := rows)
  have hsame := hx.of_sameButRegs ((s.orderPart i).rowsCounted_sameButRegs rows)
  generalize (s.orderPart i).rowsCounted rows = y at hrun hflag hsame
  exact order_completes (b := .replica job rows) hr ht (show 0x40 ≤ 0x49 by decide) (show 0x49 < 0x60 by decide) hrun
    hsame.calm hsame.held fun _ _ => ⟨rfl, hflag⟩

end

section
variable {h : ShardHdr} {data : List Nat} (ht : s.chip.controlTurn i 0x4B = true) (hdest : h.dest = s.chip.node)
include ht hdest

theorem shard_held {l : LoadObj} (habort : h.abort = false) (hrepair : h.repair = false) (hkind : h.kind = 2)
    (hl : s.chip.loadOf 2 h.object = some l) (hnew : l.got.contains h.index = false) (hleft : l.got.length + 1 < l.count)
    (hindex : h.index < h.count) (hdata : data ≠ []) (hlen : data.length ≤ 1048576) (hroom : s.chip.stages data) :
    Completes (.shard i h true data) s fun d => d.loadOf 2 h.object = some (l.withShard h data) := by
  have hx := State.orderPart_canAnswer ht hc
  have hkeep := keepShard_holds (c := s.orderPart i) habort hrepair hkind hl hnew hleft hindex hdata hlen hroom
  have hload : ((s.orderPart i).withLoad (l.withShard h data)).loadOf 2 h.object = some (l.withShard h data) :=
    Chip.withLoad_loadOf hl rfl rfl
  have hput := loadOf_putLoad (m := l.withShard h data) hload rfl rfl
  obtain ⟨_, hloads⟩ := putLoad_run (l.withShard h data) ((s.orderPart i).withLoad (l.withShard h data))
  rw [← hkeep, ← arriveShard_here (c := s.orderPart i) hdest] at hput hloads
  have hcalm : ((arriveShard h true data).run (s.orderPart i)).2.calm = true := by rw [hloads]; exact hx.calm
  have hheld : ((arriveShard h true data).run (s.orderPart i)).2.serving.control.held = [] := by rw [hloads]; exact hx.held
  exact order_completes (b := .shard h true data) hr ht (show 0x40 ≤ 0x4B by decide) (show 0x4B < 0x60 by decide) rfl hcalm hheld
    fun _ _ => hput

theorem shard_corrupt (hfront : i.src.front < 2) (hl : s.chip.loadOf h.kind h.object = none) (hrep : s.chip.reports = []) :
    Completes (.shard i h false data) s fun d =>
      d.rd R.LOAD_NAKS_COUNT = min (s.chip.rd R.LOAD_NAKS_COUNT + 1) (2 ^ 32 - 1) ∧ d.loads = s.chip.loads ∧
      d.said ctrlSession 0 (.report [⟨1, h.kind, 0, h.object, h.index, 0⟩]) := by
  have hx := State.orderPart_canAnswer ht hc
  obtain ⟨hn, hs, ha⟩ := Chip.calm_queues hx.calm
  have hrun : (arriveShard h false data).run (s.orderPart i) = (corruptShard h).run (s.orderPart i) :=
    (arriveShard_here (c := s.orderPart i) hdest false data).trans (keepShard_corrupt ..)
  obtain ⟨hcount, hloads, hreps, hserv, hn', hs', ha'⟩ := corruptShard_leaves (c := s.orderPart i) hl
  rw [← hrun] at hcount hloads hreps hserv hn' hs' ha'
  generalize hy : ((arriveShard h false data).run (s.orderPart i)).2 = y at hcount hloads hreps hserv hn' hs' ha'
  have hone : y.reports = [⟨1, h.kind, 0, h.object, h.index, 0⟩] := hreps.trans (congrArg (· ++ _) hrep)
  obtain ⟨hsends, hsaid⟩ := loadReports_sends hone (show 1 ≤ 8 by decide) ((congrArg Serving.orch hserv).trans hx.peer)
  refine act_reports hr (receive_order_run (b := .shard h false data) ht (show 0x40 ≤ 0x4B by decide) (show 0x4B < 0x60 by decide) hy
    ((congrArg (·.control.held) hserv).trans hx.held)) (hn'.trans hn) (hs'.trans hs) (ha'.trans ha) fun g out => ?_
  exact ⟨(hsends.rd (not_frontKeys_naks hfront)).trans hcount, hsends.loads.trans hloads, hsaid⟩

end

end

/-- Settles O46, each clause by what its command does. -/
theorem orchestratorOrdersAct : Obligations.OrchestratorOrdersAct := by
  unfold Obligations.OrchestratorOrdersAct
  intro s i hr hc hfront
  refine ⟨?transit, ?release, ?tenant, ?pageOut, ?pageIn, ?replica, ?shard⟩
  case transit =>
    refine fun job dim group lanes enc ht => ⟨fun e h => transit_refused hr hc ht h, fun h => ?_⟩
    obtain ⟨d, hd, hsaid, hshows⟩ := transit_joins hr hc (job := job) ht h
    exact ⟨d, hd, hsaid, fun p q hpq => (hshows p q hpq).joined⟩
  case release =>
    intro dim group ht
    obtain ⟨d, hd, hsaid, hshows⟩ := release_releases hr hc ht
    exact ⟨d, hd, hsaid, fun p hp => (hshows p hp).released⟩
  case tenant => exact fun o ht => tenant_waits hr hc ht
  case pageOut =>
    exact fun id handle ht => ⟨fun ha => pageOut_answers hr hc ht (doPageOut_elsewhere ha),
      fun ha hid => pageOut_answers hr hc ht (doPageOut_unknown ha hid),
      fun x q ha hid hst => pageOut_answers hr hc ht (doPageOut_refused ha hid hst),
      fun x q ha hid hq hst => pageOut_moves hr hc ht ha hid hq hst⟩
  case pageIn =>
    exact fun id ht => ⟨fun x q ha hid hst => pageIn_refused hr hc ht ha hid hst,
      fun x q ha hid hq hst => pageIn_moves hr hc ht ha hid hq hst⟩
  case replica => exact fun job rows ht => ⟨replica_idle hr hc ht, replica_names hr hc ht⟩
  case shard =>
    exact fun h data ht hdest habort hrepair =>
      ⟨fun l hkind hl hnew hleft hindex hdata hlen hroom =>
        shard_held hr hc ht hdest habort hrepair hkind hl hnew hleft hindex hdata hlen hroom,
       fun hl hrep => shard_corrupt hr hc ht hdest hfront hl hrep⟩

end Sys2Proof.Machine
end

section
/-! SUPPORT. The lengths of AES-256 blocks and XTS data units: under a whole key a data unit of 32 bytes stays one, so that what is
decrypted for a line fills the line. -/
namespace Sys2Proof.Machine

theorem leBytes_length : ∀ n v : Nat, (leBytes n v).length = n
  | 0, _ => rfl
  | n + 1, v => congrArg (· + 1) (leBytes_length n (v / 256))

theorem xorBytes_length {n : Nat} {a b : List Nat} (ha : a.length = n) (hb : b.length = n) : (xorBytes a b).length = n := by
  rw [xorBytes, List.length_zipWith, ha, hb, Nat.min_self]

theorem upFrom_length (a n : Nat) : (upFrom a n).length = n := by
  rw [upFrom_eq_range', List.length_range']

/-- An element of a list that is long enough has what all its elements have. -/
theorem nth_of_forall {α : Type} {P : α → Prop} {d : α} : ∀ {l : List α} {i : Nat}, (∀ a ∈ l, P a) → i < l.length → P (nth d l i)
  | a :: _, 0, h, _ => h a (List.mem_cons_self ..)
  | _ :: t, _ + 1, h, hi => nth_of_forall (l := t) (List.forall_mem_cons.1 h).2 (Nat.lt_of_succ_lt_succ hi)

/-! ## The key schedule -/

/-- The words of a key schedule so far: each of 4 bytes, and 8 of them at least. -/
structure KeyWords (ws : List (List Nat)) : Prop where
  words : ∀ w ∈ ws, w.length = 4
  eight : 8 ≤ ws.length

/-- What a schedule word is made with (FIPS 197) is a word. -/
theorem scheduleWord_length {ws : List (List Nat)} (h : KeyWords ws) (i rcon : Nat) :
    (xorBytes (nth [] ws 7) (if i % 8 = 0 then xorBytes (((nth [] ws 0).drop 1 ++ (nth [] ws 0).take 1).map sbox) [rcon, 0, 0, 0]
      else if i % 8 = 4 then (nth [] ws 0).map sbox else nth [] ws 0)).length = 4 := by
  have hlast : (nth [] ws 0).length = 4 := nth_of_forall h.words (by have := h.eight; omega)
  refine xorBytes_length (nth_of_forall h.words (by have := h.eight; omega)) ?_
  split
  · exact xorBytes_length (by simp [hlast]) rfl
  · split
    · rw [List.length_map, hlast]
    · exact hlast

theorem aesExpand_keyWords : ∀ {n i rcon : Nat} {ws : List (List Nat)}, KeyWords ws →
    KeyWords (aesExpand n i rcon ws) ∧ (aesExpand n i rcon ws).length = n + ws.length
  | 0, _, _, ws, h => ⟨h, (Nat.zero_add _).symm⟩
  | n + 1, i, rcon, ws, h => by
    have hnext : KeyWords (_ :: ws) := ⟨List.forall_mem_cons.2 ⟨scheduleWord_length h i rcon, h.words⟩, Nat.le_succ_of_le h.eight⟩
    obtain ⟨hwords, hlen⟩ := aesExpand_keyWords (n := n) (i := i + 1) (rcon := if i % 8 = 0 then xtime rcon else rcon) hnext
    exact ⟨hwords, hlen.trans (by rw [List.length_cons]; omega)⟩

theorem flatten_length_of_words : ∀ {ws : List (List Nat)}, (∀ w ∈ ws, w.length = 4) → ws.flatten.length = 4 * ws.length
  | [], _ => rfl
  | w :: t, h => by
    obtain ⟨hw, ht⟩ := List.forall_mem_cons.1 h
    rw [List.flatten_cons, List.length_append, hw, flatten_length_of_words ht, List.length_cons]
    omega

/-- The round keys of a 32-byte key are blocks. -/
theorem aesKeys_blocks {key : List Nat} (h : key.length = 32) : ∀ k ∈ aesKeys key, k.length = 16 := by
  have hkey : KeyWords (((upFrom 0 8).map fun i => (key.drop (4 * i)).take 4).reverse) := by
    refine ⟨fun w hw => ?_, Nat.le_of_eq (by rw [List.length_reverse, List.length_map, upFrom_length])⟩
    obtain ⟨i, hi, rfl⟩ := List.mem_map.1 (List.mem_reverse.1 hw)
    rw [upFrom_eq_range', List.mem_range'_1] at hi
    rw [List.length_take, List.length_drop]
    omega
  obtain ⟨hall, hlen⟩ := aesExpand_keyWords (n := 52) (i := 8) (rcon := 1) hkey
  rw [List.length_reverse, List.length_map, upFrom_length] at hlen
  intro k hk
  obtain ⟨r, hr, rfl⟩ := List.mem_map.1 hk
  rw [upFrom_eq_range', List.mem_range'_1] at hr
  rw [flatten_length_of_words fun w hw => hall.words w (List.mem_reverse.1 (List.mem_of_mem_drop (List.mem_of_mem_take hw))),
    List.length_take, List.length_drop, List.length_reverse, hlen]
  omega

theorem aesKeys_length (key : List Nat) : (aesKeys key).length = 15 := by
  rw [aesKeys, List.length_map, upFrom_length]

/-! ## Blocks and data units -/

theorem shiftRows_length (s : List Nat) : (shiftRows s).length = 16 := rfl
theorem unshiftRows_length (s : List Nat) : (unshiftRows s).length = 16 := rfl

theorem aesRounds_length : ∀ {ks : List (List Nat)} (s : List Nat), ks ≠ [] → (∀ k ∈ ks, k.length = 16) → (aesRounds ks s).length = 16
  | [k], _, _, h => xorBytes_length (shiftRows_length _) (h k (List.mem_singleton_self k))
  | _ :: k :: t, _, _, h => aesRounds_length (ks := k :: t) _ (List.cons_ne_nil k t) (List.forall_mem_cons.1 h).2

theorem aesUnrounds_length : ∀ {ks : List (List Nat)} (s : List Nat), ks ≠ [] → (∀ k ∈ ks, k.length = 16) →
    (aesUnrounds ks s).length = 16
  | [k], _, _, h => xorBytes_length (by rw [List.length_map, unshiftRows_length]) (h k (List.mem_singleton_self k))
  | _ :: k :: t, _, _, h => aesUnrounds_length (ks := k :: t) _ (List.cons_ne_nil k t) (List.forall_mem_cons.1 h).2

theorem aesEnc_length {key : List Nat} (h : key.length = 32) (blk : List Nat) : (aesEnc key blk).length = 16 := by
  have hblocks := aesKeys_blocks h
  have hlen := aesKeys_length key
  unfold aesEnc
  split
  · next hk => rw [hk] at hlen; exact absurd hlen (by decide)
  · next k t hk =>
    rw [hk] at hblocks hlen
    exact aesRounds_length _ (List.ne_nil_of_length_eq_add_one (Nat.succ.inj hlen)) (List.forall_mem_cons.1 hblocks).2

theorem aesDec_length {key : List Nat} (h : key.length = 32) (blk : List Nat) : (aesDec key blk).length = 16 := by
  have hblocks : ∀ k ∈ (aesKeys key).reverse, k.length = 16 := fun k hk => aesKeys_blocks h k (List.mem_reverse.1 hk)
  have hlen : (aesKeys key).reverse.length = 15 := by rw [List.length_reverse, aesKeys_length]
  unfold aesDec
  split
  · next hk => rw [hk] at hlen; exact absurd hlen (by decide)
  · next k t hk =>
    rw [hk] at hblocks hlen
    exact aesUnrounds_length _ (List.ne_nil_of_length_eq_add_one (Nat.succ.inj hlen)) (List.forall_mem_cons.1 hblocks).2

/-- A data unit has 32 bytes under a key of 64, whatever stood in it. -/
theorem xts_length {key : List Nat} (h : key.length = 64) (dec : Bool) (tweak : Nat) (data : List Nat) :
    (xts dec key tweak data).length = 32 := by
  have hdata : (key.take 32).length = 32 := by rw [List.length_take, h]; rfl
  have htweak : (key.drop 32).length = 32 := by rw [List.length_drop, h]
  have hcipher : ∀ b : List Nat, (if dec then aesDec (key.take 32) b else aesEnc (key.take 32) b).length = 16 := fun b => by
    split
    · exact aesDec_length hdata b
    · exact aesEnc_length hdata b
  unfold xts
  rw [List.length_append]
  exact (congrArg (· + _) (xorBytes_length (hcipher _) (aesEnc_length htweak _))).trans
    (congrArg (16 + ·) (xorBytes_length (hcipher _) (leBytes_length 16 _)))

end Sys2Proof.Machine
end

section
/-! Settles the statement on paging and the context-store scrub: what the operations on pagings, descriptors, frames and context-store
lines do, and from it each clause. -/
namespace Sys2Proof.Machine

/-! ## Tables -/

/-- A table of which some keys are kept reads alike there, and as its default elsewhere. -/
theorem Tbl.get_keep {α : Type} (d : α) (p : Nat → Bool) (x : Nat) (m : Map α) :
    Tbl.get d (Tbl.keep p m) x = if p x = true then Tbl.get d m x else d := by
  cases hp : p x with
  | false => simp [Tbl.get, Tbl.find?_keep_none hp]
  | true =>
    have hfind : Tbl.find? (Tbl.keep p m) x = Tbl.find? m x := by
      induction m with
      | nil => rfl
      | cons e t ih =>
        unfold Tbl.keep at ih ⊢
        by_cases he : e.1 = x
        · rw [List.filter_cons_of_pos (by rw [he, hp]), Tbl.find?, if_pos he, Tbl.find?, if_pos he]
        · rw [List.filter_cons]
          split
          · rw [Tbl.find?, if_neg he, ih, Tbl.find?, if_neg he]
          · rw [ih, Tbl.find?, if_neg he]
    simp [Tbl.get, hfind]

theorem Tbl.get_erase {α : Type} (d : α) (x y : Nat) (m : Map α) :
    Tbl.get d (Tbl.erase x m) y = if y = x then d else Tbl.get d m y := by
  split
  · next h => rw [h, Tbl.get, Tbl.find?_erase_same]
  · next h => rw [Tbl.get, Tbl.find?_erase_other h, ← Tbl.get]

/-! ## Descriptors, frames and pagings (R263, R267, R271, R272) -/

theorem setPaging_paging (d i : Nat) (p : Option Paging) (c : Chip) : ((setPaging d i p).run c).2.paging d i = p := by
  cases p
  · exact Tbl.find?_erase_same ..
  · exact Tbl.find?_insert_same ..

theorem onDesc_run (d i : Nat) (f : CtxDesc → CtxDesc) (c : Chip) :
    (onDesc d i f).run c = ((), { c with descs := Tbl.put noDesc c.descs (d * 65536 + i) (f (c.ctxDesc d i)) }) := rfl

theorem onDesc_ctxDesc (d i : Nat) (f : CtxDesc → CtxDesc) (c : Chip) :
    ((onDesc d i f).run c).2.ctxDesc d i = f (c.ctxDesc d i) := Tbl.get_put_same ..

/-- The part `d` differs from `c` in frames and descriptors alone. -/
def Chip.onlyPages (c d : Chip) : Prop := ∃ fs ds, d = { c with frames := fs, descs := ds }

theorem releaseFrame_onlyPages {c : Chip} (d f : Nat) : Keeps c.onlyPages (releaseFrame d f) := by
  rintro _ ⟨fs, ds, rfl⟩
  rw [releaseFrame, CM.get_bind, CM.run_ite]
  split <;> exact ⟨_, ds, rfl⟩

theorem onDesc_onlyPages {c : Chip} (d i : Nat) (f : CtxDesc → CtxDesc) : Keeps c.onlyPages (onDesc d i f) := by
  rintro _ ⟨fs, ds, rfl⟩
  exact ⟨fs, _, rfl⟩

theorem releasePages_onlyPages {c : Chip} (d i : Nat) : Keeps c.onlyPages (releasePages d i) :=
  Keeps.bind Keeps.get fun _ => Keeps.bind (Keeps.forM (fun _ => releaseFrame_onlyPages d _) _) fun _ => onDesc_onlyPages d i _

theorem releasePages_entries (d i : Nat) (c : Chip) : (((releasePages d i).run c).2.ctxDesc d i).entries = [] := by
  rw [releasePages, CM.get_bind, CM.run_seq, onDesc_ctxDesc]

/-! ## How a paging ends -/

/-- What a page-out that is complete and a paging that cannot be completed have in common (R271, R272): the pages go. -/
def endPaging (d i st : Nat) (count : Fld) : CM Unit := do
  setPaging d i none
  releasePages d i
  onDesc d i fun x => { x with state := st }
  bumpM count (dieOff d)

theorem pageOutDone_eq (d i : Nat) : pageOutDone d i = endPaging d i ctxRemote R.CTX_PAGE_OUT_COUNT := rfl
theorem pagingLost_eq (d i : Nat) : pagingLost d i = endPaging d i ctxLost R.CTX_PAGE_FAIL_LOST := rfl

/-- In `e` the context pages no more, holds no pages and is in state `st`, which one more event of a counter shows. -/
structure Chip.Unpaged (c : Chip) (d i st : Nat) (count : Fld) (e : Chip) : Prop where
  calm : e.calm = c.calm
  paging : e.paging d i = none
  state : (e.ctxDesc d i).state = st
  entries : (e.ctxDesc d i).entries = []
  counted : e.rd count (dieOff d) = min (c.rd count (dieOff d) + 1) (2 ^ count.width - 1)

theorem endPaging_unpaged {count : Fld} (hcount : count.wraps = false) (d i st : Nat) (c : Chip) :
    c.Unpaged d i st count ((endPaging d i st count).run c).2 := by
  have hentries := releasePages_entries d i ((setPaging d i none).run c).2
  have hpaging := setPaging_paging d i none c
  obtain ⟨fs, ds, hrun⟩ := releasePages_onlyPages (c := ((setPaging d i none).run c).2) d i _ ⟨_, _, rfl⟩
  rw [endPaging, CM.run_seq, CM.run_seq, CM.run_seq, bumpM_run]
  generalize ((releasePages d i).run ((setPaging d i none).run c).2).2 = e at hrun hentries
  have hdesc := onDesc_ctxDesc d i (fun x => { x with state := st }) e
  exact {
    calm := by rw [hrun]; rfl
    paging := by rw [hrun]; exact hpaging
    state := congrArg CtxDesc.state hdesc
    entries := (congrArg CtxDesc.entries hdesc).trans hentries
    counted := by rw [Chip.rd_bump_stays hcount, hrun]; rfl }

/-- The end of a page-in keeps the pages: the context is RESIDENT, which CTX_PAGE_IN shows (R272). -/
theorem pageInDone_resident (d i : Nat) (c : Chip) : let e := ((pageInDone d i).run c).2
    e.calm = c.calm ∧ e.kv = c.kv ∧ e.paging d i = none ∧ (e.ctxDesc d i).state = ctxResident ∧
      e.rd R.CTX_PAGE_IN_COUNT (dieOff d) = min (c.rd R.CTX_PAGE_IN_COUNT (dieOff d) + 1) (2 ^ 32 - 1) := by
  intro e
  have hdesc := onDesc_ctxDesc d i (fun x => { x with state := ctxResident }) ((setPaging d i none).run c).2
  exact ⟨rfl, rfl, setPaging_paging d i none c, congrArg CtxDesc.state hdesc, Chip.rd_bump_stays rfl ..⟩

/-- The pages of a paging that still wait once a page has been dealt with. -/
def Paging.without (p : Paging) (page : Nat) : Paging := { p with waiting := p.waiting.filter (· != page) }

/-- A page of a paging has been dealt with; the last one ends the paging. -/
def pageDone (d i page : Nat) (p : Paging) (last : CM Unit) : CM Unit := do
  setPaging d i (some (p.without page))
  whenM (p.without page).waiting.isEmpty last

theorem pageDone_more {d i page : Nat} {p : Paging} (h : (p.without page).waiting ≠ []) (last : CM Unit) (c : Chip) :
    (pageDone d i page p last).run c = (setPaging d i (some (p.without page))).run c := by
  rw [pageDone, List.isEmpty_eq_false_iff.2 h, whenM_false]
  rfl

theorem pageDone_last {d i page : Nat} {p : Paging} (h : (p.without page).waiting = []) (last : CM Unit) (c : Chip) :
    (pageDone d i page p last).run c = last.run ((setPaging d i (some (p.without page))).run c).2 := by
  rw [pageDone, h, List.isEmpty_nil, whenM_true]
  rfl

/-! ## Messages of the remote tier (R278, R282, R315) -/

theorem Chip.hears_facts {c : Chip} {i : TnpIn} {typ : Nat} (h : c.hears i typ = true) :
    c.flag R.FRONT_STATUS_LINK_UP (frontOff i.src.front) = true ∧ (tagKey typ i.tenant).isNone = false ∧
      c.tagPasses typ i.tenant i.tagOk = true := by
  rw [Chip.hears, Bool.and_eq_true] at h
  obtain ⟨hup, htag⟩ := h
  refine ⟨hup, ?_, htag⟩
  cases hk : tagKey typ i.tenant with
  | none => simp [Chip.tagPasses, hk] at htag
  | some _ => rfl

section
variable {c : Chip} {i : TnpIn} {id : ImageId} {x : Nat} {p : Paging}

theorem receive_putAck (h : c.hears i 0x61 = true) (hs : i.session = pagingSession) (id : ImageId) (status : Nat) :
    (receive i (.putAck id status)).run c = (doPutAck id i.request status).run c := by
  obtain ⟨hup, hkey, htag⟩ := Chip.hears_facts h
  rw [receive, CM.get_bind, TnpBody.typ, hup, hkey, htag]
  exact congrArg (fun m : CM Unit => m.run c) (if_pos hs)

theorem receive_data (h : c.hears i 0x63 = true) (hs : i.session = pagingSession) (id : ImageId) (image tag : List Nat) :
    (receive i (.data id image tag)).run c = (doPagingData id i.request image tag).run c := by
  obtain ⟨hup, hkey, htag⟩ := Chip.hears_facts h
  rw [receive, CM.get_bind, TnpBody.typ, hup, hkey, htag]
  exact congrArg (fun m : CM Unit => m.run c) (if_pos hs)

theorem doPutAck_stored {request : Nat} (hx : c.pagedContext id request = some x) (hp : c.paging id.die x = some p)
    (hout : p.out = true) :
    (doPutAck id request 0x40).run c = (pageDone id.die x id.page p (pageOutDone id.die x)).run c := by
  rw [doPutAck, CM.get_bind, hx]
  dsimp only
  rw [hp]
  dsimp only
  rw [if_neg (by rw [hout]; decide)]
  rfl

/-! ## Lines of a page that came back (R269, R273) -/

/-- The part with a KV line written whole under its key. -/
def Chip.kvLineWritten (c : Chip) (d line : Nat) (key bytes : List Nat) : Chip := { c with
  kv := putBytes c.kv (32 * globalLine d line) (xts false key (globalLine d line) (bytes.take 32))
  ctxErr := Tbl.erase (globalLine d line) c.ctxErr }

/-- A KV line that is written whole is written without being read (R254). -/
theorem kvWrite_whole {bytes : List Nat} (h : bytes.length = 32) (d line : Nat) (key : List Nat) (c : Chip) :
    (kvWrite d line 0 key bytes).run c = ((), c.kvLineWritten d line key bytes) := by
  have hdata : zeroLine.take 0 ++ bytes ++ zeroLine.drop (0 + bytes.length) = bytes := by
    rw [h, List.take_zero, List.nil_append, List.drop_of_length_le (by decide), List.append_nil]
  rw [kvWrite, if_pos ⟨rfl, h⟩, CM.run_bind, CM.run_pure]
  dsimp only
  rw [hdata]
  rfl

/-- The part `d` differs from `c` in the context store's bytes and codeword errors alone. -/
def Chip.onlyKv (c d : Chip) : Prop := ∃ m errs, d = { c with kv := m, ctxErr := errs }

section
variable {d : Nat} {key : List Nat} {line : Nat → Nat} {bytes : Nat → List Nat} (h : ∀ l, (bytes l).length = 32)
include h

theorem kvWrites_onlyKv {c : Chip} (ls : List Nat) : Keeps c.onlyKv (forM_ ls fun l => kvWrite d (line l) 0 key (bytes l)) :=
  Keeps.forM (fun l => by
    rintro _ ⟨m, errs, rfl⟩
    rw [kvWrite_whole (h l)]
    exact ⟨_, _, rfl⟩) ls

theorem kvWrites_run : ∀ (ls : List Nat) (c : Chip), (forM_ ls fun l => kvWrite d (line l) 0 key (bytes l)).run c =
    ((), ls.foldl (fun y l => y.kvLineWritten d (line l) key (bytes l)) c)
  | [], _ => rfl
  | l :: t, c => by
    rw [forM_cons, CM.run_seq, kvWrite_whole (h l), List.foldl_cons]
    exact kvWrites_run t _

theorem kvWrites_kv (ls : List Nat) (c : Chip) : ((forM_ ls fun l => kvWrite d (line l) 0 key (bytes l)).run c).2.kv =
    ls.foldl (fun m l => putBytes m (32 * globalLine d (line l)) (xts false key (globalLine d (line l)) ((bytes l).take 32))) c.kv := by
  rw [kvWrites_run h]
  exact (List.foldl_hom Chip.kv fun _ _ => rfl).symm

end

/-- A line of a page's image, decrypted under its image tweak. -/
def Chip.imageLine (c : Chip) (id : ImageId) (x : Nat) (key image : List Nat) (l : Nat) : List Nat :=
  xts true key (imageTweak (c.ctxDesc id.die x).handle c.node id.die (id.page * c.rd R.CTX_FRAME_CFG_FRAME_LINES (dieOff id.die) + l))
    ((image.drop (32 * l)).take 32)

/-- The context store with a page's image written to its frame. -/
def Chip.imagePlaced (c : Chip) (id : ImageId) (x frame : Nat) (key image : List Nat) : Memory :=
  (upFrom 0 (c.rd R.CTX_FRAME_CFG_FRAME_LINES (dieOff id.die))).foldl (fun m l =>
    let a := globalLine id.die (c.pageLine id.die frame 0 + l)
    putBytes m (32 * a) (xts false key a ((c.imageLine id x key image l).take 32))) c.kv

/-- An image with a right tag is written to its frame, and its page is dealt with (R272). -/
theorem doPagingData_places {request : Nat} {image tag key mac : List Nat} {e : PageEntry}
    (hx : c.pagedContext id request = some x) (hp : c.paging id.die x = some p)
    (hout : p.out = false) (hkey : c.key keyTenantData (c.ctxDesc id.die x).tenant = some key)
    (hmac : c.key keyTenantMac (c.ctxDesc id.die x).tenant = some mac)
    (he : Tbl.find? (c.ctxDesc id.die x).entries id.page = some e) (hlen : key.length = 64) (htag : cmac mac image = tag)
    (himage : image.length = 32 * c.rd R.CTX_FRAME_CFG_FRAME_LINES (dieOff id.die)) :
    ∃ y, c.onlyKv y ∧ y.kv = c.imagePlaced id x e.frame key image ∧
      (doPagingData id request image tag).run c = (pageDone id.die x id.page p (pageInDone id.die x)).run y := by
  have hline : ∀ l, (c.imageLine id x key image l).length = 32 := fun _ => xts_length hlen ..
  have honly := kvWrites_onlyKv (d := id.die) (key := key) (line := fun l => c.pageLine id.die e.frame 0 + l) hline
    (upFrom 0 (c.rd R.CTX_FRAME_CFG_FRAME_LINES (dieOff id.die))) c ⟨_, _, rfl⟩
  refine ⟨_, honly, kvWrites_kv hline _ c, ?_⟩
  rw [doPagingData, CM.get_bind, hx]
  dsimp only
  rw [hp, hkey, hmac, he]
  dsimp only
  rw [if_neg (by rw [hout]; decide), if_pos ⟨htag, himage⟩, CM.run_seq]
  rfl

end

/-! ## Images that are late (R272) -/

section
variable {c : Chip} {d i page : Nat} {p : Paging}

theorem doPagingTimeout_stored (hp : c.paging d i = some p) (hw : p.waiting.contains page = false) :
    (doPagingTimeout d i page).run c = ((), c) := by
  rw [doPagingTimeout, CM.get_bind, hp]
  dsimp only
  rw [hw, if_neg Bool.false_ne_true, CM.run_pure]

theorem doPagingTimeout_late (hp : c.paging d i = some p) (hw : p.waiting.contains page = true) :
    (doPagingTimeout d i page).run c = (retryPage d i page).run c := by
  rw [doPagingTimeout, CM.get_bind, hp]
  dsimp only
  rw [hw, if_pos rfl]

theorem retryPage_lost (hp : c.paging d i = some p)
    (hn : c.rd R.CTX_PAGE_CFG_PAGE_RETRIES (dieOff d) ≤ Tbl.get 0 p.retries page) :
    (retryPage d i page).run c = (pagingLost d i).run c := by
  rw [retryPage, CM.get_bind, hp]
  dsimp only
  rw [if_pos hn]

/-- A paging once an image is asked for again. -/
def Paging.retried (p : Paging) (page : Nat) : Paging := { p with retries := Tbl.modify 0 p.retries page (· + 1) }

/-- The part with an image's failure noted and counted, before it is asked for again. -/
def Chip.refetchNoted (c : Chip) (d i page : Nat) (p : Paging) : Chip :=
  ((setPaging d i (some (p.retried page))).run c).2.bump R.CTX_PAGE_FAIL_REFETCH (dieOff d) 1

theorem retryPage_again (hp : c.paging d i = some p)
    (hn : Tbl.get 0 p.retries page < c.rd R.CTX_PAGE_CFG_PAGE_RETRIES (dieOff d)) :
    (retryPage d i page).run c = (pageMessage d i page).run (c.refetchNoted d i page p) := by
  rw [retryPage, CM.get_bind, hp]
  dsimp only
  rw [if_neg (Nat.not_le.2 hn)]
  rfl

/-- A page of a page-in is asked for by a message, whatever its number. -/
theorem pageMessage_asks (hp : c.paging d i = some p) (hout : p.out = false) (page : Nat) :
    ∃ m, (pageMessage d i page).run c = (sendTnp c.remotePeer m).run c := by
  refine ⟨⟨pagingSession, (c.ctxDesc d i).tenant, 0, 0, (c.ctxDesc d i).request, .get (imageId c d i page)⟩, ?_⟩
  rw [pageMessage, CM.get_bind]
  dsimp only
  rw [hp]
  dsimp only
  rw [hout, if_neg Bool.false_ne_true]

/-- No front port shows what it sends where a die counts the images fetched again. -/
theorem not_frontKeys_refetch (front d : Nat) : ¬frontKeys front (regKey R.CTX_PAGE_FAIL_REFETCH (dieOff d)) := by
  simp only [frontKeys, regKey, R.CTX_PAGE_FAIL_REFETCH, R.FRONT_FRAMES_TX, R.FRONT_STATUS_PN_WARN, R.FRONT_STATUS_PN_END]
  omega

/-- An image of a page-in that may be asked for again is, which CTX_PAGE_FAIL shows. -/
theorem retryPage_refetches (hp : c.paging d i = some p) (hout : p.out = false)
    (hn : Tbl.get 0 p.retries page < c.rd R.CTX_PAGE_CFG_PAGE_RETRIES (dieOff d)) :
    let e := ((retryPage d i page).run c).2
    e.calm = c.calm ∧ e.paging d i = some (p.retried page) ∧
      e.rd R.CTX_PAGE_FAIL_REFETCH (dieOff d) = min (c.rd R.CTX_PAGE_FAIL_REFETCH (dieOff d) + 1) (2 ^ 16 - 1) := by
  intro e
  have hnoted : (c.refetchNoted d i page p).paging d i = some (p.retried page) := setPaging_paging d i (some (p.retried page)) c
  have hcount : (c.refetchNoted d i page p).rd R.CTX_PAGE_FAIL_REFETCH (dieOff d) =
      min (c.rd R.CTX_PAGE_FAIL_REFETCH (dieOff d) + 1) (2 ^ 16 - 1) := Chip.rd_bump_stays rfl ..
  obtain ⟨m, hasks⟩ := pageMessage_asks hnoted hout page
  have hrun : e = ((sendTnp (c.refetchNoted d i page p).remotePeer m).run (c.refetchNoted d i page p)).2 := by
    rw [← hasks, ← retryPage_again hp hn]
  obtain ⟨rs, pn, out, hsend⟩ := sendTnp_run (c.refetchNoted d i page p).remotePeer m (c.refetchNoted d i page p)
  have hrd := (sendTnp_mods (c.refetchNoted d i page p).remotePeer m).rd (not_frontKeys_refetch _ d) (c.refetchNoted d i page p)
  refine ⟨?_, ?_, ?_⟩
  · rw [hrun, hsend]; rfl
  · rw [hrun, hsend]; exact hnoted
  · rw [hrun, hrd, hcount]

end

/-! ## Zeroed frames (R267) -/

/-- The context store with the lines of a frame zeroed. -/
def Chip.frameZeroed (c : Chip) (d f : Nat) : Memory :=
  let first := globalLine d (c.pageLine d f 0)
  Tbl.keep (fun a => !decide (first * 32 ≤ a ∧ a < (first + c.rd R.CTX_FRAME_CFG_FRAME_LINES (dieOff d)) * 32)) c.kv

theorem Chip.frameZeroed_get (c : Chip) (d f a : Nat) : let first := globalLine d (c.pageLine d f 0)
    Tbl.get (0 : Byte) (c.frameZeroed d f) a =
      if first * 32 ≤ a ∧ a < (first + c.rd R.CTX_FRAME_CFG_FRAME_LINES (dieOff d)) * 32 then 0 else Tbl.get (0 : Byte) c.kv a := by
  simp only [Chip.frameZeroed, Tbl.get_keep, Bool.not_eq_true', decide_eq_false_iff_not, ite_not]

theorem setFrame_frame (d f : Nat) (x : Frame) (c : Chip) : ((setFrame d f x).run c).2.frame d f = x := Tbl.get_put_same ..

theorem doFrameZeroed_run {c : Chip} {d f : Nat} {x : Frame} (h : (c.busyFrames d).find? (·.2.dirty) = some (f, x)) :
    ∃ errs, (doFrameZeroed d).run c = (setFrame d f noFrame).run { c with kv := c.frameZeroed d f, ctxErr := errs } := by
  rw [doFrameZeroed, CM.get_bind, h]
  exact ⟨_, rfl⟩

/-! ## The patrol scrub (R255, R275) -/

/-- The part once a codeword that can be corrected has been read: corrected and counted, if it held errors. -/
def Chip.lineRead (c : Chip) (d l : Nat) : Chip :=
  if Tbl.get 0 c.ctxErr (globalLine d l) = 0 then c
  else Chip.bump { c with ctxErr := Tbl.erase (globalLine d l) c.ctxErr } R.CTX_CORRECTED_COUNT (dieOff d) 1

theorem ctxCheck_correctable {c : Chip} {d l : Nat} (h : Tbl.get 0 c.ctxErr (globalLine d l) ≤ 2) :
    (ctxCheck d l).run c = (true, c.lineRead d l) := by
  rw [ctxCheck, CM.get_bind, Chip.lineRead]
  match hn : Tbl.get 0 c.ctxErr (globalLine d l), h with
  | 0, _ => rfl
  | 1, _ => rfl
  | 2, _ => rfl

theorem Chip.lineRead_err (c : Chip) (d l a : Nat) :
    Tbl.get 0 (c.lineRead d l).ctxErr a = if a = globalLine d l then 0 else Tbl.get 0 c.ctxErr a := by
  unfold Chip.lineRead
  split
  · next h =>
    split
    · next ha => rw [ha, h]
    · rfl
  · exact Tbl.get_erase ..

theorem globalLine_inj {d l k : Nat} : globalLine d l = globalLine d k ↔ l = k := Nat.add_left_cancel_iff

/-- The part once lines of a die have been read, one after another. -/
def Chip.linesRead (c : Chip) (d : Nat) (ls : List Nat) : Chip := ls.foldl (fun y l => y.lineRead d l) c

theorem forM_ctxCheck_correctable {d : Nat} : ∀ {ls : List Nat} {c : Chip}, (∀ l ∈ ls, Tbl.get 0 c.ctxErr (globalLine d l) ≤ 2) →
    (forM_ ls fun l => do let _ ← ctxCheck d l; pure ()).run c = ((), c.linesRead d ls)
  | [], _, _ => rfl
  | l :: t, c, h => by
    obtain ⟨hl, ht⟩ := List.forall_mem_cons.1 h
    rw [forM_cons, CM.run_seq, CM.run_bind, ctxCheck_correctable hl]
    refine forM_ctxCheck_correctable (c := c.lineRead d l) fun k hk => ?_
    rw [Chip.lineRead_err]
    split
    · exact Nat.zero_le _
    · exact ht k hk

theorem Chip.linesRead_err {d a : Nat} : ∀ {ls : List Nat} {c : Chip},
    Tbl.get 0 (c.linesRead d ls).ctxErr a = if a ∈ ls.map (globalLine d) then 0 else Tbl.get 0 c.ctxErr a
  | [], _ => rfl
  | l :: t, c => by
    have ih := Chip.linesRead_err (d := d) (a := a) (ls := t) (c := c.lineRead d l)
    rw [Chip.linesRead, List.foldl_cons, ← Chip.linesRead, ih, Chip.lineRead_err, List.map_cons]
    simp only [List.mem_cons]
    by_cases ha : a = globalLine d l <;> simp [ha]

/-- Reading lines changes codeword errors and register fields alone. -/
theorem Chip.linesRead_only {d : Nat} : ∀ {ls : List Nat} {c : Chip}, ∃ errs rs, c.linesRead d ls = { c with ctxErr := errs, regs := rs }
  | [], c => ⟨c.ctxErr, c.regs, rfl⟩
  | l :: t, c => by
    obtain ⟨errs, rs, ih⟩ := Chip.linesRead_only (d := d) (ls := t) (c := c.lineRead d l)
    rw [Chip.linesRead, List.foldl_cons, ← Chip.linesRead, ih, Chip.lineRead]
    split <;> exact ⟨errs, rs, rfl⟩

/-- The part with each of the lines counted that holds errors by a table of errors. -/
def Chip.correctionsCounted (c : Chip) (errs : Map Nat) (d : Nat) (ls : List Nat) : Chip :=
  ls.foldl (fun y l => if Tbl.get 0 errs (globalLine d l) = 0 then y else y.bump R.CTX_CORRECTED_COUNT (dieOff d) 1) c

/-- Lines that differ are counted by the errors they held before the first was read. -/
theorem Chip.linesRead_regs {d : Nat} {errs : Map Nat} : ∀ {ls : List Nat} {c y : Chip}, ls.Nodup →
    (∀ l ∈ ls, Tbl.get 0 c.ctxErr (globalLine d l) = Tbl.get 0 errs (globalLine d l)) → c.regs = y.regs →
    (c.linesRead d ls).regs = (y.correctionsCounted errs d ls).regs
  | [], _, _, _, _, h => h
  | l :: t, c, y, hnd, herr, h => by
    obtain ⟨hnotin, hnd⟩ := List.nodup_cons.1 hnd
    obtain ⟨hl, ht⟩ := List.forall_mem_cons.1 herr
    rw [Chip.linesRead, List.foldl_cons, Chip.correctionsCounted, List.foldl_cons]
    refine Chip.linesRead_regs hnd (fun k hk => ?_) ?_
    · rw [Chip.lineRead_err, if_neg fun he => hnotin ((globalLine_inj.1 he : k = l) ▸ hk), ht k hk]
    · rw [Chip.lineRead, hl]
      split
      · exact h
      · simp only [Chip.bump, Chip.wr, Chip.rd, h]

/-- The context store's errors once upsets have struck. -/
def Chip.struck (c : Chip) (ups : List (Nat × Nat)) : Chip :=
  { c with ctxErr := ups.foldl (fun m u => Tbl.modify 0 m u.1 (· + u.2)) c.ctxErr }

/-- The part with the scrub of a die moved past unit `u`, the last one ending a pass. -/
def Chip.scrubbedPast (c : Chip) (d u : Nat) : Chip :=
  ((whenM (decide (u + 1 = stackUnits)) (bumpM R.CTX_SCRUB_PASSES (dieOff d))).run
    { c with ctxScrub := Tbl.put 0 c.ctxScrub d ((u + 1) % stackUnits) }).2

theorem Chip.scrubbedPast_facts (c : Chip) (d u : Nat) : let e := c.scrubbedPast d u
    e.calm = c.calm ∧ e.kv = c.kv ∧ e.ctxErr = c.ctxErr ∧ Tbl.get 0 e.ctxScrub d = (u + 1) % stackUnits ∧
      e.rd R.CTX_CORRECTED_COUNT (dieOff d) = c.rd R.CTX_CORRECTED_COUNT (dieOff d) := by
  unfold Chip.scrubbedPast
  rw [whenM_run]
  split
  · exact ⟨rfl, rfl, rfl, Tbl.get_put_same .., Chip.rd_wr_window (by decide) ..⟩
  · exact ⟨rfl, rfl, rfl, Tbl.get_put_same .., rfl⟩

section
variable {c : Chip} {d : Nat} {ups : List (Nat × Nat)}

theorem doCtxScrubRead_off (h : c.flag R.CTX_STATUS_SCRUB_ON (dieOff d) = false) :
    (doCtxScrubRead d ups).run c = ((), c.struck ups) := by
  have hoff : (c.struck ups).flag R.CTX_STATUS_SCRUB_ON (dieOff d) = false := h
  rw [doCtxScrubRead, CM.run_seq, CM.run_modify, CM.get_bind, ← Chip.struck, hoff, if_neg Bool.false_ne_true, CM.run_pure]

theorem doCtxScrubRead_on {u : Nat} (hu : Tbl.get 0 c.ctxScrub d = u) (h : c.flag R.CTX_STATUS_SCRUB_ON (dieOff d) = true)
    (herr : ∀ l ∈ upFrom (16 * u) 16, Tbl.get 0 (c.struck ups).ctxErr (globalLine d l) ≤ 2) :
    ((doCtxScrubRead d ups).run c).2 = ((c.struck ups).linesRead d (upFrom (16 * u) 16)).scrubbedPast d u := by
  have hon : (c.struck ups).flag R.CTX_STATUS_SCRUB_ON (dieOff d) = true := h
  have hunit : Tbl.get 0 (c.struck ups).ctxScrub d = u := hu
  rw [doCtxScrubRead, CM.run_seq, CM.run_modify, CM.get_bind, ← Chip.struck, hon, if_pos rfl, hunit, CM.run_seq,
    forM_ctxCheck_correctable herr, CM.run_seq, CM.run_modify, Chip.scrubbedPast]

/-- A scrub read that meets errors that can be corrected alone: the errors of the unit's lines go, counted as in a part `y` with the
same registers, and the next unit's turn comes. -/
theorem doCtxScrubRead_corrects {u : Nat} {y : Chip} (hu : Tbl.get 0 c.ctxScrub d = u) (h : c.flag R.CTX_STATUS_SCRUB_ON (dieOff d) = true)
    (herr : ∀ l ∈ upFrom (16 * u) 16, Tbl.get 0 (c.struck ups).ctxErr (globalLine d l) ≤ 2) (hy : c.regs = y.regs) :
    let e := ((doCtxScrubRead d ups).run c).2
    e.calm = c.calm ∧ Tbl.get 0 e.ctxScrub d = (u + 1) % stackUnits ∧ e.kv = c.kv ∧
      (∀ a, Tbl.get 0 e.ctxErr a = if a ∈ (upFrom (16 * u) 16).map (globalLine d) then 0 else Tbl.get 0 (c.struck ups).ctxErr a) ∧
      e.rd R.CTX_CORRECTED_COUNT (dieOff d) =
        (y.correctionsCounted (c.struck ups).ctxErr d (upFrom (16 * u) 16)).rd R.CTX_CORRECTED_COUNT (dieOff d) := by
  dsimp only
  rw [doCtxScrubRead_on hu h herr]
  have hdistinct : (upFrom (16 * u) 16).Nodup := by rw [upFrom_eq_range']; exact List.nodup_range'
  have hregs := Chip.linesRead_regs (d := d) (c := c.struck ups) (y := y) hdistinct (fun _ _ => rfl) hy
  have herrs (a : Nat) := Chip.linesRead_err (d := d) (a := a) (ls := upFrom (16 * u) 16) (c := c.struck ups)
  obtain ⟨hcalm, hkv, herr', hunit, hcount⟩ := Chip.scrubbedPast_facts ((c.struck ups).linesRead d (upFrom (16 * u) 16)) d u
  obtain ⟨errs, rs, honly⟩ := Chip.linesRead_only (d := d) (ls := upFrom (16 * u) 16) (c := c.struck ups)
  refine ⟨hcalm.trans ?_, hunit, hkv.trans ?_, fun a => by rw [herr', herrs], hcount.trans ?_⟩
  · rw [honly]; rfl
  · rw [honly]; rfl
  · rw [Chip.rd, hregs, ← Chip.rd]

end

/-! ## The statement's clauses, each by what its command does -/

section
variable {s : State} (hr : s.chip.runs = true) (hc : s.chip.calm = true)
include hr hc

section
variable {i : TnpIn} {id : ImageId} {x : Nat} {p : Paging} (hs : i.session = pagingSession)
  (hx : s.chip.pagedContext id i.request = some x) (hp : s.chip.paging id.die x = some p)
include hs hx hp

omit hr hc in
/-- The effect of PUT_ACK for a stored image. -/
theorem putAck_run (hout : p.out = true) (hears : s.chip.hears i 0x61 = true) :
    (doTnpPutAck i id 0x40).run { s.chip with sent := [] } =
      (pageDone id.die x id.page p (pageOutDone id.die x)).run { s.chip with sent := [] } :=
  (receive_putAck (c := { s.chip with sent := [] }) hears hs id 0x40).trans
    (doPutAck_stored (c := { s.chip with sent := [] }) hx hp hout)

theorem putAck_more (hout : p.out = true) (hears : s.chip.hears i 0x61 = true) (hleft : (p.without id.page).waiting ≠ []) :
    Completes (.putAck i id 0x40) s fun d => d.paging id.die x = some (p.without id.page) ∧ d.descs = s.chip.descs := by
  have hrun := putAck_run hs hx hp hout hears
  rw [pageDone_more hleft] at hrun
  exact act_effect hr (congrArg Prod.snd hrun) hc fun _ _ =>
    ⟨setPaging_paging id.die x (some (p.without id.page)) { s.chip with sent := [] }, rfl⟩

theorem putAck_last (hout : p.out = true) (hears : s.chip.hears i 0x61 = true) (hleft : (p.without id.page).waiting = []) :
    Completes (.putAck i id 0x40) s fun d => d.paging id.die x = none ∧
      (d.ctxDesc id.die x).state = ctxRemote ∧ (d.ctxDesc id.die x).entries = [] ∧
      d.rd R.CTX_PAGE_OUT_COUNT (dieOff id.die) = min (s.chip.rd R.CTX_PAGE_OUT_COUNT (dieOff id.die) + 1) (2 ^ 32 - 1) := by
  have hends := endPaging_unpaged (count := R.CTX_PAGE_OUT_COUNT) rfl id.die x ctxRemote
    ((setPaging id.die x (some (p.without id.page))).run { s.chip with sent := [] }).2
  have hrun := putAck_run hs hx hp hout hears
  rw [pageDone_last hleft, pageOutDone_eq] at hrun
  exact act_effect hr (congrArg Prod.snd hrun) (hends.calm.trans hc) fun _ _ =>
    ⟨hends.paging, hends.state, hends.entries, hends.counted⟩

theorem pagingData_places {image tag key mac : List Nat} {e : PageEntry} (hout : p.out = false) (hears : s.chip.hears i 0x63 = true)
    (hkey : s.chip.key keyTenantData (s.chip.ctxDesc id.die x).tenant = some key)
    (hmac : s.chip.key keyTenantMac (s.chip.ctxDesc id.die x).tenant = some mac)
    (he : Tbl.find? (s.chip.ctxDesc id.die x).entries id.page = some e) (hlen : key.length = 64) (htag : cmac mac image = tag)
    (himage : image.length = 32 * s.chip.rd R.CTX_FRAME_CFG_FRAME_LINES (dieOff id.die)) :
    Completes (.pagingData i id image tag) s fun d => d.kv = s.chip.imagePlaced id x e.frame key image ∧
      ((p.without id.page).waiting ≠ [] → d.paging id.die x = some (p.without id.page)) ∧
      ((p.without id.page).waiting = [] → d.paging id.die x = none ∧ (d.ctxDesc id.die x).state = ctxResident ∧
        d.rd R.CTX_PAGE_IN_COUNT (dieOff id.die) = min (s.chip.rd R.CTX_PAGE_IN_COUNT (dieOff id.die) + 1) (2 ^ 32 - 1)) := by
  obtain ⟨y, ⟨m, errs, rfl⟩, hkv, hplaces⟩ := doPagingData_places (c := { s.chip with sent := [] }) hx hp hout hkey hmac he hlen htag himage
  have hrun := (receive_data (c := { s.chip with sent := [] }) hears hs id image tag).trans hplaces
  by_cases hleft : (p.without id.page).waiting = []
  · rw [pageDone_last hleft] at hrun
    obtain ⟨hcalm, hkeeps, hpaging, hstate, hcount⟩ := pageInDone_resident id.die x
      ((setPaging id.die x (some (p.without id.page))).run { s.chip with sent := [], kv := m, ctxErr := errs }).2
    exact act_effect hr (congrArg Prod.snd hrun) (hcalm.trans hc) fun _ _ =>
      ⟨hkeeps.trans hkv, fun h => absurd hleft h, fun _ => ⟨hpaging, hstate, hcount⟩⟩
  · rw [pageDone_more hleft] at hrun
    exact act_effect hr (congrArg Prod.snd hrun) hc fun _ _ =>
      ⟨hkv, fun _ => setPaging_paging id.die x (some (p.without id.page)) _, fun h => absurd h hleft⟩

end

section
variable {d x page : Nat} {p : Paging} (hp : s.chip.paging d x = some p)
include hp

theorem pagingTimeout_stored (hw : p.waiting.contains page = false) : Becomes (.pagingTimeout d x page) s s.chip :=
  act_idle hr hc (doPagingTimeout_stored (c := { s.chip with sent := [] }) hp hw)

theorem pagingTimeout_refetches (hw : p.waiting.contains page = true) (hout : p.out = false)
    (hn : Tbl.get 0 p.retries page < s.chip.rd R.CTX_PAGE_CFG_PAGE_RETRIES (dieOff d)) :
    Completes (.pagingTimeout d x page) s fun e => e.paging d x = some (p.retried page) ∧
      e.rd R.CTX_PAGE_FAIL_REFETCH (dieOff d) = min (s.chip.rd R.CTX_PAGE_FAIL_REFETCH (dieOff d) + 1) (2 ^ 16 - 1) := by
  have hlate := doPagingTimeout_late (c := { s.chip with sent := [] }) hp hw
  obtain ⟨hcalm, hpaging, hcount⟩ := retryPage_refetches (c := { s.chip with sent := [] }) hp hout hn
  exact act_effect hr (congrArg Prod.snd hlate) (hcalm.trans hc) fun _ _ => ⟨hpaging, hcount⟩

theorem pagingTimeout_lost (hw : p.waiting.contains page = true)
    (hn : s.chip.rd R.CTX_PAGE_CFG_PAGE_RETRIES (dieOff d) ≤ Tbl.get 0 p.retries page) :
    Completes (.pagingTimeout d x page) s fun e => e.paging d x = none ∧ (e.ctxDesc d x).state = ctxLost ∧
      (e.ctxDesc d x).entries = [] ∧
      e.rd R.CTX_PAGE_FAIL_LOST (dieOff d) = min (s.chip.rd R.CTX_PAGE_FAIL_LOST (dieOff d) + 1) (2 ^ 16 - 1) := by
  have hlost := (doPagingTimeout_late (c := { s.chip with sent := [] }) hp hw).trans (retryPage_lost (c := { s.chip with sent := [] }) hp hn)
  have hends := endPaging_unpaged (count := R.CTX_PAGE_FAIL_LOST) rfl d x ctxLost { s.chip with sent := [] }
  exact act_effect hr (congrArg Prod.snd (hlost.trans (by rw [pagingLost_eq]))) (hends.calm.trans hc) fun _ _ =>
    ⟨hends.paging, hends.state, hends.entries, hends.counted⟩

end

omit hc in
theorem frameZeroed_completes {d f : Nat} {x : Frame} (h : (s.chip.busyFrames d).find? (·.2.dirty) = some (f, x)) :
    Completes (.frameZeroed d) s fun e => e.frame d f = noFrame ∧ e.kv = s.chip.frameZeroed d f := by
  obtain ⟨errs, hrun⟩ := doFrameZeroed_run (c := { s.chip with sent := [] }) h
  refine take_completes hr fun was => ?_
  obtain ⟨out, hsettled⟩ := settleAlert_run was ((doFrameZeroed d).run { s.chip with sent := [] }).2
  rw [hsettled, hrun]
  exact ⟨setFrame_frame d f noFrame _, rfl⟩

section
variable {d : Nat} {ups : List (Nat × Nat)}

theorem ctxScrubRead_off (h : s.chip.flag R.CTX_STATUS_SCRUB_ON (dieOff d) = false) :
    Becomes (.ctxScrubRead d ups) s (s.chip.struck ups) :=
  act_makes hr hc (doCtxScrubRead_off (c := { s.chip with sent := [] }) h)

theorem ctxScrubRead_on {u : Nat} (hu : Tbl.get 0 s.chip.ctxScrub d = u) (h : s.chip.flag R.CTX_STATUS_SCRUB_ON (dieOff d) = true)
    (herr : ∀ l ∈ upFrom (16 * u) 16, Tbl.get 0 (s.chip.struck ups).ctxErr (globalLine d l) ≤ 2) :
    Completes (.ctxScrubRead d ups) s fun e => Tbl.get 0 e.ctxScrub d = (u + 1) % stackUnits ∧ e.kv = s.chip.kv ∧
      (∀ a, Tbl.get 0 e.ctxErr a =
        if a ∈ (upFrom (16 * u) 16).map (globalLine d) then 0 else Tbl.get 0 (s.chip.struck ups).ctxErr a) ∧
      e.rd R.CTX_CORRECTED_COUNT (dieOff d) =
        (s.chip.correctionsCounted (s.chip.struck ups).ctxErr d (upFrom (16 * u) 16)).rd R.CTX_CORRECTED_COUNT (dieOff d) := by
  obtain ⟨hcalm, hunit, hkv, herrs, hcount⟩ := doCtxScrubRead_corrects (c := { s.chip with sent := [] }) (y := s.chip) hu h herr rfl
  exact act_effect hr rfl (hcalm.trans hc) fun _ _ => ⟨hunit, hkv, herrs, hcount⟩

end

end

/-- Settles O47, each clause by what its command does. -/
theorem contextStoreKeepsItsPages : Obligations.ContextStoreKeepsItsPages := by
  unfold Obligations.ContextStoreKeepsItsPages
  intro s hr hc
  refine ⟨?image, ?late, ?zeroed, ?scrub⟩
  case image =>
    exact fun i id x p hs _ hx hp =>
      ⟨fun hout hears => ⟨putAck_more hr hc hs hx hp hout hears, putAck_last hr hc hs hx hp hout hears⟩,
       fun image tag key mac e hout hears hkey hmac he hlen htag himage =>
        pagingData_places hr hc hs hx hp hout hears hkey hmac he hlen htag himage⟩
  case late =>
    exact fun d x page p _ hp =>
      ⟨pagingTimeout_stored hr hc hp, pagingTimeout_refetches hr hc hp, pagingTimeout_lost hr hc hp⟩
  case zeroed =>
    intro d f x h
    obtain ⟨e, he, hframe, hkv⟩ := frameZeroed_completes hr h
    exact ⟨e, he, hframe, fun a => by rw [hkv]; exact s.chip.frameZeroed_get d f a⟩
  case scrub => exact fun d ups _ => ⟨ctxScrubRead_off hr hc, ctxScrubRead_on hr hc rfl⟩

end Sys2Proof.Machine
end

section
/-! SUPPORT. What leaves a front port with no SAK in use, how a command that the reactions do not follow completes with it, and
what a session's stream is. -/
namespace Sys2Proof.Machine

/-! ## Commands that no reaction follows -/

/-- ALERT_N follows the causes; what was sent stays sent. -/
theorem settleAlert_sends (was : Nat) (c : Chip) : ∃ low more, ((settleAlert was).run c).2 =
    { c with mgmt := { c.mgmt with alertLow := low }, sent := c.sent ++ more } := by
  simp only [settleAlert, onMgmt, sendIbi, whenM_run, CM.run_seq, CM.get_bind, CM.run_modify]
  split
  · split
    · exact ⟨_, _, rfl⟩
    · exact ⟨_, [], by rw [List.append_nil]⟩
  · exact ⟨_, [], by rw [List.append_nil]⟩

/-- A command that no reaction follows completes with the part that its effect makes, but for ALERT_N and the in-band interrupt. -/
theorem take_effect {m : CM Unit} {s : State} {d : Chip} {post : Chip → Prop} (hr : s.chip.runs = true)
    (hd : (m.run { s.chip with sent := [] }).2 = d)
    (hp : ∀ low more, post { d with mgmt := { d.mgmt with alertLow := low }, sent := d.sent ++ more }) :
    ∃ e, take .normal m s = .next { s with chip := e } ∧ post e :=
  take_completes hr fun was => by
    obtain ⟨low, more, h⟩ := settleAlert_sends was d
    rw [hd, h]
    exact hp low more

/-- A command that no reaction follows, and whose effect makes exactly the part `e`, becomes it. -/
theorem take_makes {m : CM Unit} {s : State} {e : Chip} (hr : s.chip.runs = true)
    (hm : m.run { s.chip with sent := [] } = ((), { e with sent := [] })) :
    ∃ d, take .normal m s = .next { s with chip := d } ∧ d.quiet = e.quiet :=
  take_becomes hr (by rw [hm]; rfl)

/-! ## A front port that sends in plain (R279) -/

/-- The keys of what makes a front port send, and take no packet number. -/
def plainKeys (f k : Nat) : Prop :=
  k = regKey R.FRONT_STATUS_LINK_UP (frontOff f) ∨ k = regKey R.FRONT_STATUS_PN_END (frontOff f) ∨
    k = regKey R.FRONT_STATUS_SAK (frontOff f) ∨ k = regKey R.SEC_ZEROISE_ACTIVE 0

/-- What changes none of these keys leaves the port sending in plain. -/
theorem Mods.plainPort {α : Type} {P : Nat → Prop} {m : CM α} (h : Mods P m) {f : Nat} (hk : ∀ k, plainKeys f k → ¬P k)
    (c : Chip) : (m.run c).2.plainPort f = c.plainPort f := by
  simp only [Chip.plainPort, Chip.frontSends, Chip.flag, h.rd (hk _ (.inl rfl)), h.rd (hk _ (.inr (.inl rfl))),
    h.rd (hk _ (.inr (.inr (.inl rfl)))), h.rd (hk _ (.inr (.inr (.inr rfl))))]

theorem not_plainKeys_framesTx (f g : Nat) : ∀ k, plainKeys f k → k ≠ regKey R.FRONT_FRAMES_TX (frontOff g) := by
  rintro _ (rfl | rfl | rfl | rfl) <;> simp only [regKey, R.FRONT_STATUS_LINK_UP, R.FRONT_STATUS_PN_END, R.FRONT_STATUS_SAK,
    R.SEC_ZEROISE_ACTIVE, R.FRONT_FRAMES_TX] <;> omega

/-- What it says that a port sends in plain. -/
theorem Chip.plainPort_facts {c : Chip} {f : Nat} (h : c.plainPort f = true) :
    c.frontSends f = true ∧ c.flag R.FRONT_STATUS_SAK (frontOff f) = false ∧ c.flag R.SEC_ZEROISE_ACTIVE = false := by
  simp only [Chip.plainPort, Bool.and_eq_true, Bool.not_eq_true'] at h
  obtain ⟨⟨hsends, hsak⟩, hzeroise⟩ := h
  exact ⟨hsends, hsak, hzeroise⟩

/-- Without a SAK, frames are counted and take no packet number. -/
theorem countFrames_plain {c : Chip} {f : Nat} (h : c.flag R.FRONT_STATUS_SAK (frontOff f) = false) (n : Nat) :
    (countFrames f n).run c = ((), c.bump R.FRONT_FRAMES_TX (frontOff f) n) := by
  have hsak : (c.bump R.FRONT_FRAMES_TX (frontOff f) n).flag R.FRONT_STATUS_SAK (frontOff f) = false := by
    rw [Chip.flag, Chip.bump, Chip.rd_wr_window (by decide)]
    exact h
  simp only [countFrames, CM.run_seq, bumpM_run, CM.get_bind, hsak, Bool.false_eq_true, if_false, CM.run_pure]

/-- The part with one more thing on the wires. -/
def Chip.sending (c : Chip) (o : Out) : Chip := { c with sent := c.sent ++ [o] }

theorem sendTnp_plain {c : Chip} {p : Peer} (h : c.plainPort p.front = true) (m : Tnp) : (sendTnp p m).run c =
    ((), (c.sending (.tnp p m)).bump R.FRONT_FRAMES_TX (frontOff p.front) (segments m.body.len)) := by
  obtain ⟨hsends, hsak, hzeroise⟩ := Chip.plainPort_facts h
  rw [sendTnp, CM.get_bind, hsends, hzeroise]
  exact countFrames_plain (c := c.sending (.tnp p m)) hsak _

theorem sendFrame_plain {c : Chip} {f : Nat} (h : c.plainPort f = true) (o : Out) :
    (sendFrame f o).run c = ((), (c.sending o).bump R.FRONT_FRAMES_TX (frontOff f) 1) := by
  obtain ⟨hsends, hsak, -⟩ := Chip.plainPort_facts h
  rw [sendFrame, CM.get_bind, hsends]
  exact countFrames_plain (c := c.sending o) hsak 1

/-- What is once on the wires stays on them as more messages go out. -/
theorem sendTnp_sent (o : Out) (p : Peer) (m : Tnp) : Keeps (fun c => o ∈ c.sent) (sendTnp p m) := by
  refine Keeps.bind Keeps.get fun _ => Keeps.ite (Keeps.bind (Keeps.modify fun c h => List.mem_append_left _ h) fun _ => ?_)
    (Keeps.pure ())
  refine Keeps.bind (Keeps.bumpM fun _ _ h => h) fun _ => Keeps.bind Keeps.get fun _ => Keeps.ite ?_ (Keeps.pure ())
  exact Keeps.bind (Keeps.modify fun _ h => h) fun _ => Keeps.bind (Keeps.whenM (Keeps.wrM fun _ h => h)) fun _ =>
    Keeps.whenM (Keeps.wrM fun _ h => h)

/-! ## The stream of a session (R284, R287) -/

/-- The part with other sessions at the head. -/
def Chip.withSessions (c : Chip) (m : Map Session) : Chip := { c with serving := { c.serving with sessions := m } }

/-- The part with a session of its own at a number. -/
def Chip.withSession (c : Chip) (n : Nat) (e : Session) : Chip := c.withSessions (Tbl.insert n e c.serving.sessions)

theorem Chip.stream_session {n : Nat} (hn : n ≠ ctrlSession) (c : Chip) :
    c.stream n = (Tbl.find? c.serving.sessions n).map fun e => (e.peer, e.stream) := if_neg hn

/-- The stream of a gateway's session is that of a session the head holds. -/
theorem Chip.session_of_stream {c : Chip} {n : Nat} {p : Peer} {x : Stream} (hn : n ≠ ctrlSession) (h : c.stream n = some (p, x)) :
    ∃ gateway, Tbl.find? c.serving.sessions n = some ⟨p, gateway, x⟩ := by
  rw [Chip.stream_session hn, Option.map_eq_some_iff] at h
  obtain ⟨⟨_, gateway, _⟩, he, hpair⟩ := h
  obtain ⟨rfl, rfl⟩ := Prod.mk.inj hpair
  exact ⟨gateway, he⟩

theorem Chip.withSession_stream {n : Nat} (hn : n ≠ ctrlSession) (c : Chip) (e : Session) :
    (c.withSession n e).stream n = some (e.peer, e.stream) := by
  rw [Chip.stream_session hn, Chip.withSession, Chip.withSessions, Tbl.find?_insert_same]
  rfl

theorem setStream_session {c : Chip} {n : Nat} {e : Session} (hn : n ≠ ctrlSession) (he : Tbl.find? c.serving.sessions n = some e)
    (x : Stream) : (setStream n x).run c = ((), c.withSession n { e with stream := x }) := by
  rw [setStream, onServing, CM.run_modify, if_neg hn, he]
  rfl

/-- A session's number is below 4,096: the control stream has none. -/
theorem ne_ctrlSession {n : Nat} (h : n < 4096) : n ≠ ctrlSession := by
  unfold ctrlSession
  omega

/-- A message of a session's own source. -/
theorem Chip.fromSession_iff {c : Chip} {i : TnpIn} :
    c.fromSession i = true ↔ ∃ e, Tbl.find? c.serving.sessions i.session = some e ∧ e.peer = i.src := by
  unfold Chip.fromSession
  split <;> simp_all

theorem Chip.fromTailSession_of {c : Chip} {i : TnpIn} {t : TailSession} (ht : Tbl.find? c.serving.tail i.session = some t)
    (hp : t.peer = i.src) : c.fromTailSession i = true := by
  rw [Chip.fromTailSession, ht]
  exact decide_eq_true hp

end Sys2Proof.Machine
end

section
/-! Settles the statement on step packets: what a gateway's ACK and RESEND do at the tail, and from it each clause. -/
namespace Sys2Proof.Machine

/-! ## ACK (R284, R311) -/

section
variable {c : Chip} {i : TnpIn} {t : TailSession}

theorem receive_ack (h : c.hears i 7 = true) (htail : c.fromTailSession i = true) (step : Nat) : (receive i (.ack step)).run c =
    (doStepAck i.session step).run ((whenM (c.fromSession i) (takeAck i)).run c).2 := by
  obtain ⟨hup, hkey, htag⟩ := Chip.hears_facts h
  rw [receive, CM.get_bind, TnpBody.typ, hup, hkey, htag, htail, Bool.or_true]
  rfl

/-- An ACK of a session's source acknowledges messages of its stream; one from elsewhere does not. -/
theorem takeAck_stream (hn : i.session < 4096) : ∃ sessions,
    ((whenM (c.fromSession i) (takeAck i)).run c).2 = c.withSessions sessions ∧
    ((whenM (c.fromSession i) (takeAck i)).run c).2.stream i.session =
      (c.stream i.session).map fun e => (e.1, if e.1 = i.src then e.2.acked i.ack else e.2) := by
  have hctrl := ne_ctrlSession hn
  by_cases hfrom : c.fromSession i = true
  · obtain ⟨e, he, hpeer⟩ := Chip.fromSession_iff.1 hfrom
    have hstream : c.stream i.session = some (e.peer, e.stream) := by rw [Chip.stream_session hctrl, he]; rfl
    have hrun : (takeAck i).run c = ((), c.withSession i.session { e with stream := e.stream.acked i.ack }) := by
      rw [takeAck, CM.get_bind, hstream]
      exact setStream_session hctrl he _
    rw [hfrom, whenM_true, hrun, hstream, Chip.withSession_stream hctrl, Option.map_some, if_pos hpeer]
    exact ⟨_, rfl, rfl⟩
  · rw [whenM_run, if_neg hfrom]
    refine ⟨c.serving.sessions, rfl, ?_⟩
    rw [Chip.stream_session hctrl]
    cases he : Tbl.find? c.serving.sessions i.session with
    | none => rfl
    | some e =>
      have hpeer : e.peer ≠ i.src := fun hp => hfrom (Chip.fromSession_iff.2 ⟨e, he, hp⟩)
      simp only [Option.map_some, if_neg hpeer]

theorem doStepAck_run (ht : Tbl.find? c.serving.tail i.session = some t) (step : Nat) : (doStepAck i.session step).run c =
    ((), { c with serving := { c.serving with tail := Tbl.insert i.session { t with acked := some step } c.serving.tail } }) := by
  rw [doStepAck, onServing, CM.run_modify, ht]

/-- The part once an ACK has acknowledged what its stream sent, and is kept at the tail. -/
theorem receive_stepAck (h : c.hears i 7 = true) (ht : Tbl.find? c.serving.tail i.session = some t) (hp : t.peer = i.src)
    (hn : i.session < 4096) (step : Nat) : ∃ d, (receive i (.ack step)).run c = ((), d) ∧
      Tbl.find? d.serving.tail i.session = some { t with acked := some step } ∧ d.serving.requests = c.serving.requests ∧
      d.stream i.session = (c.stream i.session).map fun e => (e.1, if e.1 = i.src then e.2.acked i.ack else e.2) := by
  obtain ⟨sessions, hack, hstream⟩ := takeAck_stream (c := c) hn
  have hrun := receive_ack h (Chip.fromTailSession_of ht hp) step
  rw [hack] at hstream
  rw [hack, doStepAck_run (c := c.withSessions sessions) ht] at hrun
  exact ⟨_, hrun, Tbl.find?_insert_same .., rfl, hstream⟩

end

/-! ## RESEND (R311) -/

/-- The part while it answers a RESEND to a front port: the port sends in plain, and what is served and the gateway's clamps stay. -/
structure Chip.Resends (front : Nat) (v : Serving) (clamps : Nat) (c : Chip) : Prop where
  plain : c.plainPort front = true
  serving : c.serving = v
  clamps : c.rd R.FAULT_CLAMP_COUNT (4 * srcGateway) = clamps

/-- The same, with something on the wires. -/
structure Chip.Resent (front : Nat) (v : Serving) (clamps : Nat) (o : Out) (c : Chip) : Prop extends c.Resends front v clamps where
  sent : o ∈ c.sent

section
variable {front : Nat} {v : Serving} {clamps : Nat}

/-- The fields that count what the part sends again. -/
def resendFlds : List Fld := [R.SERVE_RESENDS_RESENT, R.SERVE_RESENDS_GONE]

theorem not_plainKeys_resends {f : Fld} (hf : f ∈ resendFlds) (front : Nat) (hfront : front < 2) :
    ∀ k, plainKeys front k → k ≠ regKey f 0 := by
  simp only [resendFlds, List.mem_cons, List.not_mem_nil, or_false] at hf
  rcases hf with rfl | rfl <;> rintro _ (rfl | rfl | rfl | rfl) <;> simp only [regKey, frontOff, R.FRONT_STATUS_LINK_UP,
    R.FRONT_STATUS_PN_END, R.FRONT_STATUS_SAK, R.SEC_ZEROISE_ACTIVE, R.SERVE_RESENDS_RESENT, R.SERVE_RESENDS_GONE] <;> omega

theorem regKey_clampCount_ne_resends {f : Fld} (hf : f ∈ resendFlds) :
    regKey R.FAULT_CLAMP_COUNT (4 * srcGateway) ≠ regKey f 0 := by
  simp only [resendFlds, List.mem_cons, List.not_mem_nil, or_false] at hf
  rcases hf with rfl | rfl <;> decide

theorem not_plainKeys_clamp (hfront : front < 2) : ∀ k, plainKeys front k → ¬clampKeys srcGateway k := by
  rintro _ hk (rfl | ⟨f, hf, rfl⟩)
  · rcases hk with hk | hk | hk | hk <;> simp only [regKey, frontOff, srcGateway, R.FRONT_STATUS_LINK_UP, R.FRONT_STATUS_PN_END,
      R.FRONT_STATUS_SAK, R.SEC_ZEROISE_ACTIVE, R.FAULT_CLAMP_COUNT] at hk <;> omega
  · simp only [clampFlds, List.mem_cons, List.not_mem_nil, or_false] at hf
    rcases hf with rfl | rfl | rfl | rfl <;> rcases hk with hk | hk | hk | hk <;> simp only [regKey, frontOff, R.FRONT_STATUS_LINK_UP,
      R.FRONT_STATUS_PN_END, R.FRONT_STATUS_SAK, R.SEC_ZEROISE_ACTIVE, R.FAULT_CLAMP_SRC_VALID, R.FAULT_CLAMP_SRC_SESSION,
      R.FAULT_CLAMP_SRC_SOURCE, R.FAULT_CLAMP_ADDR_WHERE] at hk <;> omega

theorem Chip.Resends.counted (hfront : front < 2) {f : Fld} (hf : f ∈ resendFlds) : Keeps (Chip.Resends front v clamps) (bumpM f) :=
  fun c h => ⟨((Mods.bumpM (P := (· = regKey f 0)) rfl).plainPort (not_plainKeys_resends hf front hfront) c).trans h.plain, h.serving,
    (Chip.bump_rd_other (regKey_clampCount_ne_resends hf) c).trans h.clamps⟩

/-- A message that goes out to the front port is on its wires. -/
theorem sendTnp_resent {p : Peer} (hp : p.front < 2) (m : Tnp) :
    Leads (Chip.Resends p.front v clamps) (sendTnp p m) (Chip.Resent p.front v clamps (.tnp p m)) := fun c h => by
  have hne : regKey R.FAULT_CLAMP_COUNT (4 * srcGateway) ≠ regKey R.FRONT_FRAMES_TX (frontOff p.front) := by
    simp only [regKey, frontOff, srcGateway, R.FAULT_CLAMP_COUNT, R.FRONT_FRAMES_TX]
    omega
  rw [sendTnp_plain h.plain]
  exact { plain := ((Mods.bumpM (P := (· = regKey R.FRONT_FRAMES_TX (frontOff p.front))) rfl).plainPort
            (not_plainKeys_framesTx p.front p.front) (c.sending (.tnp p m))).trans h.plain
          serving := h.serving
          clamps := (Chip.bump_rd_other hne _).trans h.clamps
          sent := List.mem_append_right _ (List.mem_singleton.2 rfl) }

/-- One packet, or the answer GONE, sent and counted. -/
def sendCounted (p : Peer) (m : Tnp) (f : Fld) : CM Unit := do
  sendTnp p m
  bumpM f

variable {p : Peer} (hp : p.front < 2) {f : Fld} (hf : f ∈ resendFlds)
include hp hf

theorem sendCounted_leads (m : Tnp) :
    Leads (Chip.Resends p.front v clamps) (sendCounted p m f) (Chip.Resent p.front v clamps (.tnp p m)) :=
  Leads.bind (sendTnp_resent hp m) fun _ c h => { Chip.Resends.counted hp hf c h.toResends with sent := h.sent }

theorem sendCounted_resends (m : Tnp) : Keeps (Chip.Resends p.front v clamps) (sendCounted p m f) :=
  fun c h => (sendCounted_leads hp hf m c h).toResends

theorem sendCounted_resent (o : Out) (m : Tnp) : Keeps (Chip.Resent p.front v clamps o) (sendCounted p m f) :=
  fun c h => { sendCounted_resends hp hf m c h.toResends with
    sent := Keeps.bind (sendTnp_sent o p m) (fun _ => Keeps.bumpM fun _ _ h => h) c h.sent }

end

/-- The range of a RESEND (R311): 1 to 1,024 packets. -/
def resendCount (count : Nat) : Nat := max 1 (min 1024 count)

/-- A step lies in the range of a RESEND. -/
def resendWants (first count step : Nat) : Bool := decide ((step + 2 ^ 32 - first) % 2 ^ 32 < resendCount count)

/-- A kept packet, as it goes out again. -/
def packetTnp (session : Nat) (p : Nat × List StepEntry × Nat) : Tnp := ⟨session, 0, p.1, 0, 0, .step p.2.2 p.2.1⟩

/-- The answer to a RESEND of a packet that has left the window. -/
def goneTnp (i : TnpIn) : Tnp := ⟨i.session, i.tenant, 0, 0, 0, .status 8 0x22 none⟩

/-- The kept packets in the range go out again. -/
def resendPackets (i : TnpIn) (t : TailSession) (first count : Nat) : CM Unit :=
  forM_ (t.packets.filter fun p => resendWants first count p.1) fun p =>
    sendCounted t.peer (packetTnp i.session p) R.SERVE_RESENDS_RESENT

/-- GONE, where a packet at or after the range's first has left the window. -/
def resendGone (i : TnpIn) (t : TailSession) (first : Nat) : CM Unit :=
  match t.gone with
  | some g => if (g + 2 ^ 32 - first) % 2 ^ 32 < 2 ^ 31 then sendCounted t.peer (goneTnp i) R.SERVE_RESENDS_GONE else pure ()
  | none => pure ()

section
variable {c : Chip} {i : TnpIn} {t : TailSession}

theorem receive_resend (h : c.hears i 8 = true) (ht : c.fromTailSession i = true) (first count : Nat) :
    (receive i (.resend first count)).run c = (doResend i first count).run c := by
  obtain ⟨hup, hkey, htag⟩ := Chip.hears_facts h
  rw [receive, CM.get_bind, TnpBody.typ, hup, hkey, htag]
  exact congrArg (fun m : CM Unit => m.run c) (if_pos ht)

/-- RESEND: the clamp event, the packets, then GONE. -/
theorem doResend_run (ht : Tbl.find? c.serving.tail i.session = some t) (first count : Nat) : (doResend i first count).run c =
    (do whenM (decide (resendCount count ≠ count)) (clampEvent srcGateway i.session 8)
        resendPackets i t first count
        resendGone i t first : CM Unit).run c := by
  rw [doResend, CM.get_bind, ht]
  dsimp only [resendGone]
  cases t.gone <;> rfl

/-- A count outside its range is a clamp event of the gateway. -/
theorem resendClamp_leads {front : Nat} (hfront : front < 2) {v : Serving} {n session count : Nat} :
    Leads (Chip.Resends front v n) (whenM (decide (resendCount count ≠ count)) (clampEvent srcGateway session 8))
      (Chip.Resends front v (if count ≠ resendCount count then min (n + 1) (2 ^ 32 - 1) else n)) := fun c h => by
  by_cases hcount : resendCount count = count
  · rw [decide_eq_false (not_not_intro hcount), whenM_false, if_neg (not_not_intro hcount.symm)]
    exact h
  · obtain ⟨_, hregs⟩ := clampEvent_sameButRegs srcGateway session 8 c c.sameButRegs_refl
    rw [decide_eq_true hcount, whenM_true, if_pos (Ne.symm hcount)]
    refine ⟨((clampEvent_mods srcGateway session 8).plainPort (not_plainKeys_clamp hfront) c).trans h.plain, ?_, ?_⟩
    · rw [hregs]
      exact h.serving
    · rw [clampEvent_count (by decide), h.clamps]

variable {v : Serving} {clamps first count : Nat} (hp : t.peer.front < 2)
include hp

theorem resendPackets_resends : Keeps (Chip.Resends t.peer.front v clamps) (resendPackets i t first count) :=
  Keeps.forM (fun _ => sendCounted_resends hp (by simp [resendFlds]) _) _

theorem resendPackets_leads {p : Nat × List StepEntry × Nat} (hmem : p ∈ t.packets) (hwant : resendWants first count p.1 = true) :
    Leads (Chip.Resends t.peer.front v clamps) (resendPackets i t first count)
      (Chip.Resent t.peer.front v clamps (.tnp t.peer (packetTnp i.session p))) :=
  Leads.forM (t := p) (sendCounted_leads hp (by simp [resendFlds]) _) (fun _ _ => sendCounted_resends hp (by simp [resendFlds]) _)
    (fun _ => sendCounted_resent hp (by simp [resendFlds]) _ _) (List.mem_filter.2 ⟨hmem, hwant⟩)

theorem resendGone_resends : Keeps (Chip.Resends t.peer.front v clamps) (resendGone i t first) := by
  unfold resendGone
  split
  · exact Keeps.ite (sendCounted_resends hp (by simp [resendFlds]) _) (Keeps.pure ())
  · exact Keeps.pure ()

theorem resendGone_resent (o : Out) : Keeps (Chip.Resent t.peer.front v clamps o) (resendGone i t first) := by
  unfold resendGone
  split
  · exact Keeps.ite (sendCounted_resent hp (by simp [resendFlds]) _ _) (Keeps.pure ())
  · exact Keeps.pure ()

theorem resendGone_leads {g : Nat} (hg : t.gone = some g) (hfrom : (g + 2 ^ 32 - first) % 2 ^ 32 < 2 ^ 31) :
    Leads (Chip.Resends t.peer.front v clamps) (resendGone i t first) (Chip.Resent t.peer.front v clamps (.tnp t.peer (goneTnp i))) := by
  rw [resendGone, hg]
  dsimp only
  rw [if_pos hfrom]
  exact sendCounted_leads hp (by simp [resendFlds]) _

end

/-- What a RESEND makes of the part: its packets and GONE are on the wires, and a count outside its range is a clamp event. -/
theorem receive_resends {c : Chip} {i : TnpIn} {t : TailSession} (h : c.hears i 8 = true)
    (ht : Tbl.find? c.serving.tail i.session = some t) (hp : t.peer = i.src) (hfront : t.peer.front < 2)
    (hplain : c.plainPort t.peer.front = true) (first count : Nat) : ∃ d, (receive i (.resend first count)).run c = ((), d) ∧
      d.Resends t.peer.front c.serving (if count ≠ resendCount count then
        min (c.rd R.FAULT_CLAMP_COUNT (4 * srcGateway) + 1) (2 ^ 32 - 1) else c.rd R.FAULT_CLAMP_COUNT (4 * srcGateway)) ∧
      (∀ p ∈ t.packets, resendWants first count p.1 = true → Out.tnp t.peer (packetTnp i.session p) ∈ d.sent) ∧
      (∀ g, t.gone = some g → (g + 2 ^ 32 - first) % 2 ^ 32 < 2 ^ 31 → Out.tnp t.peer (goneTnp i) ∈ d.sent) := by
  have hrun := (receive_resend h (Chip.fromTailSession_of ht hp) first count).trans (doResend_run ht first count)
  have hclamped := resendClamp_leads hfront (session := i.session) (count := count) c ⟨hplain, rfl, rfl⟩
  have hpackets := resendPackets_resends hfront (i := i) (first := first) (count := count) _ hclamped
  refine ⟨_, hrun, resendGone_resends hfront _ hpackets, fun p hmem hwant => ?packet, fun g hg hfrom => ?gone⟩
  case packet => exact (resendGone_resent hfront _ _ (resendPackets_leads hfront hmem hwant _ hclamped)).sent
  case gone => exact (resendGone_leads hfront hg hfrom _ hpackets).sent

/-! ## The statement's clauses, each by what its command does -/

section
variable {s : State} {i : TnpIn} {t : TailSession} (hr : s.chip.runs = true) (ht : Tbl.find? s.chip.serving.tail i.session = some t)
  (hp : t.peer = i.src)
include hr ht hp

theorem stepAck_completes (hn : i.session < 4096) (h : s.chip.hears i 7 = true) (step : Nat) : Completes (.stepAck i step) s fun d =>
    Tbl.find? d.serving.tail i.session = some { t with acked := some step } ∧ d.serving.requests = s.chip.serving.requests ∧
    d.stream i.session = (s.chip.stream i.session).map fun e => (e.1, if e.1 = i.src then e.2.acked i.ack else e.2) := by
  obtain ⟨d, hrun, hacked, hrequests, hstream⟩ := receive_stepAck (c := { s.chip with sent := [] }) h ht hp hn step
  exact take_effect hr (congrArg Prod.snd hrun) fun _ _ => ⟨hacked, hrequests, hstream⟩

theorem resend_completes (hfront : i.src.front < 2) (h : s.chip.hears i 8 = true) (hplain : s.chip.plainPort i.src.front = true)
    (first count : Nat) : Completes (.resend i first count) s fun d =>
      (∀ p ∈ t.packets, resendWants first count p.1 = true → Out.tnp t.peer (packetTnp i.session p) ∈ d.sent) ∧
      (∀ g, t.gone = some g → (g + 2 ^ 32 - first) % 2 ^ 32 < 2 ^ 31 → Out.tnp t.peer (goneTnp i) ∈ d.sent) ∧
      (count ≠ resendCount count → d.rd R.FAULT_CLAMP_COUNT (4 * srcGateway) =
        min (s.chip.rd R.FAULT_CLAMP_COUNT (4 * srcGateway) + 1) (2 ^ 32 - 1)) ∧
      d.serving.tail = s.chip.serving.tail := by
  rw [← hp] at hfront hplain
  obtain ⟨d, hrun, hresends, hpackets, hgone⟩ := receive_resends (c := { s.chip with sent := [] }) h ht hp hfront hplain first count
  exact take_effect hr (congrArg Prod.snd hrun) fun _ _ =>
    ⟨fun p hmem hwant => List.mem_append_left _ (hpackets p hmem hwant),
      fun g hg hfrom => List.mem_append_left _ (hgone g hg hfrom),
      fun hcount => hresends.clamps.trans (if_pos hcount), congrArg (·.tail) hresends.serving⟩

end

/-- Settles O44, each clause by what its command does. -/
theorem stepPacketsAreKeptForTheGateway : Obligations.StepPacketsAreKeptForTheGateway := by
  unfold Obligations.StepPacketsAreKeptForTheGateway
  intro s i t hr hfront hn c ht hp
  refine ⟨fun step h => stepAck_completes hr ht hp hn h step, fun first count h hplain => ?resend⟩
  case resend =>
    obtain ⟨d, hd, hpackets, hgone, hclamp, htail⟩ := resend_completes hr ht hp hfront h hplain first count
    exact ⟨d, hd, fun p hmem hwant => hpackets p hmem (decide_eq_true hwant), hgone, hclamp, htail⟩

end Sys2Proof.Machine
end

section
/-! Settles the statement on sessions: what sending, retransmitting, opening and closing make of a session and its stream, and from
it each clause. -/
namespace Sys2Proof.Machine

/-! ## Streams send (R284) -/

section
variable {c : Chip} {n : Nat} {p : Peer} {x : Stream} (hn : n ≠ ctrlSession)
include hn

/-- A message of a session's stream goes out once the stream is set. -/
theorem setStream_sendTnp (h : c.stream n = some (p, x)) (hplain : c.plainPort p.front = true) (y : Stream) (m : Tnp) :
    ∃ d, (do setStream n y; sendTnp p m : CM Unit).run c = ((), d) ∧ d.stream n = some (p, y) ∧ Out.tnp p m ∈ d.sent := by
  obtain ⟨gateway, he⟩ := Chip.session_of_stream hn h
  have hsend := sendTnp_plain (c := c.withSession n ⟨p, gateway, y⟩) hplain m
  refine ⟨_, .trans ?_ hsend, Chip.withSession_stream hn c ⟨p, gateway, y⟩, List.mem_append_right _ (List.mem_singleton.2 rfl)⟩
  rw [CM.run_seq, setStream_session hn he y]

theorem doStreamAck_due (h : c.stream n = some (p, x)) (hdue : x.ackDue = true) (hplain : c.plainPort p.front = true) :
    ∃ d, (doStreamAck n).run c = ((), d) ∧ d.stream n = some (p, { x with ackDue := false }) ∧
      Out.tnp p ⟨n, 0, x.txNext, (x.rxNext + 2 ^ 32 - 1) % 2 ^ 32, 0, .streamAck⟩ ∈ d.sent := by
  obtain ⟨d, hd, hpost⟩ := setStream_sendTnp hn h hplain { x with ackDue := false }
    ⟨n, 0, x.txNext, (x.rxNext + 2 ^ 32 - 1) % 2 ^ 32, 0, .streamAck⟩
  refine ⟨d, .trans ?_ hd, hpost⟩
  rw [doStreamAck, CM.get_bind, h]
  dsimp only
  rw [if_pos hdue]

omit hn in
theorem doStreamAck_idle (h : c.stream n = some (p, x)) (hdue : x.ackDue = false) : (doStreamAck n).run c = ((), c) := by
  rw [doStreamAck, CM.get_bind, h]
  dsimp only
  rw [hdue, if_neg Bool.false_ne_true, CM.run_pure]

/-- A stream whose message with a SEQ has been sent again. -/
def Stream.retried (x : Stream) (q : Nat) : Stream :=
  { x with unacked := x.unacked.map fun v => if v.1.seq = q then (v.1, v.2 + 1) else v, ackDue := false }

theorem doStreamRetransmit_again (h : c.stream n = some (p, x)) {q : Nat} {u : Tnp × Nat}
    (hu : (x.unacked.find? fun v => decide (v.1.seq = q)) = some u) (hleft : u.2 < c.rd R.SERVE_CFG_RETRIES)
    (hplain : c.plainPort p.front = true) : ∃ d, (doStreamRetransmit n q).run c = ((), d) ∧ d.stream n = some (p, x.retried q) ∧
      Out.tnp p { u.1 with ack := (x.rxNext + 2 ^ 32 - 1) % 2 ^ 32 } ∈ d.sent := by
  obtain ⟨d, hd, hpost⟩ := setStream_sendTnp hn h hplain (x.retried q) { u.1 with ack := (x.rxNext + 2 ^ 32 - 1) % 2 ^ 32 }
  refine ⟨d, .trans ?_ hd, hpost⟩
  have hmore : ¬(n ≠ ctrlSession ∧ c.rd R.SERVE_CFG_RETRIES ≤ u.2) := fun hclose => absurd hclose.2 (Nat.not_le.2 hleft)
  rw [doStreamRetransmit, CM.get_bind, h]
  dsimp only
  rw [hu]
  dsimp only
  rw [if_neg hmore]
  rfl

theorem doStreamRetransmit_closes (h : c.stream n = some (p, x)) {q : Nat} {u : Tnp × Nat}
    (hu : (x.unacked.find? fun v => decide (v.1.seq = q)) = some u) (hdone : c.rd R.SERVE_CFG_RETRIES ≤ u.2) :
    (doStreamRetransmit n q).run c = (closeSession n).run c := by
  rw [doStreamRetransmit, CM.get_bind, h]
  dsimp only
  rw [hu]
  dsimp only
  rw [if_pos ⟨hn, hdone⟩]

/-- A message of a session's own waits to be acknowledged. -/
theorem sendStream_session {e : Session} (he : Tbl.find? c.serving.sessions n = some e) (tenant request : Nat) (b : TnpBody) :
    ∃ m rs pn out, m.request = request ∧ m.body = b ∧ (sendStream n tenant request b).run c =
      ((), { c.withSession n { e with stream := e.stream.sending m } with regs := rs, txPn := pn, sent := out }) := by
  have hstream : c.stream n = some (e.peer, e.stream) := by rw [Chip.stream_session hn, he]; rfl
  let m : Tnp := ⟨n, tenant, e.stream.txNext, (e.stream.rxNext + 2 ^ 32 - 1) % 2 ^ 32, request, b⟩
  obtain ⟨rs, pn, out, hsend⟩ := sendTnp_run e.peer m (c.withSession n { e with stream := e.stream.sending m })
  refine ⟨m, rs, pn, out, rfl, rfl, .trans ?_ hsend⟩
  rw [sendStream, CM.get_bind, hstream]
  exact congrArg (fun d => (sendTnp e.peer m).run d.2) (setStream_session hn he (e.stream.sending m))

end

/-! ## Closing (R288) -/

/-- The part with a session closed: no session, its order placed, and its requests to end at the next close. -/
def Chip.sessionClosed (c : Chip) (n : Nat) (p : Peer) : Chip :=
  { c with serving := { c.serving with
    sessions := Tbl.erase n c.serving.sessions
    orders := c.serving.orders ++ [sessionOrder n p false]
    requests := Tbl.mapVals (fun _ r => if r.session = n then { r with ends := r.ends ++ [3] } else r) c.serving.requests } }

/-- The part `d` is `c` with a session closed, and the other sessions kept. -/
def Chip.Closes (c : Chip) (n : Nat) (p : Peer) (d : Chip) : Prop :=
  Tbl.find? d.serving.sessions n = none ∧
  (∀ m, m ≠ n → Tbl.find? d.serving.sessions m = Tbl.find? c.serving.sessions m) ∧
  d.serving.orders = c.serving.orders ++ [sessionOrder n p false] ∧
  d.serving.requests = Tbl.mapVals (fun _ r => if r.session = n then { r with ends := r.ends ++ [3] } else r) c.serving.requests

/-- What the closing session became before it closed is of no account. -/
theorem Chip.sessionClosed_closes {c : Chip} {n : Nat} {sessions : Map Session}
    (h : ∀ m, m ≠ n → Tbl.find? sessions m = Tbl.find? c.serving.sessions m) (p : Peer) :
    c.Closes n p ((c.withSessions sessions).sessionClosed n p) :=
  ⟨Tbl.find?_erase_same .., fun m hm => (Tbl.find?_erase_other hm _).trans (h m hm), rfl, rfl⟩

section
variable {c : Chip} {n : Nat}

theorem closeSession_run {e : Session} (he : Tbl.find? c.serving.sessions n = some e) :
    (closeSession n).run c = ((), c.sessionClosed n e.peer) := by
  rw [closeSession, CM.get_bind, he]
  rfl

theorem closeSession_closes {p : Peer} {x : Stream} (hn : n ≠ ctrlSession) (h : c.stream n = some (p, x)) :
    ∃ d, (closeSession n).run c = ((), d) ∧ c.Closes n p d := by
  obtain ⟨gateway, he⟩ := Chip.session_of_stream hn h
  exact ⟨_, closeSession_run he, Chip.sessionClosed_closes (sessions := c.serving.sessions) (fun _ _ => rfl) p⟩

end

/-- What it says that a message of a gateway's session is in turn. -/
theorem Chip.inTurn_facts {c : Chip} {i : TnpIn} {typ : Nat} (hn : i.session ≠ ctrlSession) (h : c.inTurn i typ = true) :
    c.hears i typ = true ∧ ∃ gateway x, Tbl.find? c.serving.sessions i.session = some ⟨i.src, gateway, x⟩ ∧ i.seq = x.rxNext ∧
      x.held = [] := by
  rw [Chip.inTurn, Bool.and_eq_true] at h
  obtain ⟨hhears, hstream⟩ := h
  refine ⟨hhears, ?_⟩
  split at hstream
  · exact absurd hstream Bool.false_ne_true
  · next p x hx =>
    simp only [Bool.and_eq_true, decide_eq_true_eq, List.isEmpty_iff] at hstream
    obtain ⟨⟨rfl, hseq⟩, hheld⟩ := hstream
    obtain ⟨gateway, he⟩ := Chip.session_of_stream hn hx
    exact ⟨gateway, x, he, hseq, hheld⟩

section
variable {c : Chip} {i : TnpIn}

/-- A message in turn on a gateway's stream is acted on, and the messages held behind it. -/
theorem takeStream_session {e : Session} (hn : i.session ≠ ctrlSession) (he : Tbl.find? c.serving.sessions i.session = some e)
    (hseq : i.seq = e.stream.rxNext) (b : TnpBody) : (takeStream i.session i b).run c =
      (do dispatch i b; drainHeld i.session 65 : CM Unit).run (c.withSession i.session { e with stream := e.stream.turned i }) := by
  have hstream : c.stream i.session = some (e.peer, e.stream) := by rw [Chip.stream_session hn, he]; rfl
  have hahead : (e.stream.rxNext + 2 ^ 32 - e.stream.rxNext) % 2 ^ 32 = 0 := by omega
  rw [takeStream, CM.get_bind, hstream]
  dsimp only [Stream.acked]
  rw [hseq]
  refine (congrArg (fun m : CM Unit => m.run c) (if_pos hahead)).trans ?_
  exact congrArg (fun d => (do dispatch i b; drainHeld i.session 65 : CM Unit).run d.2) (setStream_session hn he (e.stream.turned i))

theorem drainHeld_noStream {n : Nat} (h : c.stream n = none) (k : Nat) : (drainHeld n k).run c = ((), c) := by
  cases k with
  | zero => rfl
  | succ k => rw [drainHeld, CM.get_bind, h, CM.run_pure]

/-- CLOSE in turn closes its session. -/
theorem receive_close (hn : i.session ≠ ctrlSession) (h : c.inTurn i 2 = true) :
    ∃ d, (receive i .close).run c = ((), d) ∧ c.Closes i.session i.src d := by
  obtain ⟨hhears, gateway, x, he, hseq, -⟩ := Chip.inTurn_facts hn h
  obtain ⟨hup, hkey, htag⟩ := Chip.hears_facts hhears
  have hfrom : c.fromSession i = true := Chip.fromSession_iff.2 ⟨_, he, rfl⟩
  have hcloses := Chip.sessionClosed_closes (c := c) (n := i.session)
    (fun m hm => Tbl.find?_insert_other hm (⟨i.src, gateway, x.turned i⟩ : Session) c.serving.sessions) i.src
  refine ⟨_, ?_, hcloses⟩
  have htake : (receive i .close).run c = (takeStream i.session i .close).run c := by
    rw [receive, CM.get_bind, TnpBody.typ, hup, hkey, htag, hfrom]
    rfl
  have hclosed : ((c.withSession i.session ⟨i.src, gateway, x.turned i⟩).sessionClosed i.session i.src).stream i.session = none := by
    rw [Chip.stream_session hn, Chip.sessionClosed, Tbl.find?_erase_same]
    rfl
  rw [htake, takeStream_session hn he hseq, CM.run_seq, dispatch, closeSession_run (Tbl.find?_insert_same ..)]
  exact drainHeld_noStream hclosed 65

/-! ## Opening (R284, R287) -/

theorem receive_open (h : c.hears i 1 = true) {g : Nat} (hseq : i.seq = 0) (hnew : c.openRepeats i g = none) :
    (receive i (.open_ g)).run c = (doOpen i g).run c := by
  obtain ⟨hup, hkey, htag⟩ := Chip.hears_facts h
  have htake : (takeOpen i g).run c = (doOpen i g).run c := by
    rw [takeOpen, CM.get_bind, if_neg (not_not_intro hseq), hnew]
  rw [← htake, receive, CM.get_bind, TnpBody.typ, hup, hkey, htag]
  rfl

theorem doOpen_refused (h : c.admits = false) (g : Nat) :
    (doOpen i g).run c = (sendTnp i.src ⟨ctrlSession, 0, 0, i.seq, 0, .status 1 0x10 none⟩).run c := by
  rw [doOpen, CM.get_bind, h]
  rfl

/-- A session as OPEN makes it: the next message of its stream is the one after OPEN. -/
def openedSession (i : TnpIn) (g : Nat) : Session := ⟨i.src, g, { noStream with rxNext := (i.seq + 1) % 2 ^ 32, ackDue := true }⟩

/-- The part with a session opened: the session, and its order. -/
def Chip.sessionOpened (c : Chip) (i : TnpIn) (g n : Nat) : Chip :=
  { c with serving := { c.serving with
    sessions := Tbl.insert n (openedSession i g) c.serving.sessions
    orders := c.serving.orders ++ [sessionOrder n i.src true] } }

theorem doOpen_opens (h : c.admits = true) {n : Nat}
    (hfree : (upFrom 0 4096).find? (fun k => (Tbl.find? c.serving.sessions k).isNone) = some n) (g : Nat) :
    ∃ addr, (doOpen i g).run c = (sendStream n 0 0 (.opened n c.tailNode addr)).run (c.sessionOpened i g n) := by
  refine ⟨leBytes 16 (if i.src.front = 0 then c.serving.serve.tailAddr0 else c.serving.serve.tailAddr1), ?_⟩
  rw [doOpen, CM.get_bind, h]
  dsimp only
  rw [Bool.not_true, if_neg Bool.false_ne_true, hfree]
  rfl

/-- OPEN gives its source a session whose stream begins with OPENED. -/
theorem doOpen_session (h : c.admits = true) {n : Nat} (hn : n ≠ ctrlSession)
    (hfree : (upFrom 0 4096).find? (fun k => (Tbl.find? c.serving.sessions k).isNone) = some n) (hseq : i.seq = 0) (g : Nat) :
    ∃ d, (doOpen i g).run c = ((), d) ∧ (∃ x, Tbl.find? d.serving.sessions n = some ⟨i.src, g, x⟩ ∧ x.rxNext = 1) ∧
      d.serving.orders = c.serving.orders ++ [sessionOrder n i.src true] ∧ ∃ a, d.said n 0 (.opened n c.tailNode a) := by
  obtain ⟨addr, hopen⟩ := doOpen_opens (i := i) h hfree g
  obtain ⟨m, rs, pn, out, hrequest, hbody, hsend⟩ := sendStream_session (c := c.sessionOpened i g n) (e := openedSession i g) hn
    (Tbl.find?_insert_same ..) 0 0 (.opened n c.tailNode addr)
  have hfound : Tbl.find? ((c.sessionOpened i g n).withSession n
      { openedSession i g with stream := (openedSession i g).stream.sending m }).serving.sessions n =
        some ⟨i.src, g, (openedSession i g).stream.sending m⟩ := Tbl.find?_insert_same ..
  have hnext : ((openedSession i g).stream.sending m).rxNext = 1 :=
    congrArg (fun q => (q + 1) % 2 ^ 32) hseq
  exact ⟨_, hopen.trans hsend, ⟨_, hfound, hnext⟩, rfl, addr, i.src, _, m, Chip.withSession_stream hn _ _,
    Stream.sending_getLast .., hrequest, hbody⟩

end

/-! ## The statement's clauses, each by what its command does -/

section
variable {s : State} {n : Nat} {p : Peer} {x : Stream} (hr : s.chip.runs = true) (hn : n ≠ ctrlSession)
include hr

/-- A command whose effect closes a session completes with it closed. -/
theorem take_closes {m : CM Unit} {d : Chip} (hd : m.run { s.chip with sent := [] } = ((), d))
    (h : Chip.Closes { s.chip with sent := [] } n p d) : ∃ e, take .normal m s = .next { s with chip := e } ∧ s.chip.Closes n p e :=
  take_effect hr (congrArg Prod.snd hd) fun _ _ => h

theorem streamAck_idle (h : s.chip.stream n = some (p, x)) (hdue : x.ackDue = false) : Becomes (.streamAck n) s s.chip :=
  take_makes hr (doStreamAck_idle (c := { s.chip with sent := [] }) h hdue)

theorem closeSession_completes {i : TnpIn} (hi : i.session ≠ ctrlSession) (h : s.chip.inTurn i 2 = true) :
    Completes (.closeSession i) s (s.chip.Closes i.session i.src) := by
  obtain ⟨d, hd, hcloses⟩ := receive_close (c := { s.chip with sent := [] }) hi h
  exact take_closes hr hd hcloses

include hn

theorem streamAck_completes (h : s.chip.stream n = some (p, x)) (hdue : x.ackDue = true) (hplain : s.chip.plainPort p.front = true) :
    Completes (.streamAck n) s fun d => d.stream n = some (p, { x with ackDue := false }) ∧
      Out.tnp p ⟨n, 0, x.txNext, (x.rxNext + 2 ^ 32 - 1) % 2 ^ 32, 0, .streamAck⟩ ∈ d.sent := by
  obtain ⟨d, hd, hstream, hsent⟩ := doStreamAck_due (c := { s.chip with sent := [] }) hn h hdue hplain
  exact take_effect hr (congrArg Prod.snd hd) fun _ _ => ⟨hstream, List.mem_append_left _ hsent⟩

theorem streamRetransmit_again (h : s.chip.stream n = some (p, x)) {q : Nat} {u : Tnp × Nat}
    (hu : (x.unacked.find? fun v => decide (v.1.seq = q)) = some u) (hleft : u.2 < s.chip.rd R.SERVE_CFG_RETRIES)
    (hplain : s.chip.plainPort p.front = true) : Completes (.streamRetransmit n q) s fun d => d.stream n = some (p, x.retried q) ∧
      Out.tnp p { u.1 with ack := (x.rxNext + 2 ^ 32 - 1) % 2 ^ 32 } ∈ d.sent := by
  obtain ⟨d, hd, hstream, hsent⟩ := doStreamRetransmit_again (c := { s.chip with sent := [] }) hn h hu hleft hplain
  exact take_effect hr (congrArg Prod.snd hd) fun _ _ => ⟨hstream, List.mem_append_left _ hsent⟩

theorem streamRetransmit_closes (h : s.chip.stream n = some (p, x)) {q : Nat} {u : Tnp × Nat}
    (hu : (x.unacked.find? fun v => decide (v.1.seq = q)) = some u) (hdone : s.chip.rd R.SERVE_CFG_RETRIES ≤ u.2) :
    Completes (.streamRetransmit n q) s (s.chip.Closes n p) := by
  obtain ⟨d, hd, hcloses⟩ := closeSession_closes (c := { s.chip with sent := [] }) hn h
  exact take_closes hr ((doStreamRetransmit_closes (c := { s.chip with sent := [] }) hn h hu hdone).trans hd) hcloses

theorem sessionIdleTimeout_completes (h : s.chip.stream n = some (p, x)) :
    Completes (.sessionIdleTimeout n) s (s.chip.Closes n p) := by
  obtain ⟨d, hd, hcloses⟩ := closeSession_closes (c := { s.chip with sent := [] }) hn h
  exact take_closes hr hd hcloses

end

section
variable {s : State} {i : TnpIn} {g : Nat} (hr : s.chip.runs = true) (h : s.chip.hears i 1 = true) (hseq : i.seq = 0)
  (hnew : s.chip.openRepeats i g = none)
include hr h hseq hnew

theorem openSession_completes {n : Nat} (hn : n ≠ ctrlSession) (ha : s.chip.admits = true)
    (hfree : (upFrom 0 4096).find? (fun k => (Tbl.find? s.chip.serving.sessions k).isNone) = some n) :
    Completes (.openSession i g) s fun d => (∃ x, Tbl.find? d.serving.sessions n = some ⟨i.src, g, x⟩ ∧ x.rxNext = 1) ∧
      d.serving.orders = s.chip.serving.orders ++ [sessionOrder n i.src true] ∧ ∃ a, d.said n 0 (.opened n s.chip.tailNode a) := by
  obtain ⟨d, hd, hsession, horders, hsaid⟩ := doOpen_session (c := { s.chip with sent := [] }) ha hn hfree hseq g
  have hrun := (receive_open (c := { s.chip with sent := [] }) h hseq hnew).trans hd
  exact take_effect hr (congrArg Prod.snd hrun) fun _ _ => ⟨hsession, horders, hsaid⟩

theorem openSession_refused (ha : s.chip.admits = false) (hplain : s.chip.plainPort i.src.front = true) :
    Completes (.openSession i g) s fun d => d.serving = s.chip.serving ∧
      Out.tnp i.src ⟨ctrlSession, 0, 0, 0, 0, .status 1 0x10 none⟩ ∈ d.sent := by
  have hrun := ((receive_open (c := { s.chip with sent := [] }) h hseq hnew).trans
    (doOpen_refused (c := { s.chip with sent := [] }) (i := i) ha g)).trans (sendTnp_plain (c := { s.chip with sent := [] }) hplain _)
  rw [hseq] at hrun
  exact take_effect hr (congrArg Prod.snd hrun) fun _ _ =>
    ⟨rfl, List.mem_append_left _ (List.mem_append_right _ (List.mem_singleton.2 rfl))⟩

end

/-- Settles O42, each clause by what its command does. -/
theorem sessionsOpenCarryAndClose : Obligations.SessionsOpenCarryAndClose := by
  unfold Obligations.SessionsOpenCarryAndClose
  intro s n hr hlt
  have hn : n ≠ ctrlSession := ne_ctrlSession hlt
  refine ⟨fun p x h => ⟨?ack, streamAck_idle hr h, ?again, sessionIdleTimeout_completes hr hn h, ?close⟩, ?opens⟩
  case ack => exact fun hdue hplain => streamAck_completes hr hn h hdue hplain
  case again =>
    exact fun q u hu => ⟨fun hleft hplain => streamRetransmit_again hr hn h hu hleft hplain,
      fun hdone => streamRetransmit_closes hr hn h hu hdone⟩
  case close =>
    rintro i rfl hturn
    obtain ⟨-, gateway, y, he, -⟩ := Chip.inTurn_facts hn hturn
    obtain ⟨gateway', he'⟩ := Chip.session_of_stream hn h
    obtain rfl : i.src = p := congrArg Session.peer (Option.some.inj (he.symm.trans he'))
    exact closeSession_completes hr hn hturn
  case opens =>
    exact fun i g hhears hseq hnew => ⟨fun ha hfree => openSession_completes hr hhears hseq hnew hn ha hfree,
      fun ha hplain => openSession_refused hr hhears hseq hnew ha hplain⟩

end Sys2Proof.Machine
end

section
/-! Settles the statement on front ports: what a frame, a segment, an ICMPv6 message and a link event do at a port, and from it each
clause. -/
namespace Sys2Proof.Machine

/-! ## Segments (R281, R282, R285) -/

/-- A segment of a good form: its TNP fields are right, it is not too long, and its class has a key. -/
structure Segment.Formed (g : Segment) : Prop where
  form : g.formOk = true
  length : g.bytes ≤ 8192
  key : (tagKey g.typ g.tenant).isSome = true

section
variable {c : Chip} {g : Segment}

theorem takeSegment_malformed (h : g.formOk = false ∨ 8192 < g.bytes) :
    (takeSegment g).run c = ((), c.bump R.SERVE_MALFORMED_COUNT 0 1) := by
  have hbad : (!g.formOk || decide (8192 < g.bytes) || (tagKey g.typ g.tenant).isNone) = true := by
    rcases h with h | h <;> simp [h]
  rw [takeSegment, CM.get_bind, hbad]
  rfl

/-- A segment of a good form goes on to the check of its tag. -/
theorem takeSegment_formed (hg : g.Formed) : (takeSegment g).run c = (if !c.tagPasses g.typ g.tenant g.tagOk then authFail
    else whenM (!(g.last && decide (g.index = 0))) (takePart g)).run c := by
  have hgood : (!g.formOk || decide (8192 < g.bytes) || (tagKey g.typ g.tenant).isNone) = false := by
    rw [hg.form, decide_eq_false (Nat.not_lt.2 hg.length), Option.isNone_eq_false_iff.2 hg.key]
    rfl
  rw [takeSegment, CM.get_bind, hgood]
  rfl

theorem takeSegment_authFail (hg : g.Formed) (h : g.tagOk = false) :
    (takeSegment g).run c = ((), c.bump R.SERVE_AUTH_FAIL_COUNT 0 1) := by
  have htag : c.tagPasses g.typ g.tenant g.tagOk = false := by rw [Chip.tagPasses, h, Bool.false_and]
  rw [takeSegment_formed hg, htag]
  rfl

/-- A message of one segment waits for no other. -/
theorem takeSegment_whole (hg : g.Formed) (h : c.tagPasses g.typ g.tenant g.tagOk = true) (hlast : g.last = true)
    (hfirst : g.index = 0) : (takeSegment g).run c = ((), c) := by
  rw [takeSegment_formed hg, h, hlast, decide_eq_true hfirst]
  rfl

end

/-! ## Frames (R278 to R280) -/

/-- What follows the check of a frame's MACsec (R279). -/
def afterSec (f : Nat) (p : FramePayload) (k : SecCheck) : CM Unit :=
  match k with
  | .untagged => pure ()
  | .failed => bumpM R.FRONT_ERRS_MACSEC (frontOff f)
  | .taken none => takePayload f p
  | .taken (some (slot, next)) => do
    modify fun c => { c with rxPn := Tbl.insert slot next c.rxPn }
    takePayload f p

theorem Chip.secCheck_plain {c : Chip} {f : Nat} (h : c.flag R.FRONT_CFG_MACSEC_REQ (frontOff f) = false) :
    c.secCheck f none = .taken none := by
  rw [Chip.secCheck, h]
  rfl

theorem Chip.secCheck_untagged {c : Chip} {f : Nat} (h : c.flag R.FRONT_CFG_MACSEC_REQ (frontOff f) = true) :
    c.secCheck f none = .untagged := by
  rw [Chip.secCheck, h]
  rfl

theorem Chip.secCheck_invalid {t : SecTag} (h : t.valid = false) (c : Chip) (f : Nat) : c.secCheck f (some t) = .failed := by
  rw [Chip.secCheck]
  cases t.channel <;> simp [h]

/-- A frame's VLAN tag is the port's, or it has none (R278). -/
def Chip.vlanTaken (c : Chip) (x : EthFrame) : Bool :=
  match x.vlan with
  | none => true
  | some v => decide (v = c.rd R.FRONT_CFG_VLAN (frontOff x.front)) && decide (v ≠ 0)

/-- A whole frame of the right length, without a VLAN tag, at a port whose link is up. -/
structure Chip.TakesFrame (c : Chip) (x : EthFrame) : Prop where
  front : x.front < 2
  up : c.flag R.FRONT_STATUS_LINK_UP (frontOff x.front) = true
  intact : x.intact = true
  payload : x.payload ≠ .pause
  least : 64 ≤ x.bytes
  most : x.bytes ≤ 9216
  vlan : x.vlan = none

section
variable {c : Chip} {x : EthFrame} (hf : x.front < 2) (hup : c.flag R.FRONT_STATUS_LINK_UP (frontOff x.front) = true)
include hf hup

/-- The checks of a frame at a port whose link is up, in their order. -/
theorem doEthernetFrame_up : (doEthernetFrame x).run c = (if !x.intact then bumpM R.FRONT_ERRS_FCS (frontOff x.front)
    else if x.payload = .pause then bumpM R.FRONT_DROPS_PAUSE (frontOff x.front)
    else if x.bytes < 64 ∨ 9216 < x.bytes ∨ !c.vlanTaken x then drop_ x.front
    else afterSec x.front x.payload (c.secCheck x.front x.sec)).run c := by
  rw [doEthernetFrame, CM.get_bind, Nat.mod_eq_of_lt hf]
  dsimp only
  rw [hup]
  rfl

theorem doEthernetFrame_damaged (h : x.intact = false) :
    (doEthernetFrame x).run c = ((), c.bump R.FRONT_ERRS_FCS (frontOff x.front) 1) := by
  rw [doEthernetFrame_up hf hup, h]
  rfl

variable (hintact : x.intact = true)
include hintact

theorem doEthernetFrame_pause (h : x.payload = .pause) :
    (doEthernetFrame x).run c = ((), c.bump R.FRONT_DROPS_PAUSE (frontOff x.front) 1) := by
  rw [doEthernetFrame_up hf hup, hintact, h]
  rfl

theorem doEthernetFrame_length (hpayload : x.payload ≠ .pause) (h : x.bytes < 64 ∨ 9216 < x.bytes) :
    (doEthernetFrame x).run c = ((), c.bump R.FRONT_DROPS_OTHER (frontOff x.front) 1) := by
  rw [doEthernetFrame_up hf hup, hintact, Bool.not_true, if_neg Bool.false_ne_true, if_neg hpayload, if_pos (h.imp_right .inl)]
  rfl

end

/-- Such a frame goes on to its MACsec. -/
theorem doEthernetFrame_checked {c : Chip} {x : EthFrame} (hx : c.TakesFrame x) :
    (doEthernetFrame x).run c = (afterSec x.front x.payload (c.secCheck x.front x.sec)).run c := by
  obtain ⟨hf, hup, hintact, hpayload, hlo, hhi, hvlan⟩ := hx
  have hpasses : ¬(x.bytes < 64 ∨ 9216 < x.bytes ∨ (!c.vlanTaken x) = true) := by
    rw [Chip.vlanTaken, hvlan]
    simp only [Bool.not_true, Bool.false_eq_true, or_false]
    omega
  rw [doEthernetFrame_up hf hup, hintact, Bool.not_true, if_neg Bool.false_ne_true, if_neg hpayload, if_neg hpasses]

section
variable {c : Chip} (f : Nat)

theorem takePayload_other {p : FramePayload} (h : p = .otherType ∨ p = .otherIp) :
    (takePayload f p).run c = ((), c.bump R.FRONT_DROPS_OTHER (frontOff f) 1) := by
  rcases h with rfl | rfl <;> rfl

theorem takePayload_badUdp (g : Segment) : (takePayload f (.udp false g)).run c =
    ((), (c.bump R.FRONT_MALFORMED_IP_COUNT 0 1).bump R.FRONT_DROPS_OTHER (frontOff f) 1) := rfl

theorem takePayload_udp (g : Segment) : (takePayload f (.udp true g)).run c =
    (takeSegment { g with src := { g.src with front := f } }).run (c.bump R.FRONT_FRAMES_RX (frontOff f) 1) := rfl

end

/-! ## ICMPv6 messages (R280) -/

section
variable {c : Chip} {f : Nat} (hup : c.flag R.FRONT_STATUS_LINK_UP (frontOff f) = true)
include hup

theorem answerIcmp_other {target : Nat} (h : target ≠ c.frontAddr f) (o : Out) :
    (answerIcmp f target o).run c = ((), c.bump R.FRONT_DROPS_OTHER (frontOff f) 1) := by
  rw [answerIcmp, CM.get_bind, hup, Bool.not_true, if_neg Bool.false_ne_true, if_neg h]
  rfl

theorem answerIcmp_own {target : Nat} (h : target = c.frontAddr f) (hplain : c.plainPort f = true) (o : Out) :
    (answerIcmp f target o).run c = ((), (c.sending o).bump R.FRONT_FRAMES_TX (frontOff f) 1) := by
  rw [answerIcmp, CM.get_bind, hup, Bool.not_true, if_neg Bool.false_ne_true, if_pos h]
  exact sendFrame_plain hplain o

end

/-- A part that has answered differs by the frame's count, ALERT_N and what was sent apart. -/
theorem Chip.answered_quiet {c d : Chip} {f : Nat} {o : Out}
    (h : d = (Chip.sending { c with sent := [] } o).bump R.FRONT_FRAMES_TX (frontOff f) 1) (low : Bool) (out : List Out) :
    Chip.quiet { d with mgmt := { d.mgmt with alertLow := low }, sent := out } = (c.bump R.FRONT_FRAMES_TX (frontOff f) 1).quiet := by
  rw [h]
  rfl

/-! ## Links and partial messages (R283, R316) -/

theorem frontComesUp_run {c : Chip} (h : c.stageDone 10 = true) (f : Nat) :
    (frontComesUp f).run c = ((), c.wr R.FRONT_STATUS_LINK_UP (frontOff f) 1) := by
  rw [frontComesUp, CM.get_bind, h]
  rfl

theorem doReassemblyTimeout_run {c : Chip} {k : Nat} {p : PartMsg} (h : c.serving.parts[k]? = some p) :
    (doReassemblyTimeout k).run c = ((), ({ c with serving := { c.serving with parts := c.serving.parts.eraseIdx k } } : Chip).bump
      R.SERVE_MALFORMED_COUNT 0 1) := by
  rw [doReassemblyTimeout, CM.get_bind, h]
  rfl

/-! ## The statement's clauses, each by what its command does -/

section
variable {s : State} (hr : s.chip.runs = true)
include hr

section
variable {x : EthFrame} (hx : s.chip.TakesFrame x)
include hx

/-- A frame becomes what follows the check of its MACsec. -/
theorem ethernetFrame_checked {k : SecCheck} {e : Chip} (hk : s.chip.secCheck x.front x.sec = k)
    (h : (afterSec x.front x.payload k).run { s.chip with sent := [] } = ((), { e with sent := [] })) :
    Becomes (.ethernetFrame x) s e := by
  have hx' : Chip.TakesFrame { s.chip with sent := [] } x := ⟨hx.front, hx.up, hx.intact, hx.payload, hx.least, hx.most, hx.vlan⟩
  rw [← hk] at h
  exact take_makes hr ((doEthernetFrame_checked hx').trans h)

theorem ethernetFrame_secFails {t : SecTag} (ht : x.sec = some t) (h : t.valid = false) :
    Becomes (.ethernetFrame x) s (s.chip.bump R.FRONT_ERRS_MACSEC (frontOff x.front) 1) :=
  ethernetFrame_checked hr hx (k := .failed) (by rw [ht, Chip.secCheck_invalid h]) rfl

variable (hsec : x.sec = none)
include hsec

theorem ethernetFrame_untagged (h : s.chip.flag R.FRONT_CFG_MACSEC_REQ (frontOff x.front) = true) :
    Becomes (.ethernetFrame x) s s.chip :=
  ethernetFrame_checked hr hx (k := .untagged) (by rw [hsec, Chip.secCheck_untagged h]) rfl

variable (hplain : s.chip.flag R.FRONT_CFG_MACSEC_REQ (frontOff x.front) = false)
include hplain

/-- An unprotected frame becomes what its payload makes, where none need be protected. -/
theorem ethernetFrame_payload {e : Chip}
    (h : (takePayload x.front x.payload).run { s.chip with sent := [] } = ((), { e with sent := [] })) :
    Becomes (.ethernetFrame x) s e :=
  ethernetFrame_checked hr hx (k := .taken none) (by rw [hsec, Chip.secCheck_plain hplain]) h

theorem ethernetFrame_other (h : x.payload = .otherType ∨ x.payload = .otherIp) :
    Becomes (.ethernetFrame x) s (s.chip.bump R.FRONT_DROPS_OTHER (frontOff x.front) 1) :=
  ethernetFrame_payload hr hx hsec hplain (takePayload_other (c := { s.chip with sent := [] }) _ h)

variable {g : Segment}

theorem ethernetFrame_badUdp (h : x.payload = .udp false g) : Becomes (.ethernetFrame x) s
    ((s.chip.bump R.FRONT_MALFORMED_IP_COUNT 0 1).bump R.FRONT_DROPS_OTHER (frontOff x.front) 1) :=
  ethernetFrame_payload hr hx hsec hplain (by rw [h]; exact takePayload_badUdp (c := { s.chip with sent := [] }) x.front g)

variable (hudp : x.payload = .udp true g)
include hudp

/-- A frame with a segment is received, and becomes what the segment makes. -/
theorem ethernetFrame_segment {e : Chip} (h : (takeSegment { g with src := { g.src with front := x.front } }).run
    (Chip.bump { s.chip with sent := [] } R.FRONT_FRAMES_RX (frontOff x.front) 1) = ((), { e with sent := [] })) :
    Becomes (.ethernetFrame x) s e :=
  ethernetFrame_payload hr hx hsec hplain (by rw [hudp]; exact (takePayload_udp x.front g).trans h)

theorem ethernetFrame_malformed (h : g.formOk = false ∨ 8192 < g.bytes) : Becomes (.ethernetFrame x) s
    ((s.chip.bump R.FRONT_FRAMES_RX (frontOff x.front) 1).bump R.SERVE_MALFORMED_COUNT 0 1) :=
  ethernetFrame_segment hr hx hsec hplain hudp (takeSegment_malformed h)

theorem ethernetFrame_authFail (hg : g.Formed) (h : g.tagOk = false) : Becomes (.ethernetFrame x) s
    ((s.chip.bump R.FRONT_FRAMES_RX (frontOff x.front) 1).bump R.SERVE_AUTH_FAIL_COUNT 0 1) :=
  ethernetFrame_segment hr hx hsec hplain hudp (takeSegment_authFail ⟨hg.form, hg.length, hg.key⟩ h)

theorem ethernetFrame_received (hg : g.Formed) (h : s.chip.tagPasses g.typ g.tenant g.tagOk = true) (hlast : g.last = true)
    (hfirst : g.index = 0) : Becomes (.ethernetFrame x) s (s.chip.bump R.FRONT_FRAMES_RX (frontOff x.front) 1) :=
  ethernetFrame_segment hr hx hsec hplain hudp (takeSegment_whole ⟨hg.form, hg.length, hg.key⟩ h hlast hfirst)

end

omit hr in
theorem neighborSolicitation_exec {f : Nat} (hf : f < 2) (target : Nat) :
    exec (.neighborSolicitation f target) s = take .normal (answerIcmp f target (.neighbor f target)) s := by
  show take .normal (answerIcmp (f % 2) target (.neighbor (f % 2) target)) s = _
  rw [Nat.mod_eq_of_lt hf]

omit hr in
theorem echoRequest_exec {f : Nat} (hf : f < 2) (source target ident seq : Nat) (data : List Nat) :
    exec (.echoRequest f source target ident seq data) s = take .normal (answerIcmp f target (.echo f source ident seq data)) s := by
  show take .normal (answerIcmp (f % 2) target (.echo (f % 2) source ident seq data)) s = _
  rw [Nat.mod_eq_of_lt hf]

section
variable {f target : Nat} (hup : s.chip.flag R.FRONT_STATUS_LINK_UP (frontOff f) = true)
include hup

/-- An ICMPv6 message to another address is dropped. -/
theorem icmp_dropped (h : target ≠ s.chip.frontAddr f) (o : Out) : ∃ d, take .normal (answerIcmp f target o) s =
    .next { s with chip := d } ∧ d.quiet = (s.chip.bump R.FRONT_DROPS_OTHER (frontOff f) 1).quiet :=
  take_makes hr (answerIcmp_other (c := { s.chip with sent := [] }) hup h o)

/-- An ICMPv6 message to the port's own address is answered. -/
theorem icmp_answered (h : target = s.chip.frontAddr f) (hplain : s.chip.plainPort f = true) (o : Out) :
    ∃ d, take .normal (answerIcmp f target o) s = .next { s with chip := d } ∧
      d.quiet = (s.chip.bump R.FRONT_FRAMES_TX (frontOff f) 1).quiet ∧ o ∈ d.sent :=
  take_effect hr (congrArg Prod.snd (answerIcmp_own (c := { s.chip with sent := [] }) hup h hplain o)) fun _ _ =>
    ⟨Chip.answered_quiet rfl _ _, List.mem_append_left _ (List.mem_append_right _ (List.mem_singleton.2 rfl))⟩

end

end

/-- Settles O41, each clause by what its command does. -/
theorem frontPortsTakeFrames : Obligations.FrontPortsTakeFrames := by
  unfold Obligations.FrontPortsTakeFrames
  intro s f hr hf
  refine ⟨?frames, ?icmp, fun h => ?linkUp, take_makes hr rfl, fun k p h => ?parts⟩
  case frames =>
    rintro hup x rfl
    refine ⟨fun h => ?damaged, fun hintact h => ?pause, fun hintact hpayload h => ?length,
      fun hintact hpayload hlo hhi hvlan => ?taken⟩
    case damaged => exact take_makes hr (doEthernetFrame_damaged (c := { s.chip with sent := [] }) hf hup h)
    case pause => exact take_makes hr (doEthernetFrame_pause (c := { s.chip with sent := [] }) hf hup hintact h)
    case length => exact take_makes hr (doEthernetFrame_length (c := { s.chip with sent := [] }) hf hup hintact hpayload h)
    case taken =>
      have hx : s.chip.TakesFrame x := ⟨hf, hup, hintact, hpayload, hlo, hhi, hvlan⟩
      exact ⟨fun t => ethernetFrame_secFails hr hx, ethernetFrame_untagged hr hx, fun hsec hplain =>
        ⟨ethernetFrame_other hr hx hsec hplain, fun g => ethernetFrame_badUdp hr hx hsec hplain,
          fun g => ethernetFrame_malformed hr hx hsec hplain, fun g hudp hform hlen hkey =>
            ⟨ethernetFrame_authFail hr hx hsec hplain hudp ⟨hform, hlen, hkey⟩,
             ethernetFrame_received hr hx hsec hplain hudp ⟨hform, hlen, hkey⟩⟩⟩⟩
  case icmp =>
    intro hup source target ident seq data
    rw [Becomes, Completes, Becomes, Completes, Completes, Completes, neighborSolicitation_exec hf, echoRequest_exec hf]
    exact ⟨fun h => ⟨icmp_dropped hr hup h _, icmp_dropped hr hup h _⟩,
      fun h hplain => ⟨icmp_answered hr hup h hplain _, icmp_answered hr hup h hplain _⟩⟩
  case linkUp => exact take_makes hr (frontComesUp_run (c := { s.chip with sent := [] }) h f)
  case parts => exact take_makes hr (doReassemblyTimeout_run (c := { s.chip with sent := [] }) h)

end Sys2Proof.Machine
end

section
/-! SUPPORT. The reactions to a command while no step runs, control messages to other packages, and what a fault of the package itself
leaves alone. -/
namespace Sys2Proof.Machine

/-! ## The reactions while no step runs (R407) -/

theorem headReacts_idle {c : Chip} (h : c.stepRuns = false) : headReacts.run c = ((), c) := by
  rw [headReacts, CM.get_bind, h]
  dsimp only
  rw [Bool.not_false, Bool.or_true, Bool.true_or, Bool.true_or, Bool.true_or, Bool.true_or, if_pos rfl, CM.run_pure]

theorem drainStations_idle {c : Chip} (hs : c.stationOut = []) (ha : c.ackOut = []) : drainStations.run c = ((), c) := by
  rw [drainStations, CM.get_bind, hs, ha, forM_nil, forM_nil, CM.run_seq, CM.run_modify, CM.run_seq, CM.run_pure, CM.run_pure,
    ← hs, ← ha]

theorem loadReports_idle {c : Chip} (h : ∀ r ∈ c.reports, 8 < r.event) : loadReports.run c = ((), c) := by
  have hnone : (c.reports.any fun r => decide (r.event ≤ 8)) = false := by
    rw [List.any_eq_false]
    exact fun r hr => by simpa using h r hr
  rw [loadReports, CM.get_bind, hnone, whenM_false, CM.run_pure]

/-- What waits at the part keeps the reactions idle while no step runs: no packet, and no report of a load event. -/
structure Chip.Rests (c : Chip) : Prop where
  reports : ∀ r ∈ c.reports, 8 < r.event
  stations : c.stationOut = []
  acks : c.ackOut = []

theorem Chip.Rests.of_calm {c : Chip} (h : c.calm = true) : c.Rests := by
  obtain ⟨-, hs, ha⟩ := Chip.calm_queues h
  simp only [Chip.calm, Bool.and_eq_true, List.all_eq_true, decide_eq_true_eq] at h
  obtain ⟨⟨⟨-, hreports⟩, -⟩, -⟩ := h
  exact ⟨hreports, hs, ha⟩

/-- A command that leaves notices while no step runs completes with the part that its effect makes: the head takes them up in a
step's run (R407). -/
theorem act_between {m : CM Unit} {s : State} {d : Chip} {post : Chip → Prop} (hr : s.chip.runs = true)
    (hd : (m.run { s.chip with sent := [] }).2 = d) (hidle : d.stepRuns = false) (hrests : d.Rests)
    (hp : ∀ g out, post { d with mgmt := g, sent := out }) : ∃ e, act .normal m s = .next { s with chip := e } ∧ post e :=
  take_completes hr fun was => by
    obtain ⟨out, h⟩ := settleAlert_run was d
    rw [CM.run_seq, hd, CM.run_seq, headReacts_idle hidle, CM.run_seq, drainStations_idle hrests.stations hrests.acks,
      loadReports_idle hrests.reports, h]
    exact hp _ _

/-! ## Control messages to other packages (R228, R239) -/

theorem enqueue_run (f : Flit) (c : Chip) : ∃ ls, (enqueue f).run c = ((), { c with links := ls }) := by
  rw [enqueue, CM.get_bind]
  split <;> exact ⟨_, rfl⟩

theorem sendCtrl_run (dest : Nat) (m : Ctrl) (c : Chip) : ∃ ls, (sendCtrl dest m).run c = ((), { c with links := ls }) := by
  rw [sendCtrl, CM.get_bind]
  exact enqueue_run _ c

/-! ## A fault of the package (R402 to R404) -/

/-- A package that lets its next step pass, whose late results are counted, and at which nothing waits but notices and reports of
faults. -/
structure Chip.Passing (q : Sequencer) (late : Nat) (c : Chip) : Prop extends c.Rests where
  seq : c.seq = q
  late : c.rd R.SAMPLER_RESULT_LATE_COUNT = late

/-- The part `d` has the registers of `c`, its sequencer, and what waits for the reactions but for notices. -/
structure Chip.Restful (c d : Chip) : Prop where
  regs : d.regs = c.regs
  seq : d.seq = c.seq
  reports : d.reports = c.reports
  stations : d.stationOut = c.stationOut
  acks : d.ackOut = c.ackOut

/-- A field that stands above the count of late results is another, wherever its window is. -/
theorem regKey_lateCount_ne {f : Fld} (h : R.SAMPLER_RESULT_LATE_COUNT.place < f.place) (o : Nat) :
    regKey R.SAMPLER_RESULT_LATE_COUNT 0 ≠ regKey f o := by
  simp only [regKey_eq_place]
  omega

section
variable {q : Sequencer} {late : Nat}

theorem Chip.Passing.restful {c d : Chip} (h : c.Passing q late) (hd : c.Restful d) : d.Passing q late :=
  { reports := hd.reports ▸ h.reports, stations := hd.stations.trans h.stations, acks := hd.acks.trans h.acks,
    seq := hd.seq.trans h.seq, late := (Chip.rd_of_find (congrArg (Tbl.find? · _) hd.regs)).trans h.late }

theorem Chip.Passing.modify {f : Chip → Chip} (hf : ∀ c : Chip, c.Restful (f c)) : Keeps (Chip.Passing q late) (modify f : CM Unit) :=
  Keeps.modify fun c h => h.restful (hf c)

theorem Chip.Passing.wr {c : Chip} (hc : c.Passing q late) {f : Fld} (h : R.SAMPLER_RESULT_LATE_COUNT.place < f.place) (o v : Nat) :
    (c.wr f o v).Passing q late :=
  { reports := hc.reports, stations := hc.stations, acks := hc.acks, seq := hc.seq
    late := (Chip.rd_wr_other (regKey_lateCount_ne h o) c v).trans hc.late }

theorem Chip.Passing.wrM {f : Fld} (h : R.SAMPLER_RESULT_LATE_COUNT.place < f.place) (o v : Nat) :
    Keeps (Chip.Passing q late) (wrM f o v) :=
  Keeps.wrM fun _ hc => hc.wr h o v

theorem Chip.Passing.bumpM {f : Fld} (h : R.SAMPLER_RESULT_LATE_COUNT.place < f.place) (o n : Nat) :
    Keeps (Chip.Passing q late) (bumpM f o n) :=
  Keeps.bumpM fun _ v hc => hc.wr h o v

theorem report_passing {r : Report} (h : 8 < r.event) : Keeps (Chip.Passing q late) (report r) :=
  Keeps.modify fun _ hc =>
    { reports := fun r' hr' => (List.mem_append.1 hr').elim (hc.reports r') fun hs => List.mem_singleton.1 hs ▸ h
      stations := hc.stations, acks := hc.acks, seq := hc.seq, late := hc.late }

theorem takeRecordSev_passing (d cls sev : Nat) (overflow : Bool) (detail : List Nat) :
    Keeps (Chip.Passing q late) (takeRecordSev d cls sev overflow detail) :=
  Keeps.bind Keeps.get fun _ => Keeps.ite (Keeps.pure ()) (Keeps.ite (Chip.Passing.bumpM (by decide) _ _)
    (Chip.Passing.modify fun _ => ⟨rfl, rfl, rfl, rfl, rfl⟩))

theorem recordFault_passing (die : Nat) (e : FaultEntry) (queued overflow job : Bool) :
    Keeps (Chip.Passing q late) (recordFault die e queued overflow job) :=
  Keeps.bind Keeps.get fun _ => Keeps.bind (Keeps.whenM (Chip.Passing.bumpM (by decide) _ _)) fun _ =>
    Keeps.bind (Chip.Passing.wrM (by decide) _ _) fun _ => Keeps.bind (Keeps.whenM (Chip.Passing.wrM (by decide) _ _)) fun _ =>
      Keeps.bind (report_passing (by decide : 8 < 0x10)) fun _ => takeRecordSev_passing _ _ _ _ _

/-- A shelving is counted. -/
theorem countShelving_passing (cls n : Nat) : Keeps (Chip.Passing q late) (countShelving cls n) :=
  fun _ h => h.restful ⟨rfl, rfl, rfl, rfl, rfl⟩

/-- A fault of the package itself is counted, and may put the job in HOLD (R405, R406). -/
theorem shelveUnit_passing (die idx cause : Nat) : Keeps (Chip.Passing q late) (shelveUnit 4 die idx cause) :=
  Keeps.bind (Chip.Passing.bumpM (by decide) _ _) fun _ => Keeps.bind (Chip.Passing.modify fun _ => ⟨rfl, rfl, rfl, rfl, rfl⟩) fun _ =>
    Keeps.bind (countShelving_passing 4 0) fun _ => Keeps.whenM (Chip.Passing.modify fun _ => ⟨rfl, rfl, rfl, rfl, rfl⟩)

theorem sendNotice_passing (n : Notice) : Keeps (Chip.Passing q late) (sendNotice n) :=
  Keeps.bind Keeps.get fun _ => Keeps.ite (Chip.Passing.modify fun _ => ⟨rfl, rfl, rfl, rfl, rfl⟩) fun d h => by
    obtain ⟨_, hrun⟩ := sendCtrl_run _ (.notice n) d
    rw [hrun]
    exact h.restful ⟨rfl, rfl, rfl, rfl, rfl⟩

/-- A die controller that takes a fault of the package leaves the sequencer and the count of late results alone. -/
theorem takeFault_passing (die idx replay cause : Nat) : Keeps (Chip.Passing q late) (takeFault die 4 idx replay cause) := by
  refine Keeps.bind Keeps.get fun _ => Keeps.ite (Chip.Passing.bumpM (by decide) _ _) (Keeps.bind (shelveUnit_passing _ _ _) fun _ => ?_)
  refine Keeps.ite (recordFault_passing _ _ _ _ _) (Keeps.bind (Keeps.whenM (Chip.Passing.modify fun _ => ?replay)) fun _ =>
    Keeps.bind (Keeps.whenM (Chip.Passing.modify fun _ => ⟨rfl, rfl, rfl, rfl, rfl⟩)) fun _ => Keeps.ite ?full ?queued)
  case replay => split <;> exact ⟨rfl, rfl, rfl, rfl, rfl⟩
  case full =>
    exact Keeps.bind (Chip.Passing.bumpM (by decide) _ _) fun _ =>
      Keeps.bind (Chip.Passing.modify fun _ => ⟨rfl, rfl, rfl, rfl, rfl⟩) fun _ => recordFault_passing _ _ _ _ _
  case queued =>
    exact Keeps.bind (Chip.Passing.modify fun _ => ⟨rfl, rfl, rfl, rfl, rfl⟩) fun _ =>
      Keeps.bind (recordFault_passing _ _ _ _ _) fun _ => sendNotice_passing _

theorem raisePackage_passing (cause : Nat) : Keeps (Chip.Passing q late) (raisePackage cause) :=
  Keeps.bind Keeps.get fun _ => takeFault_passing _ _ _ _

end

end Sys2Proof.Machine
end

section
/-! Settles the statement on late step events: what a late batch, an overdue truing and a late commit peg make of the part, and from it
each clause. -/
namespace Sys2Proof.Machine

/-! ## A late batch (R300, R334) -/

/-- The part with late results counted, where they are late. -/
def Chip.lateCounted (c : Chip) (step : Nat) : Chip := if c.lacksResults step then c.bump R.SAMPLER_RESULT_LATE_COUNT 0 1 else c

theorem Chip.lateCounted_count (c : Chip) (step : Nat) : (c.lateCounted step).rd R.SAMPLER_RESULT_LATE_COUNT =
    if c.lacksResults step then min (c.rd R.SAMPLER_RESULT_LATE_COUNT + 1) (2 ^ 32 - 1) else c.rd R.SAMPLER_RESULT_LATE_COUNT := by
  unfold Chip.lateCounted
  split
  · exact Chip.rd_bump_stays rfl c 0 1
  · rfl

/-- The count of late results changes registers alone. -/
theorem Chip.lateCounted_sameButRegs (c : Chip) (step : Nat) : c.sameButRegs (c.lateCounted step) := by
  unfold Chip.lateCounted
  split <;> exact ⟨_, rfl⟩

/-- The part once it has counted late results and lets the step pass. -/
def Chip.lateSkipped (c : Chip) (step : Nat) : Chip :=
  { c.lateCounted step with seq := { c.seq with skip := true } }

theorem doBatchLate_run {c : Chip} {step : Nat} (hstep : (c.rd R.SEQ_STEP_STEP + 1) % 2 ^ 32 = step) (hs : c.stepping = true)
    (hn : c.seq.next.isSome = true) (hlacks : (c.lacksBatch step || c.lacksResults step || c.lacksParams step) = true) :
    doBatchLate.run c = (raisePackage 0x41).run (c.lateSkipped step) := by
  rw [doBatchLate, CM.get_bind, hstep]
  dsimp only
  rw [hs, hn, hlacks]
  unfold Chip.lateSkipped Chip.lateCounted
  cases c.lacksResults step <;> rfl

theorem Chip.lateSkipped_passing {c : Chip} (hc : c.calm = true) (step : Nat) :
    (c.lateSkipped step).Passing { c.seq with skip := true } (if c.lacksResults step then
      min (c.rd R.SAMPLER_RESULT_LATE_COUNT + 1) (2 ^ 32 - 1) else c.rd R.SAMPLER_RESULT_LATE_COUNT) := by
  have hrests := Chip.Rests.of_calm hc
  have hcount := c.lateCounted_count step
  rw [Chip.lateSkipped]
  obtain ⟨_, hd⟩ := c.lateCounted_sameButRegs step
  rw [hd] at hcount ⊢
  exact { reports := hrests.reports, stations := hrests.stations, acks := hrests.acks, seq := rfl, late := hcount }

theorem batchLate_completes {s : State} {step : Nat} (hr : s.chip.runs = true) (hc : s.chip.calm = true) (hs : s.chip.stepping = true)
    (hstep : (s.chip.rd R.SEQ_STEP_STEP + 1) % 2 ^ 32 = step) (hn : s.chip.seq.next.isSome = true)
    (hlacks : (s.chip.lacksBatch step || s.chip.lacksResults step || s.chip.lacksParams step) = true) :
    Completes .batchLate s fun t => t.seq.skip = true ∧ t.rd R.SAMPLER_RESULT_LATE_COUNT = (if s.chip.lacksResults step then
      min (s.chip.rd R.SAMPLER_RESULT_LATE_COUNT + 1) (2 ^ 32 - 1) else s.chip.rd R.SAMPLER_RESULT_LATE_COUNT) := by
  have hrun := doBatchLate_run (c := { s.chip with sent := [] }) hstep hs hn hlacks
  have hpasses := raisePackage_passing 0x41 _ (Chip.lateSkipped_passing (c := { s.chip with sent := [] }) hc step)
  refine act_between hr (congrArg Prod.snd hrun) ?idle hpasses.toRests fun _ _ => ⟨congrArg (·.skip) hpasses.seq, hpasses.late⟩
  rw [Chip.stepRuns, hpasses.seq, Option.isNone_eq_false_iff.2 hn, Bool.and_false]

/-! ## An overdue truing (R384) -/

/-- The keys of the fields that name the members of the stand-in set of a board's tile. -/
def standinKeys (b k : Nat) : Prop := ∃ f ∈ standinFlds, k = regKey f (tileOff (tileOfBoard b))

theorem admitStandin_mods (b : Nat) : Mods (standinKeys b) (admitStandin b) := by
  refine Mods.bind Mods.get fun c => Mods.ite (Mods.pure ()) (Mods.ite ?_ (Mods.pure ()))
  split
  · exact Mods.pure ()
  · next m hm =>
    obtain ⟨f, hf, rfl⟩ := List.mem_map.1 (List.mem_of_find?_eq_some hm)
    exact Mods.wrM ⟨f, hf, rfl⟩

theorem admitStandin_sameButRegs {c : Chip} (b : Nat) : Keeps c.sameButRegs (admitStandin b) := by
  refine Keeps.bind Keeps.get fun d => Keeps.ite (Keeps.pure ()) (Keeps.ite ?_ (Keeps.pure ()))
  split
  · exact Keeps.pure ()
  · exact wrM_sameButRegs _ _ _

theorem shelveBoard_ready {b : Nat} {c : Chip} (h : c.arrState b = arrReady) (cause : Nat) : (shelveBoard b cause false true).run c =
    (admitStandin b).run { c.wr R.ARRAY_STATE_STATE (boardOff b) arrShelved with
      truings := Tbl.erase b c.truings, shelvedWith := c.shelvedWith.filter (· != b) } := by
  rw [shelveBoard, CM.get_bind]
  dsimp only
  rw [if_pos (.inl h)]
  rfl

theorem regKey_overdueCount_ne_state (b : Nat) :
    regKey R.TRUE_OVERDUE_COUNT (dieOff (b / 6144)) ≠ regKey R.ARRAY_STATE_STATE (boardOff b) := by
  simp only [regKey, boardOff, dieOff, R.TRUE_OVERDUE_COUNT, R.ARRAY_STATE_STATE]
  omega

theorem regKey_overdueCount_ne_standin (b : Nat) : ¬standinKeys b (regKey R.TRUE_OVERDUE_COUNT (dieOff (b / 6144))) := by
  have ht : tileOfBoard b / 48 = b / 6144 := by unfold tileOfBoard; omega
  rintro ⟨f, hf, he⟩
  simp only [standinFlds, List.mem_cons, List.not_mem_nil, or_false] at hf
  simp only [regKey, tileOff, dieOff, ht, R.TRUE_OVERDUE_COUNT] at he
  rcases hf with rfl | rfl | rfl | rfl <;> simp only [R.TILE_STANDIN_SET_MEMBER0, R.TILE_STANDIN_SET_MEMBER1,
    R.TILE_STANDIN_SET_MEMBER2, R.TILE_STANDIN_SET_MEMBER3] at he <;> omega

/-- A READY board is shelved; nothing waits for the reactions, and no overdue truing is counted yet. -/
theorem shelveBoard_shelved {b : Nat} {c : Chip} (h : c.arrState b = arrReady) (cause : Nat) :
    let d := ((shelveBoard b cause false true).run c).2
    d.calm = c.calm ∧ d.arrState b = arrShelved ∧
      d.rd R.TRUE_OVERDUE_COUNT (dieOff (b / 6144)) = c.rd R.TRUE_OVERDUE_COUNT (dieOff (b / 6144)) := by
  have hstate : (c.wr R.ARRAY_STATE_STATE (boardOff b) arrShelved).arrState b = arrShelved := Chip.rd_wr_same ..
  have hcount := Chip.rd_wr_other (regKey_overdueCount_ne_state b) c arrShelved
  rw [shelveBoard_ready h]
  generalize hd : ({ c.wr R.ARRAY_STATE_STATE (boardOff b) arrShelved with
      truings := Tbl.erase b c.truings, shelvedWith := c.shelvedWith.filter (· != b) } : Chip) = d
  have hcalm := (admitStandin_sameButRegs b d d.sameButRegs_refl).calm
  refine ⟨hcalm.trans (hd ▸ rfl), ((admitStandin_mods b).rd ?_ d).trans (hd ▸ hstate),
    ((admitStandin_mods b).rd (regKey_overdueCount_ne_standin b) d).trans (hd ▸ hcount)⟩
  rintro ⟨f, hf, he⟩
  exact regKey_standin_ne_state hf he

/-- A board that has been shelved for an overdue truing: marked, and counted. -/
structure Chip.Overdue (b n : Nat) (c : Chip) : Prop where
  calm : c.calm = true
  shelved : c.arrState b = arrShelved
  marked : c.flag R.TRUE_BOARD_STATE_OVERDUE (boardOff b) = true
  counted : c.rd R.TRUE_OVERDUE_COUNT (dieOff (b / 6144)) = n

/-- The keys of what shows an overdue board. -/
def overdueKeys (b k : Nat) : Prop := k = regKey R.ARRAY_STATE_STATE (boardOff b) ∨
  k = regKey R.TRUE_BOARD_STATE_OVERDUE (boardOff b) ∨ k = regKey R.TRUE_OVERDUE_COUNT (dieOff (b / 6144))

theorem Chip.Overdue.of_mods {α : Type} {P : Nat → Prop} {m : CM α} {b n : Nat} (hm : Mods P m)
    (hP : ∀ k, overdueKeys b k → ¬P k) (hc : Keeps (fun c => c.calm = true) m) : Keeps (Chip.Overdue b n) m := fun c h =>
  { calm := hc c h.calm
    shelved := (hm.rd (hP _ (.inl rfl)) c).trans h.shelved
    marked := (congrArg (fun v => decide (v = 1)) (hm.rd (hP _ (.inr (.inl rfl))) c)).trans h.marked
    counted := (hm.rd (hP _ (.inr (.inr rfl))) c).trans h.counted }

theorem not_overdueKeys_cause {b : Nat} : ∀ k, overdueKeys b k → k ≠ regKey R.FAULT_CAUSE_COUNT (4 * 0x05) := by
  rintro _ (rfl | rfl | rfl) <;> simp only [regKey, boardOff, dieOff, R.ARRAY_STATE_STATE, R.TRUE_BOARD_STATE_OVERDUE,
    R.TRUE_OVERDUE_COUNT, R.FAULT_CAUSE_COUNT] <;> omega

theorem not_overdueKeys_trigLost {b : Nat} : ∀ k, overdueKeys b k → k ≠ regKey R.EVR_TRIG_LOST_COUNT (dieOff (b / 6144)) := by
  rintro _ (rfl | rfl | rfl) <;> simp only [regKey, boardOff, dieOff, R.ARRAY_STATE_STATE, R.TRUE_BOARD_STATE_OVERDUE,
    R.TRUE_OVERDUE_COUNT, R.EVR_TRIG_LOST_COUNT] <;> omega

/-- A report that is of no load event waits for no reaction. -/
theorem report_calm {r : Report} (h : 8 < r.event) : Keeps (fun c => c.calm = true) (report r) := fun c hc => by
  simp only [Chip.calm, Bool.and_eq_true, List.all_eq_true, decide_eq_true_eq] at hc
  obtain ⟨⟨⟨hn, hreports⟩, hs⟩, ha⟩ := hc
  simp only [report, CM.run_modify, Chip.calm, hn, hs, ha, Bool.true_and, Bool.and_true, List.all_append, List.all_cons, List.all_nil,
    decide_eq_true h, List.all_eq_true, decide_eq_true_eq]
  exact hreports

theorem shelfReport_overdue (b n : Nat) : Keeps (Chip.Overdue b n) (shelfReport b 0x05) :=
  Keeps.bind (Chip.Overdue.of_mods (P := (· = regKey R.FAULT_CAUSE_COUNT (4 * 0x05))) (Mods.bumpM rfl) not_overdueKeys_cause
    (Keeps.bumpM fun _ _ h => h)) fun _ => Keeps.bind Keeps.get fun _ =>
      Chip.Overdue.of_mods (P := fun _ => False) (Mods.modify fun _ => rfl) (fun _ _ h => h) (report_calm (by decide : 8 < 0x10))

theorem truingRecord_overdue (b n : Nat) : Keeps (Chip.Overdue b n) (truingRecord b) :=
  Keeps.bind Keeps.get fun _ => Chip.Overdue.of_mods (takeRecord_mods _ _ _) not_overdueKeys_trigLost fun c h => by
    obtain ⟨_, _, hrun⟩ := takeRecord_run _ _ _ c
    rw [hrun]
    exact h

/-- A shelved board is counted and marked. -/
theorem overdueMarked {b : Nat} {c : Chip} (hc : c.calm = true) (h : c.arrState b = arrShelved) :
    Chip.Overdue b (min (c.rd R.TRUE_OVERDUE_COUNT (dieOff (b / 6144)) + 1) (2 ^ 32 - 1))
      ((c.bump R.TRUE_OVERDUE_COUNT (dieOff (b / 6144)) 1).wr R.TRUE_BOARD_STATE_OVERDUE (boardOff b) 1) := by
  have hstate : regKey R.ARRAY_STATE_STATE (boardOff b) ≠ regKey R.TRUE_BOARD_STATE_OVERDUE (boardOff b) :=
    regKey_ne_of_place (by decide) _
  have hcount : regKey R.TRUE_OVERDUE_COUNT (dieOff (b / 6144)) ≠ regKey R.TRUE_BOARD_STATE_OVERDUE (boardOff b) := by
    simp only [regKey, R.TRUE_OVERDUE_COUNT, R.TRUE_BOARD_STATE_OVERDUE]
    omega
  refine ⟨hc, ?_, ?_, ?_⟩
  · rw [Chip.arrState, Chip.rd_wr_other hstate, Chip.bump, Chip.rd_wr_other (regKey_overdueCount_ne_state b).symm]
    exact h
  · rw [Chip.flag, Chip.rd_wr_same]
    rfl
  · rw [Chip.rd_wr_other hcount]
    exact Chip.rd_bump_stays rfl ..

theorem doTruingOverdue_overdue {b : Nat} {c : Chip} (hs : c.stepping = true) (h : c.arrState b = arrReady) (hc : c.calm = true)
    (hlate : c.rd R.ARRAY_CAL_BEAT_BEAT (boardOff b) + truingInterval ≤ c.rd R.TIMEBASE_BEAT_BEAT) :
    Chip.Overdue b (min (c.rd R.TRUE_OVERDUE_COUNT (dieOff (b / 6144)) + 1) (2 ^ 32 - 1)) ((doTruingOverdue b).run c).2 := by
  obtain ⟨hcalm, hstate, hcount⟩ := shelveBoard_shelved h 0x05
  have hdue : (c.stepping && decide (c.arrState b = arrReady ∧
      c.rd R.ARRAY_CAL_BEAT_BEAT (boardOff b) + truingInterval ≤ c.rd R.TIMEBASE_BEAT_BEAT)) = true := by
    rw [hs, Bool.true_and]
    exact decide_eq_true ⟨h, hlate⟩
  have hmarked := overdueMarked (hcalm.trans hc) hstate
  rw [hcount] at hmarked
  rw [doTruingOverdue, CM.get_bind, if_pos hdue, CM.run_seq, CM.run_seq, bumpM_run, CM.run_seq, wrM_run]
  exact Keeps.bind (shelfReport_overdue b _) (fun _ => truingRecord_overdue b _) _ hmarked

theorem truingOverdue_completes {s : State} {b : Nat} (hr : s.chip.runs = true) (hc : s.chip.calm = true) (hs : s.chip.stepping = true)
    (h : s.chip.arrState b = arrReady)
    (hlate : s.chip.rd R.ARRAY_CAL_BEAT_BEAT (boardOff b) + truingInterval ≤ s.chip.rd R.TIMEBASE_BEAT_BEAT) :
    Completes (.truingOverdue b) s fun t => t.arrState b = arrShelved ∧ t.flag R.TRUE_BOARD_STATE_OVERDUE (boardOff b) = true ∧
      t.rd R.TRUE_OVERDUE_COUNT (dieOff (b / 6144)) =
        min (s.chip.rd R.TRUE_OVERDUE_COUNT (dieOff (b / 6144)) + 1) (2 ^ 32 - 1) := by
  have hoverdue := doTruingOverdue_overdue (c := { s.chip with sent := [] }) hs h hc hlate
  exact act_effect hr rfl hoverdue.calm fun _ _ => ⟨hoverdue.shelved, hoverdue.marked, hoverdue.counted⟩

/-! ## The commit peg is late (R173, R418) -/

/-- A package whose own tiles have all arrived, in a job with the packages `ns` besides. -/
structure Chip.Arrived (ns : List Nat) (c : Chip) : Prop where
  calm : c.calm = true
  arrived : c.arrived = true
  others : c.others = ns

/-- The same, while it probes those packages. -/
structure Chip.Probes (ns : List Nat) (c : Chip) : Prop extends c.Arrived ns where
  probing : c.probing = some (c.headBeat, ns)

section
variable {ns : List Nat}

theorem reachBeat_arrived (b : Nat) : Keeps (Chip.Arrived ns) (reachBeat b) := by
  refine Keeps.bind Keeps.get fun _ => Keeps.ite (Keeps.bind (Keeps.modify fun _ h => ⟨h.calm, h.arrived, h.others⟩) fun _ => ?_)
    (Keeps.pure ())
  have hnode : regKey R.PKG_NODE_NODE 0 ≠ regKey R.TIMEBASE_BEAT_BEAT 0 := by decide
  refine Keeps.wrM fun c h => ⟨h.calm, h.arrived, ?_⟩
  rw [Chip.others, Chip.rd_wr_other hnode]
  exact h.others

theorem sendCtrl_probes (n : Nat) (m : Ctrl) : Keeps (Chip.Probes ns) (sendCtrl n m) := fun c h => by
  obtain ⟨_, hrun⟩ := sendCtrl_run n m c
  rw [hrun]
  exact { calm := h.calm, arrived := h.arrived, others := h.others, probing := h.probing }

/-- Where every tile has arrived, a probe shelves none of them. -/
theorem probeTiles_arrived {c : Chip} (h : c.arrived = true) : probeTiles.run c = ([], c) := by
  have hnone : c.notArrived = [] := by rw [Chip.notArrived, h, Bool.true_or, if_pos rfl]
  rw [probeTiles, CM.get_bind, hnone]
  rfl

/-- The head waits for the packages it has sent the probe to. -/
theorem probe_leads (hns : ns ≠ []) : Leads (Chip.Arrived ns) (do
    let c ← get
    modify fun c => { c with probing := some (c.headBeat, c.others) }
    forM_ c.others fun n => sendCtrl n (.probe c.stepNow)
    let ts ← probeTiles
    whenM (ts.isEmpty && c.others.isEmpty) (probeOver c.node 4 0)) (Chip.Probes ns) := by
  refine Leads.get fun c hc => ⟨_, hc, ?_⟩
  refine Leads.bind (Q := Chip.Probes ns) ?begin fun _ => ?_
  case begin =>
    exact fun d h => { calm := h.calm, arrived := h.arrived, others := h.others
                       probing := congrArg (fun l => some (d.headBeat, l)) h.others }
  refine Leads.bind (Q := Chip.Probes ns) (Keeps.forM (fun _ => sendCtrl_probes _ _) _) fun _ d h => ?_
  rw [CM.run_bind, probeTiles_arrived h.arrived, hc.others, List.isEmpty_eq_false_iff.2 hns, Bool.and_false, whenM_false]
  exact h

theorem doTackTimeout_probes (hns : ns ≠ []) {c : Chip} (h : c.Arrived ns) (hhead : c.isHead = true) (hruns : c.stepRuns = true)
    (hown : c.seq.commitOwn = none) (hprobing : c.probing = none) (hsettling : c.flag R.FAULT_STATUS_SETTLING = false) :
    (doTackTimeout.run c).2.Probes ns := by
  rw [doTackTimeout, CM.get_bind, hhead, hruns, hown, hprobing, hsettling]
  exact Leads.bind (reachBeat_arrived _) (fun _ => probe_leads hns) c h

end

theorem tackTimeout_completes {s : State} (hr : s.chip.runs = true) (hc : s.chip.calm = true) (hs : s.chip.stepping = true)
    (hhead : s.chip.isHead = true) (hnext : s.chip.seq.next = none) (hown : s.chip.seq.commitOwn = none)
    (hprobing : s.chip.probing = none) (harrived : s.chip.arrived = true) (hsettling : s.chip.flag R.FAULT_STATUS_SETTLING = false)
    (hothers : s.chip.others ≠ []) : Completes .tackTimeout s fun t => t.probing = some (t.headBeat, s.chip.others) := by
  have hruns : s.chip.stepRuns = true := by rw [Chip.stepRuns, hs, hnext]; rfl
  have hprobes := doTackTimeout_probes hothers (c := { s.chip with sent := [] }) ⟨hc, harrived, rfl⟩ hhead hruns hown hprobing
    hsettling
  exact act_effect hr rfl hprobes.calm fun _ _ => hprobes.probing

/-- Settles O21, each clause by what its command does. -/
theorem lateStepEvents : Obligations.LateStepEvents := by
  unfold Obligations.LateStepEvents
  intro s hr hc hs
  refine ⟨?batch, ?truing, ?probe⟩
  case batch =>
    intro hn hlacks
    rw [Bool.decide_eq_true] at hlacks
    exact batchLate_completes hr hc hs rfl hn hlacks
  case truing => exact fun b _ h hlate => truingOverdue_completes hr hc hs h hlate
  case probe =>
    exact fun hhead hnext hown hprobing harrived hsettling hothers =>
      tackTimeout_completes hr hc hs hhead hnext hown hprobing harrived hsettling hothers

end Sys2Proof.Machine
end

section
/-! Settles the statement on draws: what a read of a scratchpad's lines leaves alone, and from it the draw of a slot at the tail. -/
namespace Sys2Proof.Machine

/-! ## Reads of a scratchpad (R139, R145, R148) -/

/-- The fields in which a tile counts what the reads of its scratchpad meet. -/
def readFlds : List Fld := [R.SPAD_CORRECTED_COUNT, R.SPAD_UNCORR_COUNT, R.SPAD_STALE_READS_COUNT, R.SPAD_BOUND_VIOL_COUNT,
  R.SPAD_TAG_ERR_COUNT]

/-- What a property must allow for a tile's scratchpad to be read: a corrected codeword, the counts, and a FAULT message. -/
structure AllowsRead (I : Chip → Prop) (t : Nat) : Prop where
  tile (f : Tile → Tile) : ∀ c, I c → I (c.onTile t f)
  count {f : Fld} (v : Nat) : f ∈ readFlds → ∀ c, I c → I (c.wr f (tileOff t) v)
  tack (ms : List TackMsg) : ∀ c, I c → I { c with tack := ms }

section
variable {I : Chip → Prop} {t : Nat} (h : AllowsRead I t)
include h

theorem AllowsRead.bumpM {f : Fld} (hf : f ∈ readFlds) (n : Nat) : Keeps I (bumpM f (tileOff t) n) :=
  Keeps.bumpM fun c v => h.count v hf c

theorem AllowsRead.raiseTile (cause : Nat) : Keeps I (raiseTile t cause) := Keeps.modify fun _ => h.tack _ _

theorem AllowsRead.codewordRead (p : Nat) : Keeps I (codewordRead t p) := by
  refine Keeps.bind (Keeps.bind Keeps.get fun _ => Keeps.pure _) fun x => ?_
  have corrected : Keeps I (do
      onTileM t fun x => { x with symErr := Tbl.put 0 x.symErr p 0 }
      Machine.bumpM R.SPAD_CORRECTED_COUNT (tileOff t)
      pure (lineBytes x.mem p)) :=
    Keeps.bind (Keeps.modify (h.tile _)) fun _ => Keeps.bind (h.bumpM (by simp [readFlds]) 1) fun _ => Keeps.pure _
  split
  · exact Keeps.pure _
  · exact corrected
  · exact corrected
  · exact Keeps.bind (h.bumpM (by simp [readFlds]) 1) fun _ => Keeps.bind (h.raiseTile _) fun _ => Keeps.pure _

theorem AllowsRead.boundViolation : Keeps I (boundViolation t) :=
  Keeps.bind (h.bumpM (by simp [readFlds]) 1) fun _ => h.raiseTile _

theorem AllowsRead.readLine (slot line : Nat) : Keeps I (readLine t slot line) := by
  have stale : R.SPAD_STALE_READS_COUNT ∈ readFlds := by simp [readFlds]
  refine Keeps.bind Keeps.get fun c => Keeps.ite ?outside (Keeps.ite ?split (Keeps.ite (h.codewordRead _) ?unseen))
  case outside => exact Keeps.bind h.boundViolation fun _ => Keeps.pure _
  case split =>
    exact Keeps.bind (h.bumpM (by simp [readFlds]) 1) fun _ => Keeps.bind (h.bumpM stale 1) fun _ =>
      Keeps.bind (h.raiseTile _) fun _ => Keeps.pure _
  case unseen => exact Keeps.bind (h.bumpM stale 1) fun _ => Keeps.pure _

theorem AllowsRead.readLines (slot line n : Nat) : Keeps I (readLines t slot line n) :=
  Keeps.bind (Keeps.mapM (fun _ => h.readLine slot _) _) fun _ => Keeps.pure _

end

/-! ## The draw of a slot (R324, R325) -/

/-- What a package serves with a token drawn for a slot. -/
def Serving.drew (v : Serving) (slot tok : Nat) : Serving := { v with draws := Tbl.insert slot tok v.draws }

/-- What the package serves, with `n` draws counted and nothing that waits for the reactions. -/
structure Chip.Drew (v : Serving) (n : Nat) (c : Chip) : Prop extends c.Serves v where
  counted : c.rd R.SAMPLER_DRAWS_COUNT = n

/-- The sampler's count of draws stands apart from what a tile counts of its scratchpad's reads. -/
theorem regKey_draws_ne_read {f : Fld} (hf : f ∈ readFlds) (t : Nat) : regKey R.SAMPLER_DRAWS_COUNT 0 ≠ regKey f (tileOff t) := by
  simp only [readFlds, List.mem_cons, List.not_mem_nil, or_false] at hf
  simp only [regKey, tileOff, dieOff, R.SAMPLER_DRAWS_COUNT]
  rcases hf with rfl | rfl | rfl | rfl | rfl <;>
    simp only [R.SPAD_CORRECTED_COUNT, R.SPAD_UNCORR_COUNT, R.SPAD_STALE_READS_COUNT, R.SPAD_BOUND_VIOL_COUNT,
      R.SPAD_TAG_ERR_COUNT] <;> omega

section
variable {v : Serving} {n : Nat}

theorem Chip.Drew.wr_other {c : Chip} (h : c.Drew v n) {f : Fld} {o : Nat} (hk : regKey R.SAMPLER_DRAWS_COUNT 0 ≠ regKey f o)
    (x : Nat) : (c.wr f o x).Drew v n :=
  { calm := h.calm, serving := h.serving, counted := (Chip.rd_wr_other hk c x).trans h.counted }

theorem Chip.Drew.allowsRead (t : Nat) : AllowsRead (Chip.Drew v n) t where
  tile _ _ h := { calm := h.calm, serving := h.serving, counted := h.counted }
  count x hf _ h := h.wr_other (regKey_draws_ne_read hf t) x
  tack _ _ h := { calm := h.calm, serving := h.serving, counted := h.counted }

theorem readSampler_drew (x : Nat) : Keeps (Chip.Drew v n) (readSampler x) :=
  Keeps.bind ((Chip.Drew.allowsRead _).readLines _ _ _) fun _ => Keeps.pure _

theorem readCount_drew (x b : Nat) : Keeps (Chip.Drew v n) (readCount x b) :=
  Keeps.bind ((Chip.Drew.allowsRead _).readLine _ _) fun _ => Keeps.pure _

theorem bumpM_draws_leads : Leads (Chip.Drew v n) (bumpM R.SAMPLER_DRAWS_COUNT)
    (Chip.Drew v (R.SAMPLER_DRAWS_COUNT.count n 1)) := fun c h =>
  { calm := h.calm, serving := h.serving
    counted := by rw [bumpM_run, Chip.rd_bump_wraps rfl, h.counted]; rfl }

theorem bumpM_greedy_drew : Keeps (Chip.Drew v n) (bumpM R.SAMPLER_GREEDY_COUNT) :=
  Keeps.bumpM fun _ x h => h.wr_other (regKey_ne_of_place (by decide) 0) x

theorem onServing_drew_leads (slot tok : Nat) :
    Leads (Chip.Drew v n) (onServing fun v => v.drew slot tok) (Chip.Drew (v.drew slot tok) n) := fun c h =>
  { onServing_serves v _ c h.toServes with counted := h.counted }

/-- The draw of a valid slot that samples: the record and the counts are read, one draw is counted, and its token recorded. -/
theorem doSamplerDraw_leads {slot : Nat} {q : BatchSlot} (hslot : v.batch.slots[slot]? = some q) (hvalid : q.valid = true)
    (hsample : q.sample = true) (logits : List Nat) :
    Leads (fun c => c.Drew v n ∧ c.stepping = true ∧ c.isTail = true) (doSamplerDraw slot logits)
      fun c => ∃ tok, c.Drew (v.drew slot tok) (R.SAMPLER_DRAWS_COUNT.count n 1) := by
  refine Leads.get fun c ⟨h, hstep, htail⟩ => ⟨_, h, ?_⟩
  have hdraws : (c.stepping && c.isTail && q.valid && q.sample) = true := by rw [hstep, htail, hvalid, hsample]; rfl
  rw [h.serving, hslot]
  dsimp only
  rw [if_pos hdraws]
  refine Leads.bind (readSampler_drew _) fun ⟨r, _⟩ => Leads.bind (Keeps.mapM (fun _ => readCount_drew _ _) _) fun _ => ?_
  refine Leads.bind bumpM_draws_leads fun _ => Leads.bind (Keeps.whenM bumpM_greedy_drew) fun _ => ?_
  exact fun d h => ⟨_, onServing_drew_leads slot _ d h⟩

end

/-- Settles O23: the reads on the way leave the serving state and the count of draws alone. -/
theorem samplerDrawsOneToken : Obligations.SamplerDrawsOneToken := by
  unfold Obligations.SamplerDrawsOneToken
  intro s slot logits q hr hc hstep htail hslot hvalid hsample
  refine act_leads hr (doSamplerDraw_leads hslot hvalid hsample logits) ⟨⟨⟨hc, rfl⟩, rfl⟩, hstep, htail⟩
    (fun _ ⟨_, h⟩ => h.calm) fun d g out ⟨tok, h⟩ => ?_
  have hserving : d.serving = _ := h.serving
  exact ⟨tok, congrArg (·.draws) hserving, h.counted, congrArg (·.requests) hserving, congrArg (·.batch) hserving⟩

end Sys2Proof.Machine
end
